-- ==== Sys2Proof/Syntax.lean ====
section
/-! DEFINITION. The steps of the Quitrum Q8: one constructor per row of spec/opcode_table.json.
An instruction's constructor carries the fields of its word as spec/04_opcode_map.md and the instruction chapters
name them (BRD, JTAB, PPT and MOVL carry their trailers too); an event's constructor carries what the outside
world, an engine or a timer brings with it. -/

namespace Sys2Proof

/-- An access of a peer package's agent to this package's memory or to a node, as its request carries it (R365). -/
inductive PeerAccess where
  | load (fpa len : Nat)
  | store (fpa : Nat) (data : List (BitVec 8)) (poison : Bool)
  | atom (fpa op : Nat) (operands : List (BitVec 64))
  deriving DecidableEq, Repr

/-- A unicast flit at a node: one of this package's own, by its number, or a peer's access (R363). -/
inductive FlitRef where
  | own (flit : Nat)
  | peer (acc : PeerAccess)
  deriving DecidableEq, Repr

/-- One rank's contribution to a combining instance, as COMB's descriptor gives it (R183). `srcOp` names this
package's engine operation that sent it, if one did. -/
structure Contribution where
  dst : Nat
  tag : Nat
  bytes : Nat
  op : Nat
  gsm1 : Nat
  olen : Nat
  rank : Nat
  data : List (BitVec 8)
  poison : List Nat
  srcOp : Option Nat
  deriving DecidableEq, Repr

/-- Where an uncorrectable soft error strikes (R286): a line of a home, by a byte of it, or a line of a task's scratch, by an offset. -/
inductive EccSite where
  | line (fpa : Nat)
  | scratch (task off : Nat)
  deriving DecidableEq, Repr

/-- A port whose state changes: this package's to a node, or a peer package's, the other end of a path (R361, R365). -/
inductive FabricPort where
  | own (node : Nat)
  | far (node pkg : Nat)
  deriving DecidableEq, Repr

/-- A packet that reaches a die's rail (R374, R382, R388): its sender's address, its sequence number, the fields of its
message that every packet carries, its payload, and the runs of it (first byte, length) that carry poison. `opc` is R202's OPC; 4 is a READ
response. -/
structure NetPacket where
  srcIp : BitVec 128
  psn : Nat
  msg : Nat
  opc : Nat
  dmode : Nat
  job : Nat
  rkey : BitVec 32
  roff : Nat
  moff : Nat
  len : Nat
  rcoff : BitVec 64
  tag : BitVec 32
  mtu : Nat
  data : List (BitVec 8)
  poison : List (Nat × Nat)
  intact : Bool
  deriving DecidableEq, Repr

/-- Every step of the part (spec/opcode_table.json): the instructions, the steps that the part takes by itself, the steps that
come from outside it, and the steps without fields. -/
inductive Instr where
  /-- CLH, R48. -/
  | clh (w : BitVec 12) (a b l : BitVec 4) (y : BitVec 1)
  /-- BRA, R88. -/
  | bra (n : BitVec 1) (p : BitVec 4) (o : BitVec 20)
  /-- BRD, R89. -/
  | brd (n : BitVec 1) (p : BitVec 4) (o : BitVec 20) (t : BitVec 32)
  /-- JTAB, R90. -/
  | jtab (a b : BitVec 7) (t : BitVec 32)
  /-- JMPI, R91. -/
  | jmpi (a : BitVec 7)
  /-- CALL, R91. -/
  | call (n : BitVec 1) (p : BitVec 3) (o : BitVec 20)
  /-- WBASE, R94. -/
  | wbase (m r : BitVec 1) (i : BitVec 11)
  /-- TRAPI, R95. -/
  | trapi (i : BitVec 11)
  /-- PPT, R98. -/
  | ppt (tv tu tc : BitVec 32)
  /-- MARK, R99. -/
  | mark (i : BitVec 11)
  /-- SPAWN, R102. -/
  | spawn (d a b : BitVec 7) (c : BitVec 1)
  /-- SPAWNR, R102. -/
  | spawnr (d a b : BitVec 7) (c : BitVec 1)
  /-- AWAIT, R104. -/
  | await (a : BitVec 7)
  /-- AWAITP, R105. -/
  | awaitp (a : BitVec 7)
  /-- AWAITC, R106. -/
  | awaitc (a b : BitVec 7)
  /-- BCLOSE, R107. -/
  | bclose (d : BitVec 7)
  /-- BWAIT, R108. -/
  | bwait (a : BitVec 7)
  /-- BSTAT, R109. -/
  | bstat (d : BitVec 7) (f : BitVec 1)
  /-- BAR, R110. -/
  | bar (a : BitVec 7) (i : BitVec 4)
  /-- PBAR, R111. -/
  | pbar (a : BitVec 7)
  /-- SIGNAL, R112. -/
  | signal (a b : BitVec 7)
  /-- IADD, R115. -/
  | iadd (d a b : BitVec 7) (u : BitVec 1)
  /-- ISUB, R115. -/
  | isub (d a b : BitVec 7) (u : BitVec 1)
  /-- IADD_SS, R115. -/
  | iaddSs (d a b : BitVec 7) (u : BitVec 1)
  /-- IADD_ZS, R115. -/
  | iaddZs (d a b : BitVec 7) (u : BitVec 1)
  /-- ISUB_SS, R115. -/
  | isubSs (d a b : BitVec 7) (u : BitVec 1)
  /-- ISUB_ZS, R115. -/
  | isubZs (d a b : BitVec 7) (u : BitVec 1)
  /-- IABSD, R115. -/
  | iabsd (d a b : BitVec 7) (u : BitVec 1)
  /-- IAVG, R115. -/
  | iavg (d a b : BitVec 7) (u : BitVec 1)
  /-- IADD64, R121. -/
  | iadd64 (d a b : BitVec 7) (u : BitVec 1)
  /-- ISUB64, R121. -/
  | isub64 (d a b : BitVec 7) (u : BitVec 1)
  /-- SHL64, R121. -/
  | shl64 (d a b : BitVec 7) (u : BitVec 1)
  /-- SHR64, R121. -/
  | shr64 (d a b : BitVec 7) (u : BitVec 1)
  /-- SAR64, R121. -/
  | sar64 (d a b : BitVec 7) (u : BitVec 1)
  /-- IMULW, R121. -/
  | imulw (d a b : BitVec 7) (u : BitVec 1)
  /-- IMULW_Z, R121. -/
  | imulwZ (d a b : BitVec 7) (u : BitVec 1)
  /-- IMUL, R116. -/
  | imul (d a b : BitVec 7) (u : BitVec 1)
  /-- IMULH_S, R116. -/
  | imulhS (d a b : BitVec 7) (u : BitVec 1)
  /-- IMULH_Z, R116. -/
  | imulhZ (d a b : BitVec 7) (u : BitVec 1)
  /-- IMAD, R116. -/
  | imad (d a b : BitVec 7) (u : BitVec 1)
  /-- IDOT4_S, R116. -/
  | idot4S (d a b : BitVec 7) (u : BitVec 1)
  /-- IDOT4_Z, R116. -/
  | idot4Z (d a b : BitVec 7) (u : BitVec 1)
  /-- IDOT2, R116. -/
  | idot2 (d a b : BitVec 7) (u : BitVec 1)
  /-- IMIN_S, R117. -/
  | iminS (d a b : BitVec 7) (u : BitVec 1)
  /-- IMIN_Z, R117. -/
  | iminZ (d a b : BitVec 7) (u : BitVec 1)
  /-- IMAX_S, R117. -/
  | imaxS (d a b : BitVec 7) (u : BitVec 1)
  /-- IMAX_Z, R117. -/
  | imaxZ (d a b : BitVec 7) (u : BitVec 1)
  /-- IABS, R117. -/
  | iabs (d a : BitVec 7) (u : BitVec 1)
  /-- INEG, R117. -/
  | ineg (d a : BitVec 7) (u : BitVec 1)
  /-- ISGN, R117. -/
  | isgn (d a : BitVec 7) (u : BitVec 1)
  /-- AND, R118. -/
  | and (d a b : BitVec 7) (u : BitVec 1)
  /-- OR, R118. -/
  | or (d a b : BitVec 7) (u : BitVec 1)
  /-- XOR, R118. -/
  | xor (d a b : BitVec 7) (u : BitVec 1)
  /-- ANDN, R118. -/
  | andn (d a b : BitVec 7) (u : BitVec 1)
  /-- ORN, R118. -/
  | orn (d a b : BitVec 7) (u : BitVec 1)
  /-- XNOR, R118. -/
  | xnor (d a b : BitVec 7) (u : BitVec 1)
  /-- NOT, R118. -/
  | not (d a : BitVec 7) (u : BitVec 1)
  /-- SHL, R119. -/
  | shl (d a b : BitVec 7) (u : BitVec 1)
  /-- SHR, R119. -/
  | shr (d a b : BitVec 7) (u : BitVec 1)
  /-- SAR, R119. -/
  | sar (d a b : BitVec 7) (u : BitVec 1)
  /-- ROL, R119. -/
  | rol (d a b : BitVec 7) (u : BitVec 1)
  /-- ROR, R119. -/
  | ror (d a b : BitVec 7) (u : BitVec 1)
  /-- FSHL, R119. -/
  | fshl (d a b : BitVec 7) (u : BitVec 1)
  /-- FSHR, R119. -/
  | fshr (d a b : BitVec 7) (u : BitVec 1)
  /-- POPC, R120. -/
  | popc (d a : BitVec 7) (u : BitVec 1)
  /-- CLZ, R120. -/
  | clz (d a : BitVec 7) (u : BitVec 1)
  /-- CTZ, R120. -/
  | ctz (d a : BitVec 7) (u : BitVec 1)
  /-- BREV, R120. -/
  | brev (d a : BitVec 7) (u : BitVec 1)
  /-- BFE_Z, R120. -/
  | bfeZ (d a b : BitVec 7) (u : BitVec 1)
  /-- BFE_S, R120. -/
  | bfeS (d a b : BitVec 7) (u : BitVec 1)
  /-- BFI, R120. -/
  | bfi (d a b : BitVec 7) (u : BitVec 1)
  /-- PRMT, R120. -/
  | prmt (d a b : BitVec 7) (u : BitVec 1)
  /-- ISETP, R122. -/
  | isetp (d : BitVec 3) (a b : BitVec 7) (u : BitVec 1) (c : BitVec 3)
  /-- SEL, R123. -/
  | sel (d a b : BitVec 7) (u : BitVec 1) (n : BitVec 3)
  /-- MOV, R126. -/
  | mov (d a : BitVec 7) (u : BitVec 1)
  /-- MFS, R126. -/
  | mfs (d a : BitVec 7)
  /-- MTS, R127. -/
  | mts (d a : BitVec 7)
  /-- VXGET, R126. -/
  | vxget (d : BitVec 7) (k : BitVec 2) (b : BitVec 7)
  /-- VXPUT, R126. -/
  | vxput (d : BitVec 7) (k : BitVec 2) (b : BitVec 7)
  /-- P2V, R126. -/
  | p2v (d : BitVec 7) (a : BitVec 1)
  /-- V2P, R126. -/
  | v2p (d : BitVec 1) (a : BitVec 7)
  /-- UVGET, R126. -/
  | uvget (d a b : BitVec 7)
  /-- IADDI, R124. -/
  | iaddi (d a : BitVec 7) (i : BitVec 11)
  /-- MOVI, R124. -/
  | movi (d : BitVec 7) (i : BitVec 11)
  /-- MOVL, R124. -/
  | movl (d a : BitVec 7) (lit : BitVec 32)
  /-- LEA, R125. -/
  | lea (d a b : BitVec 7)
  /-- LEA_G, R125. -/
  | leaG (d a b : BitVec 7)
  /-- SADD, R129. -/
  | sadd (d a b : BitVec 7)
  /-- SSUB, R129. -/
  | ssub (d a b : BitVec 7)
  /-- SMUL, R129. -/
  | smul (d a b : BitVec 7)
  /-- SAND, R129. -/
  | sand (d a b : BitVec 7)
  /-- SOR, R129. -/
  | sor (d a b : BitVec 7)
  /-- SXOR, R129. -/
  | sxor (d a b : BitVec 7)
  /-- SSHL, R129. -/
  | sshl (d a b : BitVec 7)
  /-- SSHR, R129. -/
  | sshr (d a b : BitVec 7)
  /-- SMIN_S, R129. -/
  | sminS (d a b : BitVec 7)
  /-- SMAX_S, R129. -/
  | smaxS (d a b : BitVec 7)
  /-- SMIN_Z, R129. -/
  | sminZ (d a b : BitVec 7)
  /-- SMAX_Z, R129. -/
  | smaxZ (d a b : BitVec 7)
  /-- SADD64, R129. -/
  | sadd64 (d a b : BitVec 7)
  /-- SSUB64, R129. -/
  | ssub64 (d a b : BitVec 7)
  /-- SSAR, R129. -/
  | ssar (d a b : BitVec 7)
  /-- SPOPC, R129. -/
  | spopc (d a : BitVec 7)
  /-- SSETQ, R122. -/
  | ssetq (d : BitVec 3) (a b : BitVec 7) (c : BitVec 3)
  /-- SADDI, R124. -/
  | saddi (d a : BitVec 7) (i : BitVec 11)
  /-- SMOVI, R124. -/
  | smovi (d : BitVec 7) (i : BitVec 11)
  /-- SLEA, R125. -/
  | slea (d a b : BitVec 7)
  /-- SLEA_G, R125. -/
  | sleaG (d a b : BitVec 7)
  /-- SHFL_IDX, R130. -/
  | shflIdx (d a b : BitVec 7)
  /-- SHFL_UP, R130. -/
  | shflUp (d a : BitVec 7) (n : BitVec 5)
  /-- SHFL_DN, R130. -/
  | shflDn (d a : BitVec 7) (n : BitVec 5)
  /-- SHFL_XOR, R130. -/
  | shflXor (d a : BitVec 7) (n : BitVec 5)
  /-- VOTE_ANY, R131. -/
  | voteAny (q : BitVec 3) (n : BitVec 1) (p : BitVec 3)
  /-- VOTE_ALL, R131. -/
  | voteAll (q : BitVec 3) (n : BitVec 1) (p : BitVec 3)
  /-- VOTE_BALLOT, R131. -/
  | voteBallot (d : BitVec 7) (n : BitVec 1) (p : BitVec 3)
  /-- VOTE_UNI, R131. -/
  | voteUni (q : BitVec 3) (n : BitVec 1) (p : BitVec 3)
  /-- LRED, R132. -/
  | lred (d a : BitVec 7) (o : BitVec 3)
  /-- LSCAN, R132. -/
  | lscan (d a : BitVec 7) (o : BitVec 3)
  /-- MATCH, R133. -/
  | matchLanes (d a : BitVec 7)
  /-- FADD, R137. -/
  | fadd (d a b : BitVec 7) (u : BitVec 1)
  /-- FSUB, R137. -/
  | fsub (d a b : BitVec 7) (u : BitVec 1)
  /-- FMUL, R137. -/
  | fmul (d a b : BitVec 7) (u : BitVec 1)
  /-- FMIN, R137. -/
  | fmin (d a b : BitVec 7) (u : BitVec 1)
  /-- FMAX, R137. -/
  | fmax (d a b : BitVec 7) (u : BitVec 1)
  /-- FMINN, R137. -/
  | fminn (d a b : BitVec 7) (u : BitVec 1)
  /-- FMAXN, R137. -/
  | fmaxn (d a b : BitVec 7) (u : BitVec 1)
  /-- FCSGN, R137. -/
  | fcsgn (d a b : BitVec 7) (u : BitVec 1)
  /-- FFMA, R138. -/
  | ffma (d a b : BitVec 7) (u : BitVec 1)
  /-- FFMS, R138. -/
  | ffms (d a b : BitVec 7) (u : BitVec 1)
  /-- FNFMA, R138. -/
  | fnfma (d a b : BitVec 7) (u : BitVec 1)
  /-- FNFMS, R138. -/
  | fnfms (d a b : BitVec 7) (u : BitVec 1)
  /-- FSETP, R139. -/
  | fsetp (d : BitVec 3) (a b : BitVec 7) (u : BitVec 1) (c : BitVec 3)
  /-- FCLASS, R140. -/
  | fclass (d a : BitVec 7) (u : BitVec 1)
  /-- FRND, R140. -/
  | frnd (d a : BitVec 7) (u : BitVec 1)
  /-- FLDEXP, R140. -/
  | fldexp (d a b : BitVec 7) (u : BitVec 1)
  /-- FGETX, R140. -/
  | fgetx (d a : BitVec 7) (u : BitVec 1)
  /-- FFRAC, R140. -/
  | ffrac (d a : BitVec 7) (u : BitVec 1)
  /-- FABS, R140. -/
  | fabs (d a : BitVec 7) (u : BitVec 1)
  /-- FNEG, R140. -/
  | fneg (d a : BitVec 7) (u : BitVec 1)
  /-- FSAT, R140. -/
  | fsat (d a : BitVec 7) (u : BitVec 1)
  /-- RCP, R142. -/
  | rcp (d a : BitVec 7) (f u : BitVec 1)
  /-- RSQ, R309. -/
  | rsq (d a : BitVec 7) (f u : BitVec 1)
  /-- SQRT, R142. -/
  | sqrt (d a : BitVec 7) (f u : BitVec 1)
  /-- EX2, R307. -/
  | ex2 (d a : BitVec 7) (f u : BitVec 1)
  /-- LG2, R308. -/
  | lg2 (d a : BitVec 7) (f u : BitVec 1)
  /-- SINPI, R310. -/
  | sinpi (d a : BitVec 7) (f u : BitVec 1)
  /-- COSPI, R310. -/
  | cospi (d a : BitVec 7) (f u : BitVec 1)
  /-- FDIV, R141. -/
  | fdiv (d a : BitVec 7) (f : BitVec 1) (b : BitVec 6) (u : BitVec 1)
  /-- HADD2, R143. -/
  | hadd2 (d a b : BitVec 7) (t : BitVec 1)
  /-- HSUB2, R143. -/
  | hsub2 (d a b : BitVec 7) (t : BitVec 1)
  /-- HMUL2, R143. -/
  | hmul2 (d a b : BitVec 7) (t : BitVec 1)
  /-- HFMA2, R143. -/
  | hfma2 (d a b : BitVec 7) (t : BitVec 1)
  /-- HMIN2, R143. -/
  | hmin2 (d a b : BitVec 7) (t : BitVec 1)
  /-- HMAX2, R143. -/
  | hmax2 (d a b : BitVec 7) (t : BitVec 1)
  /-- HRCP, R143. -/
  | hrcp (d a : BitVec 7) (f t : BitVec 1)
  /-- HRSQ, R143. -/
  | hrsq (d a : BitVec 7) (f t : BitVec 1)
  /-- HSQRT, R143. -/
  | hsqrt (d a : BitVec 7) (f t : BitVec 1)
  /-- HEX2, R143. -/
  | hex2 (d a : BitVec 7) (f t : BitVec 1)
  /-- HLG2, R143. -/
  | hlg2 (d a : BitVec 7) (f t : BitVec 1)
  /-- HSINPI, R143. -/
  | hsinpi (d a : BitVec 7) (f t : BitVec 1)
  /-- HCOSPI, R143. -/
  | hcospi (d a : BitVec 7) (f t : BitVec 1)
  /-- CVT, R144. -/
  | cvt (d a : BitVec 7) (e : BitVec 4) (s : BitVec 3) (x : BitVec 1) (p : BitVec 2)
  /-- FMTSET, R147. -/
  | fmtset (s : BitVec 3) (a : BitVec 7)
  /-- QSCALE, R153. -/
  | qscale (d a : BitVec 7) (f : BitVec 3)
  /-- QCVT, R154. -/
  | qcvt (d a b : BitVec 7) (f : BitVec 3)
  /-- QST, R155. -/
  | qst (d a b : BitVec 7) (f : BitVec 3)
  /-- DQLD, R156. -/
  | dqld (d a b : BitVec 7) (x : BitVec 1) (f : BitVec 3)
  /-- DQ, R154. -/
  | dq (d a b : BitVec 7) (f : BitVec 3)
  /-- REKEY, R154. -/
  | rekey (d a b : BitVec 7) (f : BitVec 3)
  /-- LD, R164. -/
  | ld (d a b : BitVec 7) (x : BitVec 1) (w : BitVec 3)
  /-- LDI, R164. -/
  | ldi (d a : BitVec 7) (i : BitVec 10) (f : BitVec 1)
  /-- ST, R165. -/
  | st (d a b : BitVec 7) (w : BitVec 3)
  /-- STI, R165. -/
  | sti (d a : BitVec 7) (i : BitVec 11)
  /-- LDS, R166. -/
  | lds (d a : BitVec 7) (f : BitVec 1) (b : BitVec 6) (w : BitVec 3)
  /-- STS, R166. -/
  | sts (d a b : BitVec 7) (w : BitVec 3)
  /-- LDU, R164. -/
  | ldu (d a b : BitVec 7) (x : BitVec 1) (w : BitVec 3)
  /-- ATOM, R172. -/
  | atom (d a : BitVec 7) (f : BitVec 1) (b : BitVec 6) (o : BitVec 4)
  /-- ARED, R171. -/
  | ared (a b : BitVec 7) (o : BitVec 4)
  /-- ACP, R175. -/
  | acp (a : BitVec 7)
  /-- CWB, R178. -/
  | cwb (a b : BitVec 7)
  /-- CINV_D, R179. -/
  | cinvD (d a b : BitVec 7)
  /-- CINV_W, R178. -/
  | cinvW (a b : BitVec 7)
  /-- PREF, R180. -/
  | pref (a : BitVec 7) (l : BitVec 1)
  /-- CPROBE, R181. -/
  | cprobe (d a : BitVec 7) (f : BitVec 1)
  /-- STM, R182. -/
  | stm (a : BitVec 7)
  /-- COMB, R183. -/
  | comb (a : BitVec 7)
  /-- GANG, R187. -/
  | gang (a b : BitVec 7)
  /-- PMMA, R190. -/
  | pmma (d : BitVec 5) (a b : BitVec 7) (p : BitVec 3)
  /-- PACC_ZERO, R193. -/
  | paccZero (d : BitVec 5)
  /-- PACC_LDA, R193. -/
  | paccLda (d : BitVec 5) (a : BitVec 7)
  /-- PACC_STA, R193. -/
  | paccSta (d : BitVec 5) (a : BitVec 7)
  /-- PACC_STAQ, R194. -/
  | paccStaq (d : BitVec 5) (a : BitVec 7) (f : BitVec 3)
  /-- PACC_RDA, R195. -/
  | paccRda (d : BitVec 7) (a : BitVec 5) (b : BitVec 7) (f : BitVec 1)
  /-- PACC_SCALE, R193. -/
  | paccScale (d : BitVec 5) (a : BitVec 7)
  /-- CGRP, R196. -/
  | cgrp (a : BitVec 7)
  /-- CAG, R199. -/
  | cag (a : BitVec 7)
  /-- CRS, R199. -/
  | crs (a : BitVec 7)
  /-- CAR, R325. -/
  | car (a : BitVec 7)
  /-- CHAND, R326. -/
  | chand (a : BitVec 7)
  /-- CSTAT, R201. -/
  | cstat (d a : BitVec 7) (f : BitVec 1)
  /-- NPOST, R203. -/
  | npost (a : BitVec 7)
  /-- NPOLL, R204. -/
  | npoll (d a : BitVec 7) (f : BitVec 1)
  /-- SYSCALL_VERSION, R205. -/
  | syscallVersion (a : BitVec 7)
  /-- RDTIME, R206. -/
  | rdtime (d : BitVec 7)
  /-- DIGEST_VALUE, R206. -/
  | digestValue (d : BitVec 7)
  /-- DIGEST_COUNT, R206. -/
  | digestCount (d : BitVec 7)
  /-- TMASK, R207. -/
  | tmask (d a b : BitVec 7)
  /-- AFLAGS, R207. -/
  | aflags (d a b : BitVec 7)
  /-- CTXMODE, R208. -/
  | ctxmode (a : BitVec 7)
  /-- TLBI, R209. -/
  | tlbi (a b : BitVec 7)
  /-- YIELD_HOLDOFF_EXPIRE, R93. -/
  | yieldHoldoffExpire (task party : Nat)
  /-- PBAR_RELEASE, R111. -/
  | pbarRelease (ctx slot : Nat)
  /-- PRESS_SERVE, R192. -/
  | pressServe (die cluster : Nat)
  /-- COURIER_STEP, R324. -/
  | courierStep (op : Nat)
  /-- SYSCALL_USER_EVENT, R205. -/
  | syscallUserEvent (a : BitVec 7)
  /-- SYSCALL_CLOCK, R205. -/
  | syscallClock (a : BitVec 7)
  /-- SYSCALL_UNKNOWN, R205. -/
  | syscallUnknown (a : BitVec 7)
  /-- CLASS_V_COMPLETE, R48. -/
  | classVComplete (task party idx : Nat)
  /-- ENGINE_OP_COMPLETE, R257. -/
  | engineOpComplete (op : Nat)
  /-- SATCHEL_AGE_EXPIRE, R168. -/
  | satchelAgeExpire (die core line : Nat)
  /-- DELIVERY_ACK, R363. -/
  | deliveryAck (flit : Nat)
  /-- ERROR_NOTICE, R364. -/
  | errorNotice (flit : Nat)
  /-- WALK_COMPLETE, R280. -/
  | walkComplete (die ctx page : Nat)
  /-- TASK_START, R236. -/
  | taskStart (die core : Nat)
  /-- TASK_COMPLETE, R92. -/
  | taskComplete (task : Nat)
  /-- TROUPE_RESUME, R224. -/
  | troupeResume (die core : Nat)
  /-- CORE_SWAP, R347. -/
  | coreSwap (die core : Nat)
  /-- PORTER_SPILL_COMPLETE, R347. -/
  | porterSpillComplete (die core : Nat)
  /-- IMAGE_RESTORE, R352. -/
  | imageRestore (die core : Nat)
  /-- REFETCH, R27. -/
  | refetch (q : Nat)
  /-- QLAUNCH, R25. -/
  | qlaunch (q : Nat)
  /-- QCOPY, R25. -/
  | qcopy (q : Nat)
  /-- QFILL, R25. -/
  | qfill (q : Nat)
  /-- QWRITE, R25. -/
  | qwrite (q : Nat)
  /-- QFENCE, R22. -/
  | qfence (q : Nat)
  /-- QMARK, R37. -/
  | qmark (q : Nat)
  /-- QNOP, R25. -/
  | qnop (q : Nat)
  /-- FENCE_POLL, R32. -/
  | fencePoll (q : Nat)
  /-- QOP_COMPLETE, R36. -/
  | qopComplete (op : Nat)
  /-- RING_TRANSFER_ARRIVAL, R320. -/
  | ringTransferArrival (xfer : Nat)
  /-- MULTICAST_FLIT_ARRIVAL, R369. -/
  | multicastFlitArrival (op : Nat) (ready : BitVec 64)
  /-- NET_PACKET_SEND, R384. -/
  | netPacketSend (die : Nat)
  /-- UNASSIGNED_ENCODING, R83. -/
  | unassignedEncoding (w : BitVec 32)
  /-- NODE_FLIT_ARRIVAL, R363. -/
  | nodeFlitArrival (node : Nat) (f : FlitRef)
  /-- AWAITC_POLL, R106. -/
  | awaitcPoll (task party : Nat)
  /-- COUNTER_UPDATE_WAKE, R106. -/
  | counterUpdateWake (fpa : Nat)
  /-- WAKE_NOTICE, R367. -/
  | wakeNotice (task party : Nat)
  /-- RENDEZVOUS_TIMEOUT, R190. -/
  | rendezvousTimeout (task lead : Nat)
  /-- CUSTODY_ACK, R363. -/
  | custodyAck (flit : Nat)
  /-- REMOTE_ACCESS_ARRIVAL, R365. -/
  | remoteAccessArrival (acc : PeerAccess)
  /-- HOP_TIMEOUT, R363. -/
  | hopTimeout (flit : Nat)
  /-- FQRESP_RESOLVE, R284. -/
  | fqrespResolve (die id : Nat)
  /-- FQRESP_CANCEL, R284. -/
  | fqrespCancel (die id : Nat)
  /-- FRAME_POOL_WAIT_EXPIRE, R102. -/
  | framePoolWaitExpire (die ctx : Nat)
  /-- STORE_SET_WAIT_EXPIRE, R254. -/
  | storeSetWaitExpire (task party : Nat)
  /-- PROGRESS_SWITCH_EXPIRE, R238. -/
  | progressSwitchExpire (task : Nat)
  /-- PRIORITY_WAIT_EXPIRE, R345. -/
  | priorityWaitExpire (die : Nat)
  /-- DEFERRAL_EXPIRE, R353. -/
  | deferralExpire (die core : Nat)
  /-- QDB_DOORBELL, R17. -/
  | qdbDoorbell (q : Nat) (v : BitVec 64)
  /-- QCTL_ENABLE, R18. -/
  | qctlEnable (q : Nat)
  /-- QCTL_DISABLE, R18. -/
  | qctlDisable (q : Nat)
  /-- QCTL_RESET, R18. -/
  | qctlReset (q : Nat)
  /-- QCTL_RESUME, R18. -/
  | qctlResume (q : Nat)
  /-- REFETCH_DEADLINE, R27. -/
  | refetchDeadline (q : Nat)
  /-- HOST_WINDOW_READ, R263. -/
  | hostWindowRead (off len : Nat)
  /-- HOST_WINDOW_WRITE, R40. -/
  | hostWindowWrite (off : Nat) (data : List (BitVec 8))
  /-- CXL_MEM_ACCESS, R39. -/
  | cxlMemAccess (off len : Nat) (data : List (BitVec 8))
  /-- REPLCTL_RELEASE, R267. -/
  | replctlRelease (ctx : Nat)
  /-- REPLCTL_MISMATCH_CLEAR, R267. -/
  | replctlMismatchClear (ctx : Nat)
  /-- PARTNER_DIGEST_ARRIVAL, R267. -/
  | partnerDigestArrival (ctx k : Nat) (digest : BitVec 64)
  /-- PARTNER_SILENT_EXPIRE, R267. -/
  | partnerSilentExpire (ctx k : Nat)
  /-- CTXSW_SUSPEND, R346. -/
  | ctxswSuspend (ctx : Nat)
  /-- CTXSW_RESUME, R346. -/
  | ctxswResume (ctx : Nat)
  /-- REGISTER_WRITE, R7. -/
  | registerWrite (off : Nat) (v : BitVec 64)
  /-- THROTTLE, R43. -/
  | throttle (die reason : Nat)
  /-- BRIDGE_FAILURE, R331. -/
  | bridgeFailure (a : Nat)
  /-- DIE_SILENCE_TIMEOUT, R331. -/
  | dieSilenceTimeout (die : Nat)
  /-- FABRIC_PORT_STATE_CHANGE, R361. -/
  | fabricPortStateChange (node : FabricPort) (up : Bool)
  /-- MULTICAST_BRANCH_TIMEOUT, R369. -/
  | multicastBranchTimeout (op member : Nat)
  /-- COMB_CONTRIBUTION_ARRIVAL, R370. -/
  | combContributionArrival (node : Nat) (c : Contribution)
  /-- NET_PACKET_RECEIVE, R376. -/
  | netPacketReceive (die : Nat) (p : NetPacket)
  /-- SACK_RECEIVE, R375. -/
  | sackReceive (die peer : Nat) (psns : List Nat)
  /-- NAK_RECEIVE, R390. -/
  | nakReceive (die peer psn : Nat)
  /-- RETRANSMIT_TIMEOUT, R375. -/
  | retransmitTimeout (die peer psn : Nat)
  /-- NET_PORT_DOWN_TIMEOUT, R390. -/
  | netPortDownTimeout (die : Nat)
  /-- NET_PORT_STATE_CHANGE, R390. -/
  | netPortStateChange (die : Nat) (up : Bool)
  /-- DIE_FAILURE, R331. -/
  | dieFailure (die : Nat)
  /-- ECC_UNCORRECTABLE_ERROR, R286. -/
  | eccUncorrectableError (site : EccSite)
  /-- NODE_RESET, R370. -/
  | nodeReset (node : Nat)
  /-- NETCFG_ENABLE_CLEAR, R380. -/
  | netcfgEnableClear (die : Nat) (v : BitVec 64)
  /-- BOOT_VERIFICATION_COMPLETE, R41. -/
  | bootVerificationComplete (code : BitVec 8)
  /-- RET, R91. -/
  | ret
  /-- EXIT, R92. -/
  | exit
  /-- YIELD, R93. -/
  | yield
  /-- TFENCE, R96. -/
  | tfence
  /-- TRET, R97. -/
  | tret
  /-- FLUSHWC, R113. -/
  | flushwc
  /-- SLOT_FETCH, R27. -/
  | slotFetch
  /-- ATTCTL_GO, R42. -/
  | attctlGo
  /-- ATTEST_REPORT_DONE, R42. -/
  | attestReportDone
  /-- PACKAGE_RESET, R41. -/
  | packageReset
  /-- RING_WRAP_COMPLETE, R333. -/
  | ringWrapComplete
  deriving DecidableEq, Repr

end Sys2Proof
end

