-- ==== Sys2Proof/WellFormed.lean ====
section
/-! DEFINITION. Which instructions the opcode map assigns: the sub-codes a field may hold and the reserved bits of
trailers (R77, R79, R80, R81, R83, R85). Register pairs, quads and operand values are checked at issue, by the meanings. -/

namespace Sys2Proof

/-- Why a word is no assigned instruction, as tcause.INFO tells it (R339): an unassigned code, or a bit that must be
zero. -/
inductive Defect where
  | unassigned
  | reserved
  deriving DecidableEq, Repr

/-- The width codes of a load (R77, R161): code 7 is unassigned. -/
def loadWidthOk (w : BitVec 3) : Bool := w != 7#3

/-- The width codes of a store (R77): the sign-extending codes 1 and 3, and code 7, are unassigned. -/
def storeWidthOk (w : BitVec 3) : Bool := w != 1#3 && w != 3#3 && w != 7#3

/-- The narrow formats of MAJ 0x51 to 0x56: E4M3, E5M2, E2M1X (R77). -/
def formatOk (f : BitVec 3) : Bool := f.toNat ≤ 2

/-- The bit width of a CVT destination code 0 to 8 (R80). -/
def cvtDstBits (e : BitVec 4) : Nat :=
  match e.toNat with
  | 0 => 32 | 1 => 16 | 2 => 16 | 3 => 8 | 4 => 8 | 5 => 32 | 6 => 32 | 7 => 8 | 8 => 16 | _ => 0

/-- The bit width of a CVT source code (R80). -/
def cvtSrcBits (s : BitVec 3) : Nat :=
  match s.toNat with
  | 0 => 32 | 1 => 16 | 2 => 16 | 3 => 8 | 4 => 8 | 5 => 32 | 6 => 32 | _ => 8

/-- The conversions R80 assigns: a destination code up to 8, two different formats, SAT only with an integer
destination, and POS inside the narrower operand. -/
def cvtOk (e : BitVec 4) (s : BitVec 3) (x : BitVec 1) (p : BitVec 2) : Bool :=
  let narrow := if cvtDstBits e < 32 then cvtDstBits e else cvtSrcBits s
  e.toNat ≤ 8 && e.toNat != s.toNat && (x == 0#1 || 5 ≤ e.toNat) && p.toNat < 32 / narrow

/-- The codes of ATOM (R77, R171). -/
def atomOk (o : BitVec 4) : Bool := o.toNat ≤ 13

/-- The codes of ARED: EXCH, CAS and EXCH64 are unassigned as well (R77, R171). -/
def aredOk (o : BitVec 4) : Bool := o.toNat ≤ 13 && o != 8#4 && o != 11#4 && o != 13#4

/-- What makes an instruction none of the opcode map's, if anything does. -/
def Instr.defect : Instr → Option Defect
  | .brd _ p _ t => if 8 ≤ p.toNat then some .unassigned else if t.toNat / 2 ^ 20 ≠ 0 then some .reserved else none
  | .movl _ a _ => if 1 < a.toNat then some .reserved else none
  | .spawn d _ _ c => if c = 0#1 ∧ d ≠ 0#7 then some .reserved else none
  | .lscan _ _ o => if 5 < o.toNat then some .unassigned else none
  | .cvt _ _ e s x p => if cvtOk e s x p then none else some .unassigned
  | .qscale _ _ f => if formatOk f then none else some .unassigned
  | .qcvt _ _ _ f => if formatOk f then none else some .unassigned
  | .qst _ _ _ f => if formatOk f then none else some .unassigned
  | .dqld _ _ _ _ f => if formatOk f then none else some .unassigned
  | .dq _ _ _ f => if formatOk f then none else some .unassigned
  | .rekey _ _ _ f => if formatOk f then none else some .unassigned
  | .ld _ _ _ _ w => if loadWidthOk w then none else some .unassigned
  | .ldu _ _ _ _ w => if loadWidthOk w then none else some .unassigned
  | .lds _ _ _ _ w => if loadWidthOk w then none else some .unassigned
  | .st _ _ _ w => if storeWidthOk w then none else some .unassigned
  | .sts _ _ _ w => if storeWidthOk w then none else some .unassigned
  | .atom _ _ _ _ o => if atomOk o then none else some .unassigned
  | .ared _ _ o => if aredOk o then none else some .unassigned
  | .paccStaq _ _ f => if f.toNat ≤ 4 then none else some .unassigned
  | _ => none

/-- An instruction the opcode map assigns. -/
abbrev Instr.WellFormed (i : Instr) : Prop := i.defect = none

end Sys2Proof
end

