-- ==== Sys2Proof/Decode.lean ====
section
/-! DEFINITION. The decoder: from the words of an instruction to a step of the part, refusing by name, and the encoder
(R45, R75 to R83). A word's fields are read by position; a trailer belongs to the instruction before it (R44, R79). -/

namespace Sys2Proof

/-- Why words are no instruction: the all-zero word (R44), an unassigned code or a reserved bit (R83), or a missing word
(a trailer that is not there). -/
inductive DecodeError where
  | zeroWord
  | unassigned
  | reserved
  | short
  deriving DecidableEq, Repr

/-- Field `len` bits wide from bit `lo` of an instruction word. -/
def field (w : Word) (lo len : Nat) : BitVec len := BitVec.ofNat len (w.toNat / 2 ^ lo)

/-- The `len` bits of `w` from bit `lo` are all zero. -/
def zeroBits (w : Word) (lo len : Nat) : Bool := w.toNat / 2 ^ lo % 2 ^ len == 0

/-- `i`, if every bit that must be zero is. -/
def whenZero (ok : Bool) (i : Instr) : Except DecodeError Instr := if ok then .ok i else .error .reserved

/-- How many trailers the instruction of this major opcode takes (R79). -/
def trailersOf (maj : Nat) : Nat :=
  match maj with
  | 0x03 => 1
  | 0x04 => 1
  | 0x0E => 3
  | 0x24 => 1
  | _ => 0

/-- MAJ 0x01: CLH. -/
def decodeMaj01 (w : Word) : Except DecodeError Instr :=
  .ok (.clh (field w 13 12) (field w 9 4) (field w 5 4) (field w 1 4) (field w 0 1))

/-- MAJ 0x02: BRA. -/
def decodeMaj02 (w : Word) : Except DecodeError Instr :=
  .ok (.bra (field w 24 1) (field w 20 4) (field w 0 20))

/-- MAJ 0x03: BRD. -/
def decodeMaj03 (w : Word) (t1 : Word) : Except DecodeError Instr :=
  .ok (.brd (field w 24 1) (field w 20 4) (field w 0 20) t1)

/-- MAJ 0x04: JTAB. -/
def decodeMaj04 (w : Word) (t1 : Word) : Except DecodeError Instr :=
  whenZero (zeroBits w 0 4 && zeroBits w 18 7) (.jtab (field w 11 7) (field w 4 7) t1)

/-- MAJ 0x05: JMPI. -/
def decodeMaj05 (w : Word) : Except DecodeError Instr :=
  whenZero (zeroBits w 0 11 && zeroBits w 18 7) (.jmpi (field w 11 7))

/-- MAJ 0x06: CALL. -/
def decodeMaj06 (w : Word) : Except DecodeError Instr :=
  if field w 23 1 == 0#1 then .error .unassigned else .ok (.call (field w 24 1) (field w 20 3) (field w 0 20))

/-- MAJ 0x07: RET. -/
def decodeMaj07 (w : Word) : Except DecodeError Instr :=
  whenZero (zeroBits w 0 25) .ret

/-- MAJ 0x08: EXIT. -/
def decodeMaj08 (w : Word) : Except DecodeError Instr :=
  whenZero (zeroBits w 0 25) .exit

/-- MAJ 0x09: WBASE. -/
def decodeMaj09 (w : Word) : Except DecodeError Instr :=
  whenZero (zeroBits w 11 7 && zeroBits w 20 5) (.wbase (field w 19 1) (field w 18 1) (field w 0 11))

/-- MAJ 0x0A: YIELD. -/
def decodeMaj0A (w : Word) : Except DecodeError Instr :=
  whenZero (zeroBits w 0 25) .yield

/-- MAJ 0x0B: TRAPI. -/
def decodeMaj0B (w : Word) : Except DecodeError Instr :=
  whenZero (zeroBits w 11 14) (.trapi (field w 0 11))

/-- MAJ 0x0C: TFENCE. -/
def decodeMaj0C (w : Word) : Except DecodeError Instr :=
  whenZero (zeroBits w 0 25) .tfence

/-- MAJ 0x0D: TRET. -/
def decodeMaj0D (w : Word) : Except DecodeError Instr :=
  whenZero (zeroBits w 0 25) .tret

/-- MAJ 0x0E: PPT. -/
def decodeMaj0E (w : Word) (t1 t2 t3 : Word) : Except DecodeError Instr :=
  whenZero (zeroBits w 0 25) (.ppt t1 t2 t3)

/-- MAJ 0x0F: MARK. -/
def decodeMaj0F (w : Word) : Except DecodeError Instr :=
  whenZero (zeroBits w 11 14) (.mark (field w 0 11))

/-- MAJ 0x10: SPAWN. -/
def decodeMaj10 (w : Word) : Except DecodeError Instr :=
  whenZero (zeroBits w 1 3) (.spawn (field w 18 7) (field w 11 7) (field w 4 7) (field w 0 1))

/-- MAJ 0x11: SPAWNR. -/
def decodeMaj11 (w : Word) : Except DecodeError Instr :=
  whenZero (zeroBits w 1 3) (.spawnr (field w 18 7) (field w 11 7) (field w 4 7) (field w 0 1))

/-- MAJ 0x12: AWAIT. -/
def decodeMaj12 (w : Word) : Except DecodeError Instr :=
  whenZero (zeroBits w 0 11 && zeroBits w 18 7) (.await (field w 11 7))

/-- MAJ 0x13: AWAITP. -/
def decodeMaj13 (w : Word) : Except DecodeError Instr :=
  whenZero (zeroBits w 0 11 && zeroBits w 18 7) (.awaitp (field w 11 7))

/-- MAJ 0x14: AWAITC. -/
def decodeMaj14 (w : Word) : Except DecodeError Instr :=
  whenZero (zeroBits w 0 4 && zeroBits w 18 7) (.awaitc (field w 11 7) (field w 4 7))

/-- MAJ 0x15: BCLOSE/BWAIT/BSTAT. -/
def decodeMaj15 (w : Word) : Except DecodeError Instr :=
  match w.toNat % 2 ^ 3 with
  | 0 => whenZero (zeroBits w 3 15) (.bclose (field w 18 7))
  | 1 => whenZero (zeroBits w 3 8 && zeroBits w 18 7) (.bwait (field w 11 7))
  | 2 => whenZero (zeroBits w 4 14) (.bstat (field w 18 7) (field w 3 1))
  | _ => .error .unassigned

/-- MAJ 0x16: BAR. -/
def decodeMaj16 (w : Word) : Except DecodeError Instr :=
  whenZero (zeroBits w 0 4 && zeroBits w 8 3 && zeroBits w 18 7) (.bar (field w 11 7) (field w 4 4))

/-- MAJ 0x17: PBAR/SIGNAL/FLUSHWC. -/
def decodeMaj17 (w : Word) : Except DecodeError Instr :=
  match w.toNat % 2 ^ 3 with
  | 0 => whenZero (zeroBits w 3 8 && zeroBits w 18 7) (.pbar (field w 11 7))
  | 1 => whenZero (zeroBits w 3 1 && zeroBits w 18 7) (.signal (field w 11 7) (field w 4 7))
  | 2 => whenZero (zeroBits w 3 22) .flushwc
  | _ => .error .unassigned

/-- MAJ 0x18: IADD/ISUB/IADD_SS/IADD_ZS/ISUB_SS/ISUB_ZS/IABSD/IAVG. -/
def decodeMaj18 (w : Word) : Except DecodeError Instr :=
  match w.toNat % 2 ^ 3 with
  | 0 => .ok (.iadd (field w 18 7) (field w 11 7) (field w 4 7) (field w 3 1))
  | 1 => .ok (.isub (field w 18 7) (field w 11 7) (field w 4 7) (field w 3 1))
  | 2 => .ok (.iaddSs (field w 18 7) (field w 11 7) (field w 4 7) (field w 3 1))
  | 3 => .ok (.iaddZs (field w 18 7) (field w 11 7) (field w 4 7) (field w 3 1))
  | 4 => .ok (.isubSs (field w 18 7) (field w 11 7) (field w 4 7) (field w 3 1))
  | 5 => .ok (.isubZs (field w 18 7) (field w 11 7) (field w 4 7) (field w 3 1))
  | 6 => .ok (.iabsd (field w 18 7) (field w 11 7) (field w 4 7) (field w 3 1))
  | 7 => .ok (.iavg (field w 18 7) (field w 11 7) (field w 4 7) (field w 3 1))
  | _ => .error .unassigned

/-- MAJ 0x19: IADD64/ISUB64/SHL64/SHR64/SAR64/IMULW/IMULW_Z. -/
def decodeMaj19 (w : Word) : Except DecodeError Instr :=
  match w.toNat % 2 ^ 3 with
  | 0 => .ok (.iadd64 (field w 18 7) (field w 11 7) (field w 4 7) (field w 3 1))
  | 1 => .ok (.isub64 (field w 18 7) (field w 11 7) (field w 4 7) (field w 3 1))
  | 2 => .ok (.shl64 (field w 18 7) (field w 11 7) (field w 4 7) (field w 3 1))
  | 3 => .ok (.shr64 (field w 18 7) (field w 11 7) (field w 4 7) (field w 3 1))
  | 4 => .ok (.sar64 (field w 18 7) (field w 11 7) (field w 4 7) (field w 3 1))
  | 5 => .ok (.imulw (field w 18 7) (field w 11 7) (field w 4 7) (field w 3 1))
  | 6 => .ok (.imulwZ (field w 18 7) (field w 11 7) (field w 4 7) (field w 3 1))
  | _ => .error .unassigned

/-- MAJ 0x1A: IMUL/IMULH_S/IMULH_Z/IMAD/IDOT4_S/IDOT4_Z/IDOT2. -/
def decodeMaj1A (w : Word) : Except DecodeError Instr :=
  match w.toNat % 2 ^ 3 with
  | 0 => .ok (.imul (field w 18 7) (field w 11 7) (field w 4 7) (field w 3 1))
  | 1 => .ok (.imulhS (field w 18 7) (field w 11 7) (field w 4 7) (field w 3 1))
  | 2 => .ok (.imulhZ (field w 18 7) (field w 11 7) (field w 4 7) (field w 3 1))
  | 3 => .ok (.imad (field w 18 7) (field w 11 7) (field w 4 7) (field w 3 1))
  | 4 => .ok (.idot4S (field w 18 7) (field w 11 7) (field w 4 7) (field w 3 1))
  | 5 => .ok (.idot4Z (field w 18 7) (field w 11 7) (field w 4 7) (field w 3 1))
  | 6 => .ok (.idot2 (field w 18 7) (field w 11 7) (field w 4 7) (field w 3 1))
  | _ => .error .unassigned

/-- MAJ 0x1B: IMIN_S/IMIN_Z/IMAX_S/IMAX_Z/IABS/INEG/ISGN. -/
def decodeMaj1B (w : Word) : Except DecodeError Instr :=
  match w.toNat % 2 ^ 3 with
  | 0 => .ok (.iminS (field w 18 7) (field w 11 7) (field w 4 7) (field w 3 1))
  | 1 => .ok (.iminZ (field w 18 7) (field w 11 7) (field w 4 7) (field w 3 1))
  | 2 => .ok (.imaxS (field w 18 7) (field w 11 7) (field w 4 7) (field w 3 1))
  | 3 => .ok (.imaxZ (field w 18 7) (field w 11 7) (field w 4 7) (field w 3 1))
  | 4 => whenZero (zeroBits w 4 7) (.iabs (field w 18 7) (field w 11 7) (field w 3 1))
  | 5 => whenZero (zeroBits w 4 7) (.ineg (field w 18 7) (field w 11 7) (field w 3 1))
  | 6 => whenZero (zeroBits w 4 7) (.isgn (field w 18 7) (field w 11 7) (field w 3 1))
  | _ => .error .unassigned

/-- MAJ 0x1C: AND/OR/XOR/ANDN/ORN/XNOR/NOT. -/
def decodeMaj1C (w : Word) : Except DecodeError Instr :=
  match w.toNat % 2 ^ 3 with
  | 0 => .ok (.and (field w 18 7) (field w 11 7) (field w 4 7) (field w 3 1))
  | 1 => .ok (.or (field w 18 7) (field w 11 7) (field w 4 7) (field w 3 1))
  | 2 => .ok (.xor (field w 18 7) (field w 11 7) (field w 4 7) (field w 3 1))
  | 3 => .ok (.andn (field w 18 7) (field w 11 7) (field w 4 7) (field w 3 1))
  | 4 => .ok (.orn (field w 18 7) (field w 11 7) (field w 4 7) (field w 3 1))
  | 5 => .ok (.xnor (field w 18 7) (field w 11 7) (field w 4 7) (field w 3 1))
  | 6 => whenZero (zeroBits w 4 7) (.not (field w 18 7) (field w 11 7) (field w 3 1))
  | _ => .error .unassigned

/-- MAJ 0x1D: SHL/SHR/SAR/ROL/ROR/FSHL/FSHR. -/
def decodeMaj1D (w : Word) : Except DecodeError Instr :=
  match w.toNat % 2 ^ 3 with
  | 0 => .ok (.shl (field w 18 7) (field w 11 7) (field w 4 7) (field w 3 1))
  | 1 => .ok (.shr (field w 18 7) (field w 11 7) (field w 4 7) (field w 3 1))
  | 2 => .ok (.sar (field w 18 7) (field w 11 7) (field w 4 7) (field w 3 1))
  | 3 => .ok (.rol (field w 18 7) (field w 11 7) (field w 4 7) (field w 3 1))
  | 4 => .ok (.ror (field w 18 7) (field w 11 7) (field w 4 7) (field w 3 1))
  | 5 => .ok (.fshl (field w 18 7) (field w 11 7) (field w 4 7) (field w 3 1))
  | 6 => .ok (.fshr (field w 18 7) (field w 11 7) (field w 4 7) (field w 3 1))
  | _ => .error .unassigned

/-- MAJ 0x1E: POPC/CLZ/CTZ/BREV/BFE_Z/BFE_S/BFI/PRMT. -/
def decodeMaj1E (w : Word) : Except DecodeError Instr :=
  match w.toNat % 2 ^ 3 with
  | 0 => whenZero (zeroBits w 4 7) (.popc (field w 18 7) (field w 11 7) (field w 3 1))
  | 1 => whenZero (zeroBits w 4 7) (.clz (field w 18 7) (field w 11 7) (field w 3 1))
  | 2 => whenZero (zeroBits w 4 7) (.ctz (field w 18 7) (field w 11 7) (field w 3 1))
  | 3 => whenZero (zeroBits w 4 7) (.brev (field w 18 7) (field w 11 7) (field w 3 1))
  | 4 => .ok (.bfeZ (field w 18 7) (field w 11 7) (field w 4 7) (field w 3 1))
  | 5 => .ok (.bfeS (field w 18 7) (field w 11 7) (field w 4 7) (field w 3 1))
  | 6 => .ok (.bfi (field w 18 7) (field w 11 7) (field w 4 7) (field w 3 1))
  | 7 => .ok (.prmt (field w 18 7) (field w 11 7) (field w 4 7) (field w 3 1))
  | _ => .error .unassigned

/-- MAJ 0x1F: ISETP. -/
def decodeMaj1F (w : Word) : Except DecodeError Instr :=
  whenZero (zeroBits w 21 4) (.isetp (field w 18 3) (field w 11 7) (field w 4 7) (field w 3 1) (field w 0 3))

/-- MAJ 0x20: SEL. -/
def decodeMaj20 (w : Word) : Except DecodeError Instr :=
  .ok (.sel (field w 18 7) (field w 11 7) (field w 4 7) (field w 3 1) (field w 0 3))

/-- MAJ 0x21: MOV/MFS/MTS/VXGET/VXPUT/P2V/V2P/UVGET. -/
def decodeMaj21 (w : Word) : Except DecodeError Instr :=
  match w.toNat % 2 ^ 3 with
  | 0 => whenZero (zeroBits w 4 7) (.mov (field w 18 7) (field w 11 7) (field w 3 1))
  | 1 => whenZero (zeroBits w 3 8) (.mfs (field w 18 7) (field w 11 7))
  | 2 => whenZero (zeroBits w 3 8) (.mts (field w 18 7) (field w 11 7))
  | 3 => whenZero (zeroBits w 3 1 && zeroBits w 13 5) (.vxget (field w 18 7) (field w 11 2) (field w 4 7))
  | 4 => whenZero (zeroBits w 3 1 && zeroBits w 13 5) (.vxput (field w 18 7) (field w 11 2) (field w 4 7))
  | 5 => whenZero (zeroBits w 3 8 && zeroBits w 12 6) (.p2v (field w 18 7) (field w 11 1))
  | 6 => whenZero (zeroBits w 3 8 && zeroBits w 19 6) (.v2p (field w 18 1) (field w 11 7))
  | 7 => whenZero (zeroBits w 3 1) (.uvget (field w 18 7) (field w 11 7) (field w 4 7))
  | _ => .error .unassigned

/-- MAJ 0x22: IADDI. -/
def decodeMaj22 (w : Word) : Except DecodeError Instr :=
  .ok (.iaddi (field w 18 7) (field w 11 7) (field w 0 11))

/-- MAJ 0x23: MOVI. -/
def decodeMaj23 (w : Word) : Except DecodeError Instr :=
  whenZero (zeroBits w 11 7) (.movi (field w 18 7) (field w 0 11))

/-- MAJ 0x24: MOVL. -/
def decodeMaj24 (w : Word) (t1 : Word) : Except DecodeError Instr :=
  whenZero (zeroBits w 0 11) (.movl (field w 18 7) (field w 11 7) t1)

/-- MAJ 0x25: LEA/LEA_G. -/
def decodeMaj25 (w : Word) : Except DecodeError Instr :=
  match w.toNat % 2 ^ 3 with
  | 0 => whenZero (zeroBits w 3 1) (.lea (field w 18 7) (field w 11 7) (field w 4 7))
  | 1 => whenZero (zeroBits w 3 1) (.leaG (field w 18 7) (field w 11 7) (field w 4 7))
  | _ => .error .unassigned

/-- MAJ 0x30: SADD/SSUB/SMUL/SAND/SOR/SXOR/SSHL/SSHR. -/
def decodeMaj30 (w : Word) : Except DecodeError Instr :=
  match w.toNat % 2 ^ 3 with
  | 0 => whenZero (zeroBits w 3 1) (.sadd (field w 18 7) (field w 11 7) (field w 4 7))
  | 1 => whenZero (zeroBits w 3 1) (.ssub (field w 18 7) (field w 11 7) (field w 4 7))
  | 2 => whenZero (zeroBits w 3 1) (.smul (field w 18 7) (field w 11 7) (field w 4 7))
  | 3 => whenZero (zeroBits w 3 1) (.sand (field w 18 7) (field w 11 7) (field w 4 7))
  | 4 => whenZero (zeroBits w 3 1) (.sor (field w 18 7) (field w 11 7) (field w 4 7))
  | 5 => whenZero (zeroBits w 3 1) (.sxor (field w 18 7) (field w 11 7) (field w 4 7))
  | 6 => whenZero (zeroBits w 3 1) (.sshl (field w 18 7) (field w 11 7) (field w 4 7))
  | 7 => whenZero (zeroBits w 3 1) (.sshr (field w 18 7) (field w 11 7) (field w 4 7))
  | _ => .error .unassigned

/-- MAJ 0x31: SMIN_S/SMAX_S/SMIN_Z/SMAX_Z/SADD64/SSUB64/SSAR/SPOPC. -/
def decodeMaj31 (w : Word) : Except DecodeError Instr :=
  match w.toNat % 2 ^ 3 with
  | 0 => whenZero (zeroBits w 3 1) (.sminS (field w 18 7) (field w 11 7) (field w 4 7))
  | 1 => whenZero (zeroBits w 3 1) (.smaxS (field w 18 7) (field w 11 7) (field w 4 7))
  | 2 => whenZero (zeroBits w 3 1) (.sminZ (field w 18 7) (field w 11 7) (field w 4 7))
  | 3 => whenZero (zeroBits w 3 1) (.smaxZ (field w 18 7) (field w 11 7) (field w 4 7))
  | 4 => whenZero (zeroBits w 3 1) (.sadd64 (field w 18 7) (field w 11 7) (field w 4 7))
  | 5 => whenZero (zeroBits w 3 1) (.ssub64 (field w 18 7) (field w 11 7) (field w 4 7))
  | 6 => whenZero (zeroBits w 3 1) (.ssar (field w 18 7) (field w 11 7) (field w 4 7))
  | 7 => whenZero (zeroBits w 3 8) (.spopc (field w 18 7) (field w 11 7))
  | _ => .error .unassigned

/-- MAJ 0x32: SSETQ. -/
def decodeMaj32 (w : Word) : Except DecodeError Instr :=
  whenZero (zeroBits w 3 1 && zeroBits w 21 4) (.ssetq (field w 18 3) (field w 11 7) (field w 4 7) (field w 0 3))

/-- MAJ 0x33: SADDI. -/
def decodeMaj33 (w : Word) : Except DecodeError Instr :=
  .ok (.saddi (field w 18 7) (field w 11 7) (field w 0 11))

/-- MAJ 0x34: SMOVI. -/
def decodeMaj34 (w : Word) : Except DecodeError Instr :=
  whenZero (zeroBits w 11 7) (.smovi (field w 18 7) (field w 0 11))

/-- MAJ 0x35: SLEA/SLEA_G. -/
def decodeMaj35 (w : Word) : Except DecodeError Instr :=
  match w.toNat % 2 ^ 3 with
  | 0 => whenZero (zeroBits w 3 1) (.slea (field w 18 7) (field w 11 7) (field w 4 7))
  | 1 => whenZero (zeroBits w 3 1) (.sleaG (field w 18 7) (field w 11 7) (field w 4 7))
  | _ => .error .unassigned

/-- MAJ 0x38: SHFL_IDX/SHFL_UP/SHFL_DN/SHFL_XOR. -/
def decodeMaj38 (w : Word) : Except DecodeError Instr :=
  match w.toNat % 2 ^ 3 with
  | 0 => whenZero (zeroBits w 3 1) (.shflIdx (field w 18 7) (field w 11 7) (field w 4 7))
  | 1 => whenZero (zeroBits w 3 1 && zeroBits w 9 2) (.shflUp (field w 18 7) (field w 11 7) (field w 4 5))
  | 2 => whenZero (zeroBits w 3 1 && zeroBits w 9 2) (.shflDn (field w 18 7) (field w 11 7) (field w 4 5))
  | 3 => whenZero (zeroBits w 3 1 && zeroBits w 9 2) (.shflXor (field w 18 7) (field w 11 7) (field w 4 5))
  | _ => .error .unassigned

/-- MAJ 0x39: VOTE_ANY/VOTE_ALL/VOTE_BALLOT/VOTE_UNI. -/
def decodeMaj39 (w : Word) : Except DecodeError Instr :=
  match w.toNat % 2 ^ 3 with
  | 0 => whenZero (zeroBits w 3 8 && zeroBits w 15 3 && zeroBits w 21 4) (.voteAny (field w 18 3) (field w 14 1) (field w 11 3))
  | 1 => whenZero (zeroBits w 3 8 && zeroBits w 15 3 && zeroBits w 21 4) (.voteAll (field w 18 3) (field w 14 1) (field w 11 3))
  | 2 => whenZero (zeroBits w 3 8 && zeroBits w 15 3) (.voteBallot (field w 18 7) (field w 14 1) (field w 11 3))
  | 3 => whenZero (zeroBits w 3 8 && zeroBits w 15 3 && zeroBits w 21 4) (.voteUni (field w 18 3) (field w 14 1) (field w 11 3))
  | _ => .error .unassigned

/-- MAJ 0x3A: LRED. -/
def decodeMaj3A (w : Word) : Except DecodeError Instr :=
  whenZero (zeroBits w 3 8) (.lred (field w 18 7) (field w 11 7) (field w 0 3))

/-- MAJ 0x3B: LSCAN. -/
def decodeMaj3B (w : Word) : Except DecodeError Instr :=
  whenZero (zeroBits w 3 8) (.lscan (field w 18 7) (field w 11 7) (field w 0 3))

/-- MAJ 0x3C: MATCH. -/
def decodeMaj3C (w : Word) : Except DecodeError Instr :=
  whenZero (zeroBits w 0 11) (.matchLanes (field w 18 7) (field w 11 7))

/-- MAJ 0x40: FADD/FSUB/FMUL/FMIN/FMAX/FMINN/FMAXN/FCSGN. -/
def decodeMaj40 (w : Word) : Except DecodeError Instr :=
  match w.toNat % 2 ^ 3 with
  | 0 => .ok (.fadd (field w 18 7) (field w 11 7) (field w 4 7) (field w 3 1))
  | 1 => .ok (.fsub (field w 18 7) (field w 11 7) (field w 4 7) (field w 3 1))
  | 2 => .ok (.fmul (field w 18 7) (field w 11 7) (field w 4 7) (field w 3 1))
  | 3 => .ok (.fmin (field w 18 7) (field w 11 7) (field w 4 7) (field w 3 1))
  | 4 => .ok (.fmax (field w 18 7) (field w 11 7) (field w 4 7) (field w 3 1))
  | 5 => .ok (.fminn (field w 18 7) (field w 11 7) (field w 4 7) (field w 3 1))
  | 6 => .ok (.fmaxn (field w 18 7) (field w 11 7) (field w 4 7) (field w 3 1))
  | 7 => .ok (.fcsgn (field w 18 7) (field w 11 7) (field w 4 7) (field w 3 1))
  | _ => .error .unassigned

/-- MAJ 0x41: FFMA/FFMS/FNFMA/FNFMS. -/
def decodeMaj41 (w : Word) : Except DecodeError Instr :=
  match w.toNat % 2 ^ 3 with
  | 0 => .ok (.ffma (field w 18 7) (field w 11 7) (field w 4 7) (field w 3 1))
  | 1 => .ok (.ffms (field w 18 7) (field w 11 7) (field w 4 7) (field w 3 1))
  | 2 => .ok (.fnfma (field w 18 7) (field w 11 7) (field w 4 7) (field w 3 1))
  | 3 => .ok (.fnfms (field w 18 7) (field w 11 7) (field w 4 7) (field w 3 1))
  | _ => .error .unassigned

/-- MAJ 0x42: FSETP. -/
def decodeMaj42 (w : Word) : Except DecodeError Instr :=
  whenZero (zeroBits w 21 4) (.fsetp (field w 18 3) (field w 11 7) (field w 4 7) (field w 3 1) (field w 0 3))

/-- MAJ 0x43: FCLASS/FRND/FLDEXP/FGETX/FFRAC/FABS/FNEG/FSAT. -/
def decodeMaj43 (w : Word) : Except DecodeError Instr :=
  match w.toNat % 2 ^ 3 with
  | 0 => whenZero (zeroBits w 4 7) (.fclass (field w 18 7) (field w 11 7) (field w 3 1))
  | 1 => whenZero (zeroBits w 4 7) (.frnd (field w 18 7) (field w 11 7) (field w 3 1))
  | 2 => .ok (.fldexp (field w 18 7) (field w 11 7) (field w 4 7) (field w 3 1))
  | 3 => whenZero (zeroBits w 4 7) (.fgetx (field w 18 7) (field w 11 7) (field w 3 1))
  | 4 => whenZero (zeroBits w 4 7) (.ffrac (field w 18 7) (field w 11 7) (field w 3 1))
  | 5 => whenZero (zeroBits w 4 7) (.fabs (field w 18 7) (field w 11 7) (field w 3 1))
  | 6 => whenZero (zeroBits w 4 7) (.fneg (field w 18 7) (field w 11 7) (field w 3 1))
  | 7 => whenZero (zeroBits w 4 7) (.fsat (field w 18 7) (field w 11 7) (field w 3 1))
  | _ => .error .unassigned

/-- MAJ 0x44: RCP/RSQ/SQRT/EX2/LG2/SINPI/COSPI. -/
def decodeMaj44 (w : Word) : Except DecodeError Instr :=
  match w.toNat % 2 ^ 3 with
  | 0 => whenZero (zeroBits w 4 6) (.rcp (field w 18 7) (field w 11 7) (field w 10 1) (field w 3 1))
  | 1 => whenZero (zeroBits w 4 6) (.rsq (field w 18 7) (field w 11 7) (field w 10 1) (field w 3 1))
  | 2 => whenZero (zeroBits w 4 6) (.sqrt (field w 18 7) (field w 11 7) (field w 10 1) (field w 3 1))
  | 3 => whenZero (zeroBits w 4 6) (.ex2 (field w 18 7) (field w 11 7) (field w 10 1) (field w 3 1))
  | 4 => whenZero (zeroBits w 4 6) (.lg2 (field w 18 7) (field w 11 7) (field w 10 1) (field w 3 1))
  | 5 => whenZero (zeroBits w 4 6) (.sinpi (field w 18 7) (field w 11 7) (field w 10 1) (field w 3 1))
  | 6 => whenZero (zeroBits w 4 6) (.cospi (field w 18 7) (field w 11 7) (field w 10 1) (field w 3 1))
  | _ => .error .unassigned

/-- MAJ 0x45: FDIV. -/
def decodeMaj45 (w : Word) : Except DecodeError Instr :=
  match w.toNat % 2 ^ 3 with
  | 0 => .ok (.fdiv (field w 18 7) (field w 11 7) (field w 10 1) (field w 4 6) (field w 3 1))
  | _ => .error .unassigned

/-- MAJ 0x46: HADD2/HSUB2/HMUL2/HFMA2/HMIN2/HMAX2. -/
def decodeMaj46 (w : Word) : Except DecodeError Instr :=
  match w.toNat % 2 ^ 3 with
  | 0 => .ok (.hadd2 (field w 18 7) (field w 11 7) (field w 4 7) (field w 3 1))
  | 1 => .ok (.hsub2 (field w 18 7) (field w 11 7) (field w 4 7) (field w 3 1))
  | 2 => .ok (.hmul2 (field w 18 7) (field w 11 7) (field w 4 7) (field w 3 1))
  | 3 => .ok (.hfma2 (field w 18 7) (field w 11 7) (field w 4 7) (field w 3 1))
  | 4 => .ok (.hmin2 (field w 18 7) (field w 11 7) (field w 4 7) (field w 3 1))
  | 5 => .ok (.hmax2 (field w 18 7) (field w 11 7) (field w 4 7) (field w 3 1))
  | _ => .error .unassigned

/-- MAJ 0x47: HRCP/HRSQ/HSQRT/HEX2/HLG2/HSINPI/HCOSPI. -/
def decodeMaj47 (w : Word) : Except DecodeError Instr :=
  match w.toNat % 2 ^ 3 with
  | 0 => whenZero (zeroBits w 4 6) (.hrcp (field w 18 7) (field w 11 7) (field w 10 1) (field w 3 1))
  | 1 => whenZero (zeroBits w 4 6) (.hrsq (field w 18 7) (field w 11 7) (field w 10 1) (field w 3 1))
  | 2 => whenZero (zeroBits w 4 6) (.hsqrt (field w 18 7) (field w 11 7) (field w 10 1) (field w 3 1))
  | 3 => whenZero (zeroBits w 4 6) (.hex2 (field w 18 7) (field w 11 7) (field w 10 1) (field w 3 1))
  | 4 => whenZero (zeroBits w 4 6) (.hlg2 (field w 18 7) (field w 11 7) (field w 10 1) (field w 3 1))
  | 5 => whenZero (zeroBits w 4 6) (.hsinpi (field w 18 7) (field w 11 7) (field w 10 1) (field w 3 1))
  | 6 => whenZero (zeroBits w 4 6) (.hcospi (field w 18 7) (field w 11 7) (field w 10 1) (field w 3 1))
  | _ => .error .unassigned

/-- MAJ 0x48: CVT. -/
def decodeMaj48 (w : Word) : Except DecodeError Instr :=
  whenZero (zeroBits w 3 1) (.cvt (field w 18 7) (field w 11 7) (field w 7 4) (field w 4 3) (field w 2 1) (field w 0 2))

/-- MAJ 0x50: FMTSET. -/
def decodeMaj50 (w : Word) : Except DecodeError Instr :=
  whenZero (zeroBits w 0 11 && zeroBits w 21 4) (.fmtset (field w 18 3) (field w 11 7))

/-- MAJ 0x51: QSCALE. -/
def decodeMaj51 (w : Word) : Except DecodeError Instr :=
  whenZero (zeroBits w 3 8) (.qscale (field w 18 7) (field w 11 7) (field w 0 3))

/-- MAJ 0x52: QCVT. -/
def decodeMaj52 (w : Word) : Except DecodeError Instr :=
  whenZero (zeroBits w 3 1) (.qcvt (field w 18 7) (field w 11 7) (field w 4 7) (field w 0 3))

/-- MAJ 0x53: QST. -/
def decodeMaj53 (w : Word) : Except DecodeError Instr :=
  whenZero (zeroBits w 3 1) (.qst (field w 18 7) (field w 11 7) (field w 4 7) (field w 0 3))

/-- MAJ 0x54: DQLD. -/
def decodeMaj54 (w : Word) : Except DecodeError Instr :=
  .ok (.dqld (field w 18 7) (field w 11 7) (field w 4 7) (field w 3 1) (field w 0 3))

/-- MAJ 0x55: DQ. -/
def decodeMaj55 (w : Word) : Except DecodeError Instr :=
  whenZero (zeroBits w 3 1) (.dq (field w 18 7) (field w 11 7) (field w 4 7) (field w 0 3))

/-- MAJ 0x56: REKEY. -/
def decodeMaj56 (w : Word) : Except DecodeError Instr :=
  whenZero (zeroBits w 3 1) (.rekey (field w 18 7) (field w 11 7) (field w 4 7) (field w 0 3))

/-- MAJ 0x58: LD. -/
def decodeMaj58 (w : Word) : Except DecodeError Instr :=
  .ok (.ld (field w 18 7) (field w 11 7) (field w 4 7) (field w 3 1) (field w 0 3))

/-- MAJ 0x59: LDI. -/
def decodeMaj59 (w : Word) : Except DecodeError Instr :=
  .ok (.ldi (field w 18 7) (field w 11 7) (field w 1 10) (field w 0 1))

/-- MAJ 0x5A: ST. -/
def decodeMaj5A (w : Word) : Except DecodeError Instr :=
  whenZero (zeroBits w 3 1) (.st (field w 18 7) (field w 11 7) (field w 4 7) (field w 0 3))

/-- MAJ 0x5B: STI. -/
def decodeMaj5B (w : Word) : Except DecodeError Instr :=
  .ok (.sti (field w 18 7) (field w 11 7) (field w 0 11))

/-- MAJ 0x5C: LDS/STS. -/
def decodeMaj5C (w : Word) : Except DecodeError Instr :=
  match w.toNat / 2 ^ 3 % 2 ^ 1 with
  | 0 => .ok (.lds (field w 18 7) (field w 11 7) (field w 10 1) (field w 4 6) (field w 0 3))
  | 1 => .ok (.sts (field w 18 7) (field w 11 7) (field w 4 7) (field w 0 3))
  | _ => .error .unassigned

/-- MAJ 0x5D: LDU. -/
def decodeMaj5D (w : Word) : Except DecodeError Instr :=
  .ok (.ldu (field w 18 7) (field w 11 7) (field w 4 7) (field w 3 1) (field w 0 3))

/-- MAJ 0x5E: ATOM. -/
def decodeMaj5E (w : Word) : Except DecodeError Instr :=
  .ok (.atom (field w 18 7) (field w 11 7) (field w 10 1) (field w 4 6) (field w 0 4))

/-- MAJ 0x5F: ARED. -/
def decodeMaj5F (w : Word) : Except DecodeError Instr :=
  whenZero (zeroBits w 18 7) (.ared (field w 11 7) (field w 4 7) (field w 0 4))

/-- MAJ 0x60: ACP. -/
def decodeMaj60 (w : Word) : Except DecodeError Instr :=
  whenZero (zeroBits w 0 11 && zeroBits w 18 7) (.acp (field w 11 7))

/-- MAJ 0x61: CWB/CINV_D/CINV_W/PREF/CPROBE. -/
def decodeMaj61 (w : Word) : Except DecodeError Instr :=
  match w.toNat % 2 ^ 3 with
  | 0 => whenZero (zeroBits w 3 1 && zeroBits w 18 7) (.cwb (field w 11 7) (field w 4 7))
  | 1 => whenZero (zeroBits w 3 1) (.cinvD (field w 18 7) (field w 11 7) (field w 4 7))
  | 2 => whenZero (zeroBits w 3 1 && zeroBits w 18 7) (.cinvW (field w 11 7) (field w 4 7))
  | 3 => whenZero (zeroBits w 3 1 && zeroBits w 5 6 && zeroBits w 18 7) (.pref (field w 11 7) (field w 4 1))
  | 4 => whenZero (zeroBits w 4 7) (.cprobe (field w 18 7) (field w 11 7) (field w 3 1))
  | _ => .error .unassigned

/-- MAJ 0x62: STM. -/
def decodeMaj62 (w : Word) : Except DecodeError Instr :=
  whenZero (zeroBits w 0 11 && zeroBits w 18 7) (.stm (field w 11 7))

/-- MAJ 0x63: COMB. -/
def decodeMaj63 (w : Word) : Except DecodeError Instr :=
  whenZero (zeroBits w 0 11 && zeroBits w 18 7) (.comb (field w 11 7))

/-- MAJ 0x68: GANG. -/
def decodeMaj68 (w : Word) : Except DecodeError Instr :=
  whenZero (zeroBits w 0 4 && zeroBits w 18 7) (.gang (field w 11 7) (field w 4 7))

/-- MAJ 0x69: PMMA. -/
def decodeMaj69 (w : Word) : Except DecodeError Instr :=
  match w.toNat / 2 ^ 3 % 2 ^ 1 with
  | 0 => whenZero (zeroBits w 23 2) (.pmma (field w 18 5) (field w 11 7) (field w 4 7) (field w 0 3))
  | _ => .error .unassigned

/-- MAJ 0x6A: PACC_ZERO/PACC_LDA/PACC_STA/PACC_STAQ/PACC_RDA/PACC_SCALE. -/
def decodeMaj6A (w : Word) : Except DecodeError Instr :=
  match w.toNat % 2 ^ 3 with
  | 0 => whenZero (zeroBits w 3 15 && zeroBits w 23 2) (.paccZero (field w 18 5))
  | 1 => whenZero (zeroBits w 3 8 && zeroBits w 23 2) (.paccLda (field w 18 5) (field w 11 7))
  | 2 => whenZero (zeroBits w 3 8 && zeroBits w 23 2) (.paccSta (field w 18 5) (field w 11 7))
  | 3 => whenZero (zeroBits w 3 1 && zeroBits w 7 4 && zeroBits w 23 2) (.paccStaq (field w 18 5) (field w 11 7) (field w 4 3))
  | 4 => whenZero (zeroBits w 16 2) (.paccRda (field w 18 7) (field w 11 5) (field w 4 7) (field w 3 1))
  | 5 => whenZero (zeroBits w 3 8 && zeroBits w 23 2) (.paccScale (field w 18 5) (field w 11 7))
  | _ => .error .unassigned

/-- MAJ 0x70: CGRP. -/
def decodeMaj70 (w : Word) : Except DecodeError Instr :=
  whenZero (zeroBits w 0 11 && zeroBits w 18 7) (.cgrp (field w 11 7))

/-- MAJ 0x71: CAG/CRS/CAR/CHAND. -/
def decodeMaj71 (w : Word) : Except DecodeError Instr :=
  match w.toNat % 2 ^ 3 with
  | 0 => whenZero (zeroBits w 3 8 && zeroBits w 18 7) (.cag (field w 11 7))
  | 1 => whenZero (zeroBits w 3 8 && zeroBits w 18 7) (.crs (field w 11 7))
  | 2 => whenZero (zeroBits w 3 8 && zeroBits w 18 7) (.car (field w 11 7))
  | 3 => whenZero (zeroBits w 3 8 && zeroBits w 18 7) (.chand (field w 11 7))
  | _ => .error .unassigned

/-- MAJ 0x72: CSTAT. -/
def decodeMaj72 (w : Word) : Except DecodeError Instr :=
  whenZero (zeroBits w 0 3 && zeroBits w 4 7) (.cstat (field w 18 7) (field w 11 7) (field w 3 1))

/-- MAJ 0x74: NPOST. -/
def decodeMaj74 (w : Word) : Except DecodeError Instr :=
  whenZero (zeroBits w 0 11 && zeroBits w 18 7) (.npost (field w 11 7))

/-- MAJ 0x75: NPOLL. -/
def decodeMaj75 (w : Word) : Except DecodeError Instr :=
  whenZero (zeroBits w 0 3 && zeroBits w 4 7) (.npoll (field w 18 7) (field w 11 7) (field w 3 1))

/-- MAJ 0x7C: SYSCALL_VERSION/RDTIME/DIGEST_VALUE/DIGEST_COUNT/TMASK/AFLAGS. -/
def decodeMaj7C (w : Word) : Except DecodeError Instr :=
  match w.toNat % 2 ^ 3 with
  | 0 => whenZero (zeroBits w 3 8 && zeroBits w 18 7) (.syscallVersion (field w 11 7))
  | 1 => whenZero (zeroBits w 3 15) (.rdtime (field w 18 7))
  | 2 => whenZero (zeroBits w 3 1 && zeroBits w 4 7 && zeroBits w 12 6)
      (if field w 11 1 = 0#1 then .digestValue (field w 18 7) else .digestCount (field w 18 7))
  | 3 => whenZero (zeroBits w 3 1) (.tmask (field w 18 7) (field w 11 7) (field w 4 7))
  | 4 => whenZero (zeroBits w 3 1) (.aflags (field w 18 7) (field w 11 7) (field w 4 7))
  | _ => .error .unassigned

/-- MAJ 0x7D: CTXMODE. -/
def decodeMaj7D (w : Word) : Except DecodeError Instr :=
  match w.toNat % 2 ^ 3 with
  | 0 => whenZero (zeroBits w 3 8 && zeroBits w 18 7) (.ctxmode (field w 11 7))
  | _ => .error .unassigned

/-- MAJ 0x7E: TLBI. -/
def decodeMaj7E (w : Word) : Except DecodeError Instr :=
  whenZero (zeroBits w 0 4 && zeroBits w 18 7) (.tlbi (field w 11 7) (field w 4 7))

/-- The instruction of a word by its major opcode, with its trailers (R75). -/
def decodeMaj (w t1 t2 t3 : Word) : Except DecodeError Instr :=
  match w.toNat / 2 ^ 25 with
  | 0x01 => decodeMaj01 w
  | 0x02 => decodeMaj02 w
  | 0x03 => decodeMaj03 w t1
  | 0x04 => decodeMaj04 w t1
  | 0x05 => decodeMaj05 w
  | 0x06 => decodeMaj06 w
  | 0x07 => decodeMaj07 w
  | 0x08 => decodeMaj08 w
  | 0x09 => decodeMaj09 w
  | 0x0A => decodeMaj0A w
  | 0x0B => decodeMaj0B w
  | 0x0C => decodeMaj0C w
  | 0x0D => decodeMaj0D w
  | 0x0E => decodeMaj0E w t1 t2 t3
  | 0x0F => decodeMaj0F w
  | 0x10 => decodeMaj10 w
  | 0x11 => decodeMaj11 w
  | 0x12 => decodeMaj12 w
  | 0x13 => decodeMaj13 w
  | 0x14 => decodeMaj14 w
  | 0x15 => decodeMaj15 w
  | 0x16 => decodeMaj16 w
  | 0x17 => decodeMaj17 w
  | 0x18 => decodeMaj18 w
  | 0x19 => decodeMaj19 w
  | 0x1A => decodeMaj1A w
  | 0x1B => decodeMaj1B w
  | 0x1C => decodeMaj1C w
  | 0x1D => decodeMaj1D w
  | 0x1E => decodeMaj1E w
  | 0x1F => decodeMaj1F w
  | 0x20 => decodeMaj20 w
  | 0x21 => decodeMaj21 w
  | 0x22 => decodeMaj22 w
  | 0x23 => decodeMaj23 w
  | 0x24 => decodeMaj24 w t1
  | 0x25 => decodeMaj25 w
  | 0x30 => decodeMaj30 w
  | 0x31 => decodeMaj31 w
  | 0x32 => decodeMaj32 w
  | 0x33 => decodeMaj33 w
  | 0x34 => decodeMaj34 w
  | 0x35 => decodeMaj35 w
  | 0x38 => decodeMaj38 w
  | 0x39 => decodeMaj39 w
  | 0x3A => decodeMaj3A w
  | 0x3B => decodeMaj3B w
  | 0x3C => decodeMaj3C w
  | 0x40 => decodeMaj40 w
  | 0x41 => decodeMaj41 w
  | 0x42 => decodeMaj42 w
  | 0x43 => decodeMaj43 w
  | 0x44 => decodeMaj44 w
  | 0x45 => decodeMaj45 w
  | 0x46 => decodeMaj46 w
  | 0x47 => decodeMaj47 w
  | 0x48 => decodeMaj48 w
  | 0x50 => decodeMaj50 w
  | 0x51 => decodeMaj51 w
  | 0x52 => decodeMaj52 w
  | 0x53 => decodeMaj53 w
  | 0x54 => decodeMaj54 w
  | 0x55 => decodeMaj55 w
  | 0x56 => decodeMaj56 w
  | 0x58 => decodeMaj58 w
  | 0x59 => decodeMaj59 w
  | 0x5A => decodeMaj5A w
  | 0x5B => decodeMaj5B w
  | 0x5C => decodeMaj5C w
  | 0x5D => decodeMaj5D w
  | 0x5E => decodeMaj5E w
  | 0x5F => decodeMaj5F w
  | 0x60 => decodeMaj60 w
  | 0x61 => decodeMaj61 w
  | 0x62 => decodeMaj62 w
  | 0x63 => decodeMaj63 w
  | 0x68 => decodeMaj68 w
  | 0x69 => decodeMaj69 w
  | 0x6A => decodeMaj6A w
  | 0x70 => decodeMaj70 w
  | 0x71 => decodeMaj71 w
  | 0x72 => decodeMaj72 w
  | 0x74 => decodeMaj74 w
  | 0x75 => decodeMaj75 w
  | 0x7C => decodeMaj7C w
  | 0x7D => decodeMaj7D w
  | 0x7E => decodeMaj7E w
  | _ => .error .unassigned

/-- Refuses what the opcode map leaves unassigned inside an assigned word (R77, R80, R81, R83). -/
def checkDefect (i : Instr) : Except DecodeError Instr :=
  match i.defect with
  | none => .ok i
  | some .unassigned => .error .unassigned
  | some .reserved => .error .reserved

/-- The instruction that starts at the head of `ws`, and the words after it. -/
def decode : List Word → Except DecodeError (Instr × List Word)
  | [] => .error .short
  | w :: ws =>
    if w = 0#32 then .error .zeroWord
    else
      let n := trailersOf (w.toNat / 2 ^ 25)
      if ws.length < n then .error .short
      else
        match decodeMaj w (ws.getD 0 0#32) (ws.getD 1 0#32) (ws.getD 2 0#32) with
        | .error e => .error e
        | .ok i =>
          match checkDefect i with
          | .error e => .error e
          | .ok i => .ok (i, ws.drop n)

/-- Little-endian words from bytes; a tail of fewer than four bytes gives no word (R44). -/
def wordsOfBytes : List Byte → List Word
  | a :: b :: c :: d :: rest =>
    BitVec.ofNat 32 (a.toNat + 2 ^ 8 * b.toNat + 2 ^ 16 * c.toNat + 2 ^ 24 * d.toNat) :: wordsOfBytes rest
  | _ => []

/-- The four bytes of a word, low byte first (R44). -/
def bytesOfWord (w : Word) : List Byte :=
  [BitVec.ofNat 8 w.toNat, BitVec.ofNat 8 (w.toNat / 2 ^ 8), BitVec.ofNat 8 (w.toNat / 2 ^ 16),
    BitVec.ofNat 8 (w.toNat / 2 ^ 24)]

/-- The instruction whose bytes stand at the head of a list of bytes. -/
def decodeBytes (bs : List Byte) : Except DecodeError Instr :=
  match decode (wordsOfBytes bs) with
  | .ok (i, _) => .ok i
  | .error e => .error e

/-- The low `n` bytes of a number, low byte first. -/
def bytesOfNat : Nat → Nat → List Byte
  | 0, _ => []
  | n + 1, v => BitVec.ofNat 8 v :: bytesOfNat n (v / 256)

/-- The sixteen bytes in which an instruction numbered as spec/opcode_table.json numbers its bits is laid out: its words
in order, each little-endian, the bits above `nbits` zero. -/
def tableBytes (nbits w : Nat) : List Byte := bytesOfNat 16 (w % 2 ^ nbits)

/-- What the decoder reads from the instruction whose bits are `w`. -/
def decodeTableWord (nbits w : Nat) : Option Instr :=
  match decodeBytes (tableBytes nbits w) with
  | .ok i => some i
  | .error _ => none

/-- A field's contribution to a word: its value from bit `lo` up. -/
def put {k : Nat} (x : BitVec k) (lo : Nat) : Nat := x.toNat * 2 ^ lo

/-- The word with the fixed bits `base` and the given fields (R114). -/
def ofFields (base : Nat) (fs : List Nat) : Word := BitVec.ofNat 32 (base + fs.sum)

/-- The words of an instruction, header included; an event has none, and a word that is no instruction stands for
itself (R45, R114). -/
def encode : Instr → List Word
  | .clh w a b l y => ofFields 0x2000000 [put w 13, put a 9, put b 5, put l 1, put y 0] :: []
  | .bra n p o => ofFields 0x4000000 [put n 24, put p 20, put o 0] :: []
  | .brd n p o t => ofFields 0x6000000 [put n 24, put p 20, put o 0] :: [t]
  | .jtab a b t => ofFields 0x8000000 [put a 11, put b 4] :: [t]
  | .jmpi a => ofFields 0xA000000 [put a 11] :: []
  | .call n p o => ofFields 0xC800000 [put n 24, put p 20, put o 0] :: []
  | .ret => ofFields 0xE000000 [] :: []
  | .exit => ofFields 0x10000000 [] :: []
  | .wbase m r i => ofFields 0x12000000 [put m 19, put r 18, put i 0] :: []
  | .yield => ofFields 0x14000000 [] :: []
  | .yieldHoldoffExpire _ _ => []
  | .trapi i => ofFields 0x16000000 [put i 0] :: []
  | .tfence => ofFields 0x18000000 [] :: []
  | .tret => ofFields 0x1A000000 [] :: []
  | .ppt tv tu tc => ofFields 0x1C000000 [] :: [tv, tu, tc]
  | .mark i => ofFields 0x1E000000 [put i 0] :: []
  | .spawn d a b c => ofFields 0x20000000 [put d 18, put a 11, put b 4, put c 0] :: []
  | .spawnr d a b c => ofFields 0x22000000 [put d 18, put a 11, put b 4, put c 0] :: []
  | .await a => ofFields 0x24000000 [put a 11] :: []
  | .awaitp a => ofFields 0x26000000 [put a 11] :: []
  | .awaitc a b => ofFields 0x28000000 [put a 11, put b 4] :: []
  | .awaitcPoll _ _ => []
  | .counterUpdateWake _ => []
  | .wakeNotice _ _ => []
  | .bclose d => ofFields 0x2A000000 [put d 18] :: []
  | .bwait a => ofFields 0x2A000001 [put a 11] :: []
  | .bstat d f => ofFields 0x2A000002 [put d 18, put f 3] :: []
  | .bar a i => ofFields 0x2C000000 [put a 11, put i 4] :: []
  | .pbar a => ofFields 0x2E000000 [put a 11] :: []
  | .pbarRelease _ _ => []
  | .signal a b => ofFields 0x2E000001 [put a 11, put b 4] :: []
  | .flushwc => ofFields 0x2E000002 [] :: []
  | .iadd d a b u => ofFields 0x30000000 [put d 18, put a 11, put b 4, put u 3] :: []
  | .isub d a b u => ofFields 0x30000001 [put d 18, put a 11, put b 4, put u 3] :: []
  | .iaddSs d a b u => ofFields 0x30000002 [put d 18, put a 11, put b 4, put u 3] :: []
  | .iaddZs d a b u => ofFields 0x30000003 [put d 18, put a 11, put b 4, put u 3] :: []
  | .isubSs d a b u => ofFields 0x30000004 [put d 18, put a 11, put b 4, put u 3] :: []
  | .isubZs d a b u => ofFields 0x30000005 [put d 18, put a 11, put b 4, put u 3] :: []
  | .iabsd d a b u => ofFields 0x30000006 [put d 18, put a 11, put b 4, put u 3] :: []
  | .iavg d a b u => ofFields 0x30000007 [put d 18, put a 11, put b 4, put u 3] :: []
  | .iadd64 d a b u => ofFields 0x32000000 [put d 18, put a 11, put b 4, put u 3] :: []
  | .isub64 d a b u => ofFields 0x32000001 [put d 18, put a 11, put b 4, put u 3] :: []
  | .shl64 d a b u => ofFields 0x32000002 [put d 18, put a 11, put b 4, put u 3] :: []
  | .shr64 d a b u => ofFields 0x32000003 [put d 18, put a 11, put b 4, put u 3] :: []
  | .sar64 d a b u => ofFields 0x32000004 [put d 18, put a 11, put b 4, put u 3] :: []
  | .imulw d a b u => ofFields 0x32000005 [put d 18, put a 11, put b 4, put u 3] :: []
  | .imulwZ d a b u => ofFields 0x32000006 [put d 18, put a 11, put b 4, put u 3] :: []
  | .imul d a b u => ofFields 0x34000000 [put d 18, put a 11, put b 4, put u 3] :: []
  | .imulhS d a b u => ofFields 0x34000001 [put d 18, put a 11, put b 4, put u 3] :: []
  | .imulhZ d a b u => ofFields 0x34000002 [put d 18, put a 11, put b 4, put u 3] :: []
  | .imad d a b u => ofFields 0x34000003 [put d 18, put a 11, put b 4, put u 3] :: []
  | .idot4S d a b u => ofFields 0x34000004 [put d 18, put a 11, put b 4, put u 3] :: []
  | .idot4Z d a b u => ofFields 0x34000005 [put d 18, put a 11, put b 4, put u 3] :: []
  | .idot2 d a b u => ofFields 0x34000006 [put d 18, put a 11, put b 4, put u 3] :: []
  | .iminS d a b u => ofFields 0x36000000 [put d 18, put a 11, put b 4, put u 3] :: []
  | .iminZ d a b u => ofFields 0x36000001 [put d 18, put a 11, put b 4, put u 3] :: []
  | .imaxS d a b u => ofFields 0x36000002 [put d 18, put a 11, put b 4, put u 3] :: []
  | .imaxZ d a b u => ofFields 0x36000003 [put d 18, put a 11, put b 4, put u 3] :: []
  | .iabs d a u => ofFields 0x36000004 [put d 18, put a 11, put u 3] :: []
  | .ineg d a u => ofFields 0x36000005 [put d 18, put a 11, put u 3] :: []
  | .isgn d a u => ofFields 0x36000006 [put d 18, put a 11, put u 3] :: []
  | .and d a b u => ofFields 0x38000000 [put d 18, put a 11, put b 4, put u 3] :: []
  | .or d a b u => ofFields 0x38000001 [put d 18, put a 11, put b 4, put u 3] :: []
  | .xor d a b u => ofFields 0x38000002 [put d 18, put a 11, put b 4, put u 3] :: []
  | .andn d a b u => ofFields 0x38000003 [put d 18, put a 11, put b 4, put u 3] :: []
  | .orn d a b u => ofFields 0x38000004 [put d 18, put a 11, put b 4, put u 3] :: []
  | .xnor d a b u => ofFields 0x38000005 [put d 18, put a 11, put b 4, put u 3] :: []
  | .not d a u => ofFields 0x38000006 [put d 18, put a 11, put u 3] :: []
  | .shl d a b u => ofFields 0x3A000000 [put d 18, put a 11, put b 4, put u 3] :: []
  | .shr d a b u => ofFields 0x3A000001 [put d 18, put a 11, put b 4, put u 3] :: []
  | .sar d a b u => ofFields 0x3A000002 [put d 18, put a 11, put b 4, put u 3] :: []
  | .rol d a b u => ofFields 0x3A000003 [put d 18, put a 11, put b 4, put u 3] :: []
  | .ror d a b u => ofFields 0x3A000004 [put d 18, put a 11, put b 4, put u 3] :: []
  | .fshl d a b u => ofFields 0x3A000005 [put d 18, put a 11, put b 4, put u 3] :: []
  | .fshr d a b u => ofFields 0x3A000006 [put d 18, put a 11, put b 4, put u 3] :: []
  | .popc d a u => ofFields 0x3C000000 [put d 18, put a 11, put u 3] :: []
  | .clz d a u => ofFields 0x3C000001 [put d 18, put a 11, put u 3] :: []
  | .ctz d a u => ofFields 0x3C000002 [put d 18, put a 11, put u 3] :: []
  | .brev d a u => ofFields 0x3C000003 [put d 18, put a 11, put u 3] :: []
  | .bfeZ d a b u => ofFields 0x3C000004 [put d 18, put a 11, put b 4, put u 3] :: []
  | .bfeS d a b u => ofFields 0x3C000005 [put d 18, put a 11, put b 4, put u 3] :: []
  | .bfi d a b u => ofFields 0x3C000006 [put d 18, put a 11, put b 4, put u 3] :: []
  | .prmt d a b u => ofFields 0x3C000007 [put d 18, put a 11, put b 4, put u 3] :: []
  | .isetp d a b u c => ofFields 0x3E000000 [put d 18, put a 11, put b 4, put u 3, put c 0] :: []
  | .sel d a b u n => ofFields 0x40000000 [put d 18, put a 11, put b 4, put u 3, put n 0] :: []
  | .mov d a u => ofFields 0x42000000 [put d 18, put a 11, put u 3] :: []
  | .mfs d a => ofFields 0x42000001 [put d 18, put a 11] :: []
  | .mts d a => ofFields 0x42000002 [put d 18, put a 11] :: []
  | .vxget d k b => ofFields 0x42000003 [put d 18, put k 11, put b 4] :: []
  | .vxput d k b => ofFields 0x42000004 [put d 18, put k 11, put b 4] :: []
  | .p2v d a => ofFields 0x42000005 [put d 18, put a 11] :: []
  | .v2p d a => ofFields 0x42000006 [put d 18, put a 11] :: []
  | .uvget d a b => ofFields 0x42000007 [put d 18, put a 11, put b 4] :: []
  | .iaddi d a i => ofFields 0x44000000 [put d 18, put a 11, put i 0] :: []
  | .movi d i => ofFields 0x46000000 [put d 18, put i 0] :: []
  | .movl d a lit => ofFields 0x48000000 [put d 18, put a 11] :: [lit]
  | .lea d a b => ofFields 0x4A000000 [put d 18, put a 11, put b 4] :: []
  | .leaG d a b => ofFields 0x4A000001 [put d 18, put a 11, put b 4] :: []
  | .sadd d a b => ofFields 0x60000000 [put d 18, put a 11, put b 4] :: []
  | .ssub d a b => ofFields 0x60000001 [put d 18, put a 11, put b 4] :: []
  | .smul d a b => ofFields 0x60000002 [put d 18, put a 11, put b 4] :: []
  | .sand d a b => ofFields 0x60000003 [put d 18, put a 11, put b 4] :: []
  | .sor d a b => ofFields 0x60000004 [put d 18, put a 11, put b 4] :: []
  | .sxor d a b => ofFields 0x60000005 [put d 18, put a 11, put b 4] :: []
  | .sshl d a b => ofFields 0x60000006 [put d 18, put a 11, put b 4] :: []
  | .sshr d a b => ofFields 0x60000007 [put d 18, put a 11, put b 4] :: []
  | .sminS d a b => ofFields 0x62000000 [put d 18, put a 11, put b 4] :: []
  | .smaxS d a b => ofFields 0x62000001 [put d 18, put a 11, put b 4] :: []
  | .sminZ d a b => ofFields 0x62000002 [put d 18, put a 11, put b 4] :: []
  | .smaxZ d a b => ofFields 0x62000003 [put d 18, put a 11, put b 4] :: []
  | .sadd64 d a b => ofFields 0x62000004 [put d 18, put a 11, put b 4] :: []
  | .ssub64 d a b => ofFields 0x62000005 [put d 18, put a 11, put b 4] :: []
  | .ssar d a b => ofFields 0x62000006 [put d 18, put a 11, put b 4] :: []
  | .spopc d a => ofFields 0x62000007 [put d 18, put a 11] :: []
  | .ssetq d a b c => ofFields 0x64000000 [put d 18, put a 11, put b 4, put c 0] :: []
  | .saddi d a i => ofFields 0x66000000 [put d 18, put a 11, put i 0] :: []
  | .smovi d i => ofFields 0x68000000 [put d 18, put i 0] :: []
  | .slea d a b => ofFields 0x6A000000 [put d 18, put a 11, put b 4] :: []
  | .sleaG d a b => ofFields 0x6A000001 [put d 18, put a 11, put b 4] :: []
  | .shflIdx d a b => ofFields 0x70000000 [put d 18, put a 11, put b 4] :: []
  | .shflUp d a n => ofFields 0x70000001 [put d 18, put a 11, put n 4] :: []
  | .shflDn d a n => ofFields 0x70000002 [put d 18, put a 11, put n 4] :: []
  | .shflXor d a n => ofFields 0x70000003 [put d 18, put a 11, put n 4] :: []
  | .voteAny q n p => ofFields 0x72000000 [put q 18, put n 14, put p 11] :: []
  | .voteAll q n p => ofFields 0x72000001 [put q 18, put n 14, put p 11] :: []
  | .voteBallot d n p => ofFields 0x72000002 [put d 18, put n 14, put p 11] :: []
  | .voteUni q n p => ofFields 0x72000003 [put q 18, put n 14, put p 11] :: []
  | .lred d a o => ofFields 0x74000000 [put d 18, put a 11, put o 0] :: []
  | .lscan d a o => ofFields 0x76000000 [put d 18, put a 11, put o 0] :: []
  | .matchLanes d a => ofFields 0x78000000 [put d 18, put a 11] :: []
  | .fadd d a b u => ofFields 0x80000000 [put d 18, put a 11, put b 4, put u 3] :: []
  | .fsub d a b u => ofFields 0x80000001 [put d 18, put a 11, put b 4, put u 3] :: []
  | .fmul d a b u => ofFields 0x80000002 [put d 18, put a 11, put b 4, put u 3] :: []
  | .fmin d a b u => ofFields 0x80000003 [put d 18, put a 11, put b 4, put u 3] :: []
  | .fmax d a b u => ofFields 0x80000004 [put d 18, put a 11, put b 4, put u 3] :: []
  | .fminn d a b u => ofFields 0x80000005 [put d 18, put a 11, put b 4, put u 3] :: []
  | .fmaxn d a b u => ofFields 0x80000006 [put d 18, put a 11, put b 4, put u 3] :: []
  | .fcsgn d a b u => ofFields 0x80000007 [put d 18, put a 11, put b 4, put u 3] :: []
  | .ffma d a b u => ofFields 0x82000000 [put d 18, put a 11, put b 4, put u 3] :: []
  | .ffms d a b u => ofFields 0x82000001 [put d 18, put a 11, put b 4, put u 3] :: []
  | .fnfma d a b u => ofFields 0x82000002 [put d 18, put a 11, put b 4, put u 3] :: []
  | .fnfms d a b u => ofFields 0x82000003 [put d 18, put a 11, put b 4, put u 3] :: []
  | .fsetp d a b u c => ofFields 0x84000000 [put d 18, put a 11, put b 4, put u 3, put c 0] :: []
  | .fclass d a u => ofFields 0x86000000 [put d 18, put a 11, put u 3] :: []
  | .frnd d a u => ofFields 0x86000001 [put d 18, put a 11, put u 3] :: []
  | .fldexp d a b u => ofFields 0x86000002 [put d 18, put a 11, put b 4, put u 3] :: []
  | .fgetx d a u => ofFields 0x86000003 [put d 18, put a 11, put u 3] :: []
  | .ffrac d a u => ofFields 0x86000004 [put d 18, put a 11, put u 3] :: []
  | .fabs d a u => ofFields 0x86000005 [put d 18, put a 11, put u 3] :: []
  | .fneg d a u => ofFields 0x86000006 [put d 18, put a 11, put u 3] :: []
  | .fsat d a u => ofFields 0x86000007 [put d 18, put a 11, put u 3] :: []
  | .rcp d a f u => ofFields 0x88000000 [put d 18, put a 11, put f 10, put u 3] :: []
  | .rsq d a f u => ofFields 0x88000001 [put d 18, put a 11, put f 10, put u 3] :: []
  | .sqrt d a f u => ofFields 0x88000002 [put d 18, put a 11, put f 10, put u 3] :: []
  | .ex2 d a f u => ofFields 0x88000003 [put d 18, put a 11, put f 10, put u 3] :: []
  | .lg2 d a f u => ofFields 0x88000004 [put d 18, put a 11, put f 10, put u 3] :: []
  | .sinpi d a f u => ofFields 0x88000005 [put d 18, put a 11, put f 10, put u 3] :: []
  | .cospi d a f u => ofFields 0x88000006 [put d 18, put a 11, put f 10, put u 3] :: []
  | .fdiv d a f b u => ofFields 0x8A000000 [put d 18, put a 11, put f 10, put b 4, put u 3] :: []
  | .hadd2 d a b t => ofFields 0x8C000000 [put d 18, put a 11, put b 4, put t 3] :: []
  | .hsub2 d a b t => ofFields 0x8C000001 [put d 18, put a 11, put b 4, put t 3] :: []
  | .hmul2 d a b t => ofFields 0x8C000002 [put d 18, put a 11, put b 4, put t 3] :: []
  | .hfma2 d a b t => ofFields 0x8C000003 [put d 18, put a 11, put b 4, put t 3] :: []
  | .hmin2 d a b t => ofFields 0x8C000004 [put d 18, put a 11, put b 4, put t 3] :: []
  | .hmax2 d a b t => ofFields 0x8C000005 [put d 18, put a 11, put b 4, put t 3] :: []
  | .hrcp d a f t => ofFields 0x8E000000 [put d 18, put a 11, put f 10, put t 3] :: []
  | .hrsq d a f t => ofFields 0x8E000001 [put d 18, put a 11, put f 10, put t 3] :: []
  | .hsqrt d a f t => ofFields 0x8E000002 [put d 18, put a 11, put f 10, put t 3] :: []
  | .hex2 d a f t => ofFields 0x8E000003 [put d 18, put a 11, put f 10, put t 3] :: []
  | .hlg2 d a f t => ofFields 0x8E000004 [put d 18, put a 11, put f 10, put t 3] :: []
  | .hsinpi d a f t => ofFields 0x8E000005 [put d 18, put a 11, put f 10, put t 3] :: []
  | .hcospi d a f t => ofFields 0x8E000006 [put d 18, put a 11, put f 10, put t 3] :: []
  | .cvt d a e s x p => ofFields 0x90000000 [put d 18, put a 11, put e 7, put s 4, put x 2, put p 0] :: []
  | .fmtset s a => ofFields 0xA0000000 [put s 18, put a 11] :: []
  | .qscale d a f => ofFields 0xA2000000 [put d 18, put a 11, put f 0] :: []
  | .qcvt d a b f => ofFields 0xA4000000 [put d 18, put a 11, put b 4, put f 0] :: []
  | .qst d a b f => ofFields 0xA6000000 [put d 18, put a 11, put b 4, put f 0] :: []
  | .dqld d a b x f => ofFields 0xA8000000 [put d 18, put a 11, put b 4, put x 3, put f 0] :: []
  | .dq d a b f => ofFields 0xAA000000 [put d 18, put a 11, put b 4, put f 0] :: []
  | .rekey d a b f => ofFields 0xAC000000 [put d 18, put a 11, put b 4, put f 0] :: []
  | .ld d a b x w => ofFields 0xB0000000 [put d 18, put a 11, put b 4, put x 3, put w 0] :: []
  | .ldi d a i f => ofFields 0xB2000000 [put d 18, put a 11, put i 1, put f 0] :: []
  | .st d a b w => ofFields 0xB4000000 [put d 18, put a 11, put b 4, put w 0] :: []
  | .sti d a i => ofFields 0xB6000000 [put d 18, put a 11, put i 0] :: []
  | .lds d a f b w => ofFields 0xB8000000 [put d 18, put a 11, put f 10, put b 4, put w 0] :: []
  | .sts d a b w => ofFields 0xB8000008 [put d 18, put a 11, put b 4, put w 0] :: []
  | .ldu d a b x w => ofFields 0xBA000000 [put d 18, put a 11, put b 4, put x 3, put w 0] :: []
  | .atom d a f b o => ofFields 0xBC000000 [put d 18, put a 11, put f 10, put b 4, put o 0] :: []
  | .ared a b o => ofFields 0xBE000000 [put a 11, put b 4, put o 0] :: []
  | .acp a => ofFields 0xC0000000 [put a 11] :: []
  | .cwb a b => ofFields 0xC2000000 [put a 11, put b 4] :: []
  | .cinvD d a b => ofFields 0xC2000001 [put d 18, put a 11, put b 4] :: []
  | .cinvW a b => ofFields 0xC2000002 [put a 11, put b 4] :: []
  | .pref a l => ofFields 0xC2000003 [put a 11, put l 4] :: []
  | .cprobe d a f => ofFields 0xC2000004 [put d 18, put a 11, put f 3] :: []
  | .stm a => ofFields 0xC4000000 [put a 11] :: []
  | .comb a => ofFields 0xC6000000 [put a 11] :: []
  | .gang a b => ofFields 0xD0000000 [put a 11, put b 4] :: []
  | .pmma d a b p => ofFields 0xD2000000 [put d 18, put a 11, put b 4, put p 0] :: []
  | .rendezvousTimeout _ _ => []
  | .paccZero d => ofFields 0xD4000000 [put d 18] :: []
  | .paccLda d a => ofFields 0xD4000001 [put d 18, put a 11] :: []
  | .paccSta d a => ofFields 0xD4000002 [put d 18, put a 11] :: []
  | .paccStaq d a f => ofFields 0xD4000003 [put d 18, put a 11, put f 4] :: []
  | .paccRda d a b f => ofFields 0xD4000004 [put d 18, put a 11, put b 4, put f 3] :: []
  | .paccScale d a => ofFields 0xD4000005 [put d 18, put a 11] :: []
  | .pressServe _ _ => []
  | .cgrp a => ofFields 0xE0000000 [put a 11] :: []
  | .cag a => ofFields 0xE2000000 [put a 11] :: []
  | .crs a => ofFields 0xE2000001 [put a 11] :: []
  | .car a => ofFields 0xE2000002 [put a 11] :: []
  | .chand a => ofFields 0xE2000003 [put a 11] :: []
  | .courierStep _ => []
  | .cstat d a f => ofFields 0xE4000000 [put d 18, put a 11, put f 3] :: []
  | .npost a => ofFields 0xE8000000 [put a 11] :: []
  | .npoll d a f => ofFields 0xEA000000 [put d 18, put a 11, put f 3] :: []
  | .syscallVersion a => ofFields 0xF8000000 [put a 11] :: []
  | .syscallUserEvent a => ofFields 0xF8000000 [put a 11] :: []
  | .syscallClock a => ofFields 0xF8000000 [put a 11] :: []
  | .syscallUnknown a => ofFields 0xF8000000 [put a 11] :: []
  | .rdtime d => ofFields 0xF8000001 [put d 18] :: []
  | .digestValue d => ofFields 0xF8000002 [put d 18] :: []
  | .digestCount d => ofFields 0xF8000802 [put d 18] :: []
  | .tmask d a b => ofFields 0xF8000003 [put d 18, put a 11, put b 4] :: []
  | .aflags d a b => ofFields 0xF8000004 [put d 18, put a 11, put b 4] :: []
  | .ctxmode a => ofFields 0xFA000000 [put a 11] :: []
  | .tlbi a b => ofFields 0xFC000000 [put a 11, put b 4] :: []
  | .classVComplete _ _ _ => []
  | .engineOpComplete _ => []
  | .satchelAgeExpire _ _ _ => []
  | .custodyAck _ => []
  | .deliveryAck _ => []
  | .remoteAccessArrival _ => []
  | .hopTimeout _ => []
  | .errorNotice _ => []
  | .walkComplete _ _ _ => []
  | .fqrespResolve _ _ => []
  | .fqrespCancel _ _ => []
  | .taskStart _ _ => []
  | .taskComplete _ => []
  | .troupeResume _ _ => []
  | .framePoolWaitExpire _ _ => []
  | .storeSetWaitExpire _ _ => []
  | .progressSwitchExpire _ => []
  | .priorityWaitExpire _ => []
  | .coreSwap _ _ => []
  | .porterSpillComplete _ _ => []
  | .imageRestore _ _ => []
  | .deferralExpire _ _ => []
  | .qdbDoorbell _ _ => []
  | .qctlEnable _ => []
  | .qctlDisable _ => []
  | .qctlReset _ => []
  | .qctlResume _ => []
  | .slotFetch => []
  | .refetch _ => []
  | .refetchDeadline _ => []
  | .qlaunch _ => []
  | .qcopy _ => []
  | .qfill _ => []
  | .qwrite _ => []
  | .qfence _ => []
  | .qmark _ => []
  | .qnop _ => []
  | .fencePoll _ => []
  | .qopComplete _ => []
  | .hostWindowRead _ _ => []
  | .hostWindowWrite _ _ => []
  | .cxlMemAccess _ _ _ => []
  | .attctlGo => []
  | .attestReportDone => []
  | .replctlRelease _ => []
  | .replctlMismatchClear _ => []
  | .partnerDigestArrival _ _ _ => []
  | .partnerSilentExpire _ _ => []
  | .ctxswSuspend _ => []
  | .ctxswResume _ => []
  | .registerWrite _ _ => []
  | .packageReset => []
  | .throttle _ _ => []
  | .bridgeFailure _ => []
  | .dieSilenceTimeout _ => []
  | .ringWrapComplete => []
  | .ringTransferArrival _ => []
  | .fabricPortStateChange _ _ => []
  | .multicastFlitArrival _ _ => []
  | .multicastBranchTimeout _ _ => []
  | .combContributionArrival _ _ => []
  | .netPacketSend _ => []
  | .netPacketReceive _ _ => []
  | .sackReceive _ _ _ => []
  | .nakReceive _ _ _ => []
  | .retransmitTimeout _ _ _ => []
  | .netPortDownTimeout _ => []
  | .netPortStateChange _ _ => []
  | .unassignedEncoding w => [w]
  | .dieFailure _ => []
  | .eccUncorrectableError _ => []
  | .nodeFlitArrival _ _ => []
  | .nodeReset _ => []
  | .netcfgEnableClear _ _ => []
  | .bootVerificationComplete _ => []

/-- How many words an instruction occupies, its trailers included (R79). -/
def Instr.words : Instr → Nat
  | .brd _ _ _ _ => 2
  | .jtab _ _ _ => 2
  | .ppt _ _ _ => 4
  | .movl _ _ _ => 2
  | _ => 1

end Sys2Proof
end

