-- ==== Sys2Proof/Config.lean ====
section
/-! DEFINITION. What the part fixes ("chosen on this part", R11) and what the spec leaves open: the free values, opaque
constants that no proof can see through, applied to the counter State.fresh or to the operands they depend on. -/

namespace Sys2Proof.Config

/-- A free 32-bit value (log 4). -/
opaque freeWord : Nat → BitVec 32

/-- A free 64-bit value (log 4). -/
opaque freeDWord : Nat → BitVec 64

/-- A free byte (log 4). -/
opaque freeByte : Nat → BitVec 8

/-- A free choice between two outcomes (log 4). -/
opaque freeBit : Nat → Bool

/-- A free choice among `n` outcomes, before it is reduced modulo `n` (log 4). -/
opaque freeNat : Nat → Nat

/-- How many nanoseconds a step takes; no rule gives a step's duration in this model (log 25). -/
opaque stepNs : Nat → Nat

/-- The security version of the running firmware image (R41, R205): it belongs to the release (log 23). -/
opaque securityVersion : BitVec 32

/-- The digest of the firmware image as it is delivered (R41, R42): it belongs to the release (log 23). -/
opaque firmwareDigest : BitVec 256

/-- Byte `i` of the attestation report where R42 names a serial number, another digest or a signature (log 23). -/
opaque reportByte : Nat → BitVec 8

/-- Clock steps of a throttling die, and its floor, in MHz (R43). -/
def throttleStep : Nat := 50
def throttleFloor : Nat := 550
def ratedMHz : Nat := 1050

/-- Fetches of a failing slot before CHKFAIL (R27). -/
def refetchBudget : Nat := 64

/-- Outstanding closed batches of a party (R107). -/
def maxBatches : Nat := 16

/-- Lines of a core's Satchel (R168). -/
def satchelLines : Nat := 64

/-- Entries of a core TLB and of a cluster TLB (R280). -/
def coreTlbEntries : Nat := 256
def clusterTlbEntries : Nat := 4096

/-- Upper-level entries of a die's walk cache (R280). -/
def walkCacheEntries : Nat := 256

/-- Walks at once on a die, and distinct pages that may queue behind them (R280). -/
def maxWalks : Nat := 64
def maxQueuedWalks : Nat := 1024

/-- Operations a Press queue holds, and physical tiles of a Press (R318, R317). -/
def pressQueueDepth : Nat := 16
def pressTiles : Nat := 32

/-- Bytes of a core image (R347). -/
def coreImageBytes : Nat := 917504

/-- Bytes of a frame's join record in the hidden carve-out (R255, log 41). -/
def joinRecordBytes : Nat := 64

/-- A Courier segment in bytes (R323). -/
def segmentBytes : Nat := 65536

/-- Bytes of the Vat kept for contribution rounds (R330). -/
def vatRoundBytes : Nat := 8388608

/-- A node's combining store in bytes, and its instance limit (R370). -/
def combStoreBytes : Nat := 67108864
def combInstances : Nat := 4096

/-- Messages a die keeps outstanding (R384), retransmissions of a packet, and the loss threshold (R375). -/
def maxMessages : Nat := 1024
def retransmitBudget : Nat := 7
def lossThreshold : Nat := 3

/-- Packets beyond a gap that a ROD receiver holds (R386). -/
def rodWindow : Nat := 64

/-- Entries of a core's atomic buffer (R254). -/
def atomicBufferEntries : Nat := 4096

end Sys2Proof.Config
end

