-- ==== Sys2Proof/Machine/Maps.lean ====
section
/-! DEFINITION. Sparse maps as lists sorted by key without repeats, and byte memories whose unlisted bytes read 0
(log 1): the plain data that registers, memory and tables are held in. -/

namespace Sys2Proof.Machine

/-- A sparse map: pairs of key and value, keys strictly rising. -/
abbrev AMap (α : Type) := List (Nat × α)

/-- The value at a key. -/
def AMap.get? {α : Type} : AMap α → Nat → Option α
  | [], _ => none
  | (k', v) :: r, k => if k = k' then some v else AMap.get? r k

/-- The map with the value at a key replaced or added. -/
def AMap.insert {α : Type} : AMap α → Nat → α → AMap α
  | [], k, v => [(k, v)]
  | (k', v') :: r, k, v =>
    if k < k' then (k, v) :: (k', v') :: r
    else if k = k' then (k, v) :: r
    else (k', v') :: AMap.insert r k v

/-- The map without a key. -/
def AMap.erase {α : Type} : AMap α → Nat → AMap α
  | [], _ => []
  | (k', v') :: r, k => if k = k' then AMap.erase r k else (k', v') :: AMap.erase r k

/-- The value at a key, or a default. -/
def AMap.getD {α : Type} (m : AMap α) (k : Nat) (d : α) : α := (m.get? k).getD d

/-- The map with a function applied at a key, if the key is there. -/
def AMap.modify {α : Type} (m : AMap α) (k : Nat) (f : α → α) : AMap α :=
  match m.get? k with
  | some v => m.insert k (f v)
  | none => m

/-- The keys strictly rise from above `lo`. -/
def AMap.sortedFrom {α : Type} : Nat → AMap α → Bool
  | _, [] => true
  | lo, (k, _) :: r => lo ≤ k && AMap.sortedFrom (k + 1) r

/-- A sparse map of bit vectors whose unlisted entries read 0. -/
abbrev Cells (w : Nat) := AMap (BitVec w)

/-- What a cell reads as. -/
def Cells.get {w : Nat} (m : Cells w) (k : Nat) : BitVec w := (AMap.get? m k).getD 0#w

/-- Writes a cell; writing 0 removes the entry, so equal contents are equal data. -/
def Cells.set {w : Nat} (m : Cells w) (k : Nat) (v : BitVec w) : Cells w :=
  if v = 0#w then AMap.erase m k else AMap.insert m k v

/-- The canonical form: keys strictly rising and no entry equal to what an unlisted one reads as. -/
def Cells.wf {w : Nat} (m : Cells w) : Bool := AMap.sortedFrom 0 m && m.all (fun e => e.2 != 0#w)

/-- Memory: bytes by fabric physical address (R275), unlisted bytes reading 0 (log 1). -/
abbrev Memory := Cells 8

/-- The canonical form of a memory. -/
def Memory.wf (m : Memory) : Bool := Cells.wf m

/-- One byte of memory. -/
def Memory.read (m : Memory) (a : Nat) : Byte := Cells.get m a

/-- Memory with one byte written. -/
def Memory.write (m : Memory) (a : Nat) (v : Byte) : Memory := Cells.set m a v

/-- `n` bytes from an address up. -/
def Memory.readBytes (m : Memory) (a : Nat) : Nat → List Byte
  | 0 => []
  | n + 1 => m.read a :: Memory.readBytes m (a + 1) n

/-- Memory with bytes written from an address up. -/
def Memory.writeBytes (m : Memory) (a : Nat) : List Byte → Memory
  | [] => m
  | v :: vs => Memory.writeBytes (m.write a v) (a + 1) vs

/-- The number whose little-endian bytes are given (R6). -/
def natOfBytes : List Byte → Nat
  | [] => 0
  | b :: bs => b.toNat + 256 * natOfBytes bs

/-- A little-endian number of `n` bytes at an address. -/
def Memory.readNat (m : Memory) (a n : Nat) : Nat := natOfBytes (m.readBytes a n)

/-- The bytes of a number, low byte first. -/
def leBytes : Nat → Nat → List Byte
  | 0, _ => []
  | n + 1, v => BitVec.ofNat 8 v :: leBytes n (v / 256)

/-- Memory with a little-endian number of `n` bytes written. -/
def Memory.writeNat (m : Memory) (a n v : Nat) : Memory := m.writeBytes a (leBytes n v)

/-- A map of written bytes (store sets, dirty lines, Satchel lines): absence means not written. -/
abbrev ByteMap := AMap Byte

/-- Bytes written into a byte map from an address up. -/
def ByteMap.putBytes (m : ByteMap) (a : Nat) : List Byte → ByteMap
  | [] => m
  | v :: vs => ByteMap.putBytes (AMap.insert m a v) (a + 1) vs

/-- A list with the element at an index replaced by a function of it. -/
def modifyNth {α : Type} : List α → Nat → (α → α) → List α
  | [], _, _ => []
  | x :: xs, 0, f => f x :: xs
  | x :: xs, n + 1, f => x :: modifyNth xs n f

end Sys2Proof.Machine
end

