-- ==== Sys2Proof/Machine/Bits.lean ====
section
/-! DEFINITION. Plain arithmetic on words that the rules use by name: extensions, counts, bit ranges, and the CRC-32C of
R20. -/

namespace Sys2Proof.Machine

/-- Bits `lo` up, `len` of them, of a number. -/
def bits (x lo len : Nat) : Nat := x / 2 ^ lo % 2 ^ len

/-- Bit `i` of a number. -/
def bit (x i : Nat) : Bool := x / 2 ^ i % 2 == 1

/-- 1 for true, 0 for false. -/
def b2n (b : Bool) : Nat := if b then 1 else 0

/-- sx: the low `n` bits of a number as a signed integer (R8). -/
def sxNat (n x : Nat) : Int := if x % 2 ^ n < 2 ^ (n - 1) then (x % 2 ^ n : Nat) else (x % 2 ^ n : Nat) - (2 ^ n : Nat)

/-- w32 and w64 of an integer (R8). -/
def w32 (x : Int) : Word := BitVec.ofInt 32 x
def w64 (x : Int) : DWord := BitVec.ofInt 64 x

/-- The 64-bit value of a register pair (R58). -/
def pairOf (lo hi : Word) : DWord := BitVec.ofNat 64 (lo.toNat + 2 ^ 32 * hi.toNat)

/-- The halves of a 64-bit value. -/
def loWord (x : DWord) : Word := BitVec.ofNat 32 x.toNat
def hiWord (x : DWord) : Word := BitVec.ofNat 32 (x.toNat / 2 ^ 32)

/-- How many of the low `n` bits are set. -/
def popcountN : Nat → Nat → Nat
  | 0, _ => 0
  | n + 1, x => x % 2 + popcountN n (x / 2)

/-- The count of set bits of a word (R120). -/
def popcount (x : Word) : Nat := popcountN 32 x.toNat

/-- Zeros above the highest set bit among the low `n` bits. -/
def clzN : Nat → Nat → Nat
  | 0, _ => 0
  | n + 1, x => if x / 2 ^ n % 2 = 1 then 0 else 1 + clzN n x

/-- Zeros below the lowest set bit, at most `n`. -/
def ctzN : Nat → Nat → Nat
  | 0, _ => 0
  | n + 1, x => if x % 2 = 1 then 0 else 1 + ctzN n (x / 2)

/-- The low `n` bits in reversed order. -/
def brevN : Nat → Nat → Nat
  | 0, _ => 0
  | n + 1, x => x % 2 * 2 ^ n + brevN n (x / 2)

/-- The numbers of the set bits of a mask, rising. -/
def lanesOf (m : BitVec 32) : List Nat := (List.range 32).filter fun i => m.getLsbD i

/-- A mask from its set bits. -/
def maskOf (f : Nat → Bool) : BitVec 32 :=
  BitVec.ofNat 32 ((List.range 32).foldl (fun a i => if f i then a + 2 ^ i else a) 0)

/-- One step of the reflected CRC-32C over a bit (R20). -/
def crcBits : Nat → Nat → Nat
  | 0, c => c
  | n + 1, c => crcBits n (if c % 2 = 1 then (c / 2) ^^^ 0x82F63B78 else c / 2)

/-- The CRC-32C of a list of bytes (R20): Castagnoli polynomial, reflected, initial value and final XOR all ones. -/
def crc32c (bs : List Byte) : Nat :=
  (bs.foldl (fun c b => crcBits 8 (c ^^^ b.toNat)) 0xFFFFFFFF) ^^^ 0xFFFFFFFF

/-- The bytes `lo` to `lo + n - 1` of a list, missing bytes reading 0. -/
def sliceBytes (bs : List Byte) (lo n : Nat) : List Byte :=
  let r := (bs.drop lo).take n
  r ++ List.replicate (n - r.length) 0

/-- A little-endian field of a structure in memory. -/
def fieldOf (bs : List Byte) (lo n : Nat) : Nat := natOfBytes (sliceBytes bs lo n)

/-- A number is in a list. -/
def mem? (x : Nat) (l : List Nat) : Bool := l.any fun y => y == x

/-- A list with a number added at its end, if it is not there. -/
def addNew (l : List Nat) (x : Nat) : List Nat := if mem? x l then l else l ++ [x]

/-- The largest and the least of a list, with a default. -/
def maxOf (d : Nat) (l : List Nat) : Nat := l.foldl max d
def minOf? : List Nat → Option Nat
  | [] => none
  | x :: xs => some (xs.foldl min x)

end Sys2Proof.Machine
end

