-- ==== Sys2Proof/Machine/State.lean ====
section
/-! DEFINITION. The state of a Q8 package with the memory nodes of its fabric group, as plain data: everything the spec
gives the machine (INVENTORY.md, '## State'), the outcomes a step can stop with, and the machine right after reset. -/

namespace Sys2Proof.Machine

/-- Where the machine stops for good. -/
inductive Fault where
  /-- Raised by `step` once boot verification has failed: R41 gives the package no step but a reset (log 6). Safe. -/
  | bootHalted (code : BitVec 8)
  deriving DecidableEq, Repr

/-- Why a step has no meaning. -/
inductive Refusal where
  /-- The instruction's meaning has not been written. Safe: nothing can be proved of its effect. -/
  | notModelled (mnemonic : String)
  deriving DecidableEq, Repr

/-- The clause a path is inside of: its header's address, its flags, and its words from the path's PC on, as they were read
and checked when the clause started (R47, R51, R226, log 13). -/
structure Clause where
  header : DWord
  seta : Nat
  setb : Nat
  words : List Word
  deriving DecidableEq, Repr

/-- An entry of the divergence stack (R87, R226). `clause` is none in header position. `stopped` is set while forced
reconvergence holds the path, with the order in which it stopped; `go` says that its word may issue (R230). `tried` says that the
word at the PC has been issued before and has not gone on: it stalls (R349); `told` that the wait has been reported (R254). -/
structure Entry where
  pc : DWord
  mask : BitVec 32
  rpc : Option DWord
  fmt : Word
  clause : Option Clause
  stopped : Option Nat
  go : Bool
  tried : Bool
  told : Bool
  deriving DecidableEq, Repr

/-- What a pending class V result waits for: nothing any more, remote accesses, or a Press operation (R48, R173, R195). -/
inductive PendWait where
  | ready
  | flits (ids : List Nat)
  | press (id : Nat)
  deriving DecidableEq, Repr

/-- An issued class V instruction that has not completed (R48, R53): the flag that covers it, the registers it writes
(physical number, lanes, values), and the arithmetic flags it raises. -/
structure Pending where
  id : Nat
  flag : Nat
  vwrites : List (Nat × BitVec 32 × List Word)
  uwrites : List (Nat × Word)
  aflags : BitVec 5
  floating : Bool
  wait : PendWait
  deriving DecidableEq, Repr

/-- The hidden trap state of a party (R340). -/
structure TrapState where
  depth : Nat
  clause : Option Clause
  addr : DWord
  mask : Bool
  deriving DecidableEq, Repr

/-- What an agent's accesses come after (R245): every write that had come to its home by the step `upto`, and the writes with these
numbers (first, past-last), some of which may still be on their way. -/
structure Seen where
  upto : Nat
  ids : List (Nat × Nat)
  deriving DecidableEq, Repr

/-- A store that has not reached its home (R168, R277): its bytes there, the first one's virtual address and its context, which a
digest folds by (R266), its number, and what it comes after (R245, R246). -/
structure Store where
  bytes : AMap Byte
  va : Nat
  ctx : Nat
  id : Nat
  after : Seen
  deriving DecidableEq, Repr

/-- Why a party issues nothing (R225). AWAITC and BWAIT keep the operands they issued with (R53). -/
inductive Hold where
  | free
  | yield
  | await
  | awaitc (addr threshold : DWord)
  | bwait (n : Word)
  | bar (id : Nat)
  | pbar (slot : Nat)
  | rendezvous
  | ppt (tv tu tc : Word)
  | walk (pages : List Nat)
  | fault (pages : List Nat)
  deriving DecidableEq, Repr

/-- A batch (R107 to R109): its number, its operations still in progress, whether it has held any, whether one of them
ended with an error, and what those that have ended wrote and came after (R245). -/
structure Batch where
  no : Word
  ops : List Nat
  used : Bool
  err : Bool
  seen : Seen
  deriving DecidableEq, Repr

/-- A party (R55 to R68, R107 to R109). `known` holds the bytes of a DET troupe's store set that are ordered before the party's next
word, by their own writing or by a barrier, each with the step it was written in: what its spawns carry (R103). Registers are held by physical number; an absent row reads 0 in every lane.
`gangMask` is the mask its last GANG was made under, which a rendezvous compares (R190). `storing` holds the lanes of a
stalled store that are still to be performed, by lane and address, as they were read when it issued: a contribution store is held lane by
lane (R53, R330). `seen` is what its next access comes
after, and `finished` the batches that are complete and that no BWAIT has awaited yet, with what they carry (R245). -/
structure Party where
  stack : List Entry
  v : AMap (List Word)
  u : Cells 32
  preds : List (BitVec 32)
  q : BitVec 8
  vwb : Word
  swb : Word
  ix : List (BitVec 9)
  lnk : DWord
  gang : Word
  gangMask : Word
  aflags : BitVec 5
  tmask : Word
  tcause : Word
  xpc : DWord
  cf : List Nat
  pend : List Pending
  ts : Option TrapState
  hold : Hold
  spawnSeq : Nat
  openBatch : Batch
  closed : List Batch
  batchErr : Bool
  storing : List (Nat × Nat × List Byte)
  known : AMap (Nat × Byte)
  seen : Seen
  finished : List (Word × Seen)
  vdirty : BitVec 32
  udirty : BitVec 32
  cancelled : List Nat
  ended : Bool
  deriving DecidableEq, Repr

/-- A code descriptor as the spawn read it (R217). -/
structure Descriptor where
  entry : DWord
  trap : DWord
  scratch : Nat
  parties : Nat
  vregs : Nat
  uregs : Nat
  stage : Nat
  ord : Bool
  nd : Bool
  det : Bool
  ranges : List (DWord × Nat)
  deriving DecidableEq, Repr

/-- The parent of a task: a task of the same context, or a root range (R216). -/
inductive Parent where
  | task (id : Nat)
  | root (id : Nat)
  deriving DecidableEq, Repr

/-- Where a task stands (R104, R224, R347). -/
inductive Phase where
  | running
  | parked
  | resuming
  | out (image : Nat)
  deriving DecidableEq, Repr

/-- One buffered step of a DET task's atomic (R174, R239): address, code, the operand or pre-summed operand, and the
sort key: the child indices are compared at each join, `seq` counts the task's atomics in program order. `fpa` is the byte of
the page's frame, which tells addresses apart. -/
structure AtomStep where
  va : DWord
  fpa : Nat
  op : Nat
  args : List DWord
  party : Nat
  seq : Nat
  lane : Nat
  deriving DecidableEq, Repr

/-- What a finished child leaves for the join of its frame and for its ordered successor (R239, R250, R264, R105). Store sets
are held by the byte of the page's frame, so that every mapping of it sees them (R249); `tags` tells which store wrote a byte (R246),
and `pages` gives the page of virtual addresses through which each 64 KiB of frames was first stored to. `seen` is what comes before
the child's completion (R245). -/
structure KidResult where
  cidx : DWord
  failed : Bool
  det : Bool
  storeSet : AMap Byte
  tags : AMap Nat
  pages : AMap Nat
  received : AMap Byte
  steps : List AtomStep
  summary : List (Nat × Nat)
  seen : Seen
  deriving DecidableEq, Repr

/-- The join record of a frame (R255): what is left to write, line by line and store by store, and to apply at homes, the pages of
virtual addresses through which it goes, the lines it has reached, whether it waits on the fault queue, and what it comes after with
what it has written (R251). `started` says that its record has its place in the context's carve-out (R270, R272). -/
structure Join where
  lines : List (List (AMap Byte))
  steps : List AtomStep
  pages : AMap Nat
  summary : List (Nat × Nat)
  seen : Seen
  started : Bool
  blocked : Bool
  deriving DecidableEq, Repr

/-- A barrier in use (R110, R232): ids 0 to 15 are BAR's; 16 and 17 hold the arrivals at AWAIT and AWAITP (R104, R105). -/
structure Barrier where
  id : Nat
  mask : Word
  arrived : List Nat
  deriving DecidableEq, Repr

/-- A member's arrival at a gang's rendezvous (R190); `own` is what the joint operation reads of a DET task's own bytes, for member 0
(R257, R311), and `seen` what that comes after. -/
structure Arrival where
  party : Nat
  tile : Nat
  pair : Nat
  mask : Word
  view : List Word
  bregs : List (List Word)
  fmt : Word
  own : AMap Byte
  seen : Seen
  deriving DecidableEq, Repr

/-- A write to a task's own frame that has not been made yet (R221): its image with a STATUS, or the counts of its failed children. -/
inductive FrameWrite where
  | image (status : Nat)
  | counts
  deriving DecidableEq, Repr

/-- A resident, parked or switched-out task with its troupe (R215 to R224). `joinWait` says that a join is in progress, and
`joining` holds it until the AWAIT goes on; `frameWait` is the write to its frame that waits for a page or a home; `imageLost` that the write of a failed task's frame was cancelled, `tilesSaved` that the
Porter has saved and freed its bound tiles (R317). `wset` holds the ranges of lines it and its
joined children have written, by first and past-last line (R264), `opSeen` what its ended operations wrote and came after (R245). -/
structure Task where
  desc : Descriptor
  wrt : DWord
  ctx : Nat
  prio : Nat
  die : Nat
  core : Nat
  quad : Nat
  det : Bool
  nd : Bool
  ord : Bool
  stage : Nat
  parent : Parent
  cidx : DWord
  frame : DWord
  slot : Nat
  phase : Phase
  failed : Bool
  pendingKids : Nat
  nfail : Nat
  fcidx : DWord
  cont : DWord
  parties : List Party
  scratch : Cells 8
  scratchDirty : List Nat
  scratchPoison : List Nat
  scratchBad : List Nat
  barriers : List Barrier
  latches : List (List Arrival)
  storeSet : AMap Byte
  storeTags : AMap Nat
  storePages : AMap Nat
  received : AMap Byte
  steps : List AtomStep
  atomSeq : Nat
  kids : List KidResult
  wset : List (Nat × Nat)
  opSeen : Seen
  tiles : List (Nat × Cells 32)
  tilesSaved : Bool
  joinWait : Bool
  joining : Option Join
  frameWait : Option FrameWrite
  imageLost : Bool
  held : Bool
  deriving DecidableEq, Repr

/-- The unstarted children of an item (R235): the lanes of a SPAWN with their arguments, or a range of indices. -/
inductive Kids where
  | lanes (l : List (Nat × DWord))
  | range (next step count : Nat) (arg : DWord)
  deriving DecidableEq, Repr

/-- An item of a deque or die queue (R102, R235). `base` is what a DET spawner's own bytes were at the spawn (R103); `told` says
that its next child's wait for a frame has been reported (R102); `seen` is what the children's accesses come after (R103). -/
structure Item where
  kids : Kids
  desc : Descriptor
  wrt : DWord
  fmt : Word
  parent : Parent
  party : Nat
  seq : Nat
  ctx : Nat
  prio : Nat
  det : Bool
  nd : Bool
  ord : Bool
  stage : Nat
  base : AMap Byte
  seen : Seen
  told : Bool
  deriving DecidableEq, Repr

/-- The memory type of a page (R167). -/
inductive PageType where
  | normal
  | wcomb
  | device
  | strong
  deriving DecidableEq, Repr

/-- The home kind of a page (R277). -/
inductive HomeKind where
  | core
  | slice
  | cached
  | nocache
  deriving DecidableEq, Repr

/-- A leaf of the page tables: the page's size and the fields of R274. -/
structure Leaf where
  size : Nat
  frame : Nat
  r : Bool
  w : Bool
  x : Bool
  home : HomeKind
  typ : PageType
  shadow : Bool
  contrib : Bool
  op : Nat
  format : Nat
  slot : Nat
  chunk : Nat
  rtoff : Nat
  deriving DecidableEq, Repr

/-- A TLB entry (R280): a context, the page's first virtual address, and its leaf. -/
structure TlbEntry where
  ctx : Nat
  va : Nat
  leaf : Leaf
  deriving DecidableEq, Repr

/-- An entry of a die's walk cache (R280): a pointer that a walk of a context has read, by the level of its table and the
bits of the virtual address that lead to it. -/
structure PointerEntry where
  ctx : Nat
  level : Nat
  key : Nat
  value : Nat
  deriving DecidableEq, Repr

/-- Who waits for a translation (R280, R283): `range` is a party's CWB or CINV, which takes the pages of its range one by one. -/
inductive Waiter where
  | party (task party : Nat)
  | range (task party : Nat)
  | op (id : Nat)
  | queue (q : Nat)
  | join (task : Nat)
  | image (task : Nat)
  | root (id : Nat) (merge : Bool)
  deriving DecidableEq, Repr

/-- A walk in flight or queued on a die (R280), or a miss that waits for room in the fault queue, with the level it met
(R283). -/
structure Walk where
  ctx : Nat
  page : Nat
  va : Nat
  access : Nat
  level : Nat
  waiters : List Waiter
  deriving DecidableEq, Repr

/-- An open record of a die's fault queue (R283). -/
structure FaultRec where
  id : Nat
  ctx : Nat
  page : Nat
  waiters : List Waiter
  deriving DecidableEq, Repr

/-- A line of a core's Satchel (R168): the stores that it has gathered, oldest first, the parties that stored into it, and its virtual address, the
context and the frame of the first store, which an event names (R344). -/
structure SatchelLine where
  line : Nat
  va : Nat
  ctx : Nat
  frame : DWord
  stores : List Store
  parties : List (Nat × Nat)
  deriving DecidableEq, Repr

/-- Why a core is asked to switch out (R345). -/
inductive Cause where
  | suspend
  | priority (prio : Nat)
  | progress (parent : Parent)
  deriving DecidableEq, Repr

/-- A resumption in a die's queue (R224, R235, R346): a parked troupe's, or a switched-out image's. -/
inductive Resumption where
  | troupe (task : Nat)
  | image (id : Nat)
  deriving DecidableEq, Repr

/-- A core (R222, R235, R277, R280, R345, R347). `stores` are those whose bytes are dirty in its L1, oldest first. The clean copies that its L1 may hold are told by when they were last dropped:
`floor` for every line, `floors` for ranges of lines (first, past-last, when), each a count of steps. A copy that it may hold
of a line is any value the line's home has had since then (R246, R264, log 73). `requests` are the causes that ask it to switch out, by the switch-out
mode at the last of them (R208, R345); its shadow bank holds an image being spilled, or one filled for a restoration (R347). -/
structure Core where
  stores : List Store
  floor : Nat
  floors : List (Nat × Nat × Nat)
  satchel : List SatchelLine
  deque : List Item
  tlb : List TlbEntry
  requests : List Cause
  mode : Nat
  expired : Bool
  spill : Option Nat
  fill : Option Nat
  deriving DecidableEq, Repr

/-- A switched-out core image (R347, R352): its context, its tasks, the mode it was switched out in, and what its spill wrote
(R348): banks by task, party, whether uniform, and number; scratch lines by task and number. -/
structure Image where
  ctx : Nat
  die : Nat
  core : Nat
  tasks : List Nat
  mode : Nat
  ready : Bool
  banks : List (Nat × Nat × Bool × Nat)
  lines : List (Nat × Nat)
  deriving DecidableEq, Repr

/-- Who issued an engine operation: a party of a task (its frame recorded at issue), a queue's packet, the Vat for a
complete contribution round, or a message from the network (R257, R25, R329, R391). -/
inductive OpSource where
  | party (task : Nat)
  | queue (q : Nat) (seq : Nat)
  | vat
  | network
  deriving DecidableEq, Repr

/-- An operation in a Press queue (R190 to R195). `mma` carries the operands of its members, decoded at issue. -/
inductive PressWork where
  | zero
  | lda (addr : DWord) (pitch : Nat)
  | sta (addr : DWord) (pitch : Nat)
  | staq (fmt : Nat) (view : List Word) (fmtReg : Word)
  | scale (s : Word)
  | mma (pair : Nat) (view : List Word) (fmtReg : Word) (quarters : List (List Word × List Word × Word))
  | rda (row half : Nat) (mask : BitVec 32) (party pend : Nat)
  deriving DecidableEq, Repr

/-- A Courier operation's kind and descriptor (R198), its slot's definition at acceptance, and its progress (R323): whether
its source has been read and its data has begun to move, what is staged in the Vat with its poisoned runs (the staged
piece, first byte, length), the chunks received, and by chunk and segment what has been written to DST, which steps have been
formed, which a break has cut off in flight, and which a wrap has aborted (R333); `railed` says that it has sent a segment over the rails
(R325); `failAddr` is where a write to DST or a counter met a fault (log 16). -/
structure CourierWork where
  kind : Nat
  src : DWord
  dst : DWord
  chunk : Nat
  stage : Nat
  op : Nat
  format : Nat
  ring : Nat
  slot : Nat
  actr : DWord
  defn : List Word
  rank : Nat
  order : Nat
  step : Nat
  partials : AMap (List Byte)
  poison : List (Nat × Nat × Nat)
  got : List Nat
  segs : List (Nat × Nat)
  formed : List (Nat × Nat)
  cut : List (Nat × Nat)
  aborted : List (Nat × Nat)
  railed : Bool
  error : Nat
  failAddr : DWord
  deriving DecidableEq, Repr

/-- A network work request (R202), as sixteen words: its peer, its first PSN, how many packets it sends, which of them are
acknowledged, which responses of a READ have been placed, and those that have come and have not (R387). What answers a peer's READ goes to
that peer's address and names its message (R374). -/
structure NetWork where
  words : List Word
  peer : Nat
  reply : Option (BitVec 128 × Nat)
  base : Nat
  count : Nat
  acked : List Nat
  got : List Nat
  held : List NetPacket
  deriving DecidableEq, Repr

/-- What an engine operation does. A COMB whose contribution waits at its node holds it (R370). An STM that has reached its node holds its members, those whose branches have delivered or failed,
and the lines that have gone to members, by member and line (R369). -/
inductive OpKind where
  | acp (src dst : DWord) (bytes rows spitch dpitch : Nat) (ctr : DWord) (add : Nat)
  | stm (src dst : DWord) (bytes : Nat) (rcoff : Nat) (lctr : DWord) (members : List Nat) (started : Bool)
      (delivered failed : List Nat) (gone : List (Nat × Nat)) (data : List Byte) (poison : List Nat)
  | comb (src dst : DWord) (bytes op gsm1 rank tag olen : Nat) (sent : Option Contribution)
  | press (tile : Nat) (w : PressWork)
  | courier (w : CourierWork)
  | net (w : NetWork)
  | recv (ip : BitVec 128) (msg : Nat) (placed : List Nat) (slot : Option Nat) (held : List NetPacket)
  | qcopy (src dst : DWord) (bytes : Nat) (ctr : DWord) (add : Nat) (payload : Option (List Byte))
  | qfill (dst : DWord) (bytes : Nat) (value : Word) (ctr : DWord) (add : Nat)
  | qwrite (dst : DWord) (value : DWord)
  | qlaunch (desc frame args : DWord) (count : Nat) (ctr : DWord) (add dies lflags : Nat)
  | round (fpa : Nat)
  deriving DecidableEq, Repr

/-- An engine operation in progress (R257): how far it has come in its byte order, what a DET issuer's own bytes were at
issue, what it comes after with what it has written (R245), the shadow frames it has written with their sizes and dies (R258), whether it
met poison, the addresses whose pages it waits for, the translations that walks have brought it, with the die that walked (R280), the lines it has
written (R264), those that its publication adds to the digest's lines (R266), and the source lines of DEVICE and STRONG pages that a copy
has read, once (R176). -/
structure Op where
  kind : OpKind
  source : OpSource
  ctx : Nat
  die : Nat
  core : Nat
  frame : DWord
  progress : Nat
  own : AMap Byte
  seen : Seen
  twins : List (Nat × Nat × Nat)
  poisoned : Bool
  waiting : List Nat
  walked : List (Nat × TlbEntry)
  wset : List (Nat × Nat)
  noted : List (Nat × Nat)
  lines : AMap (List Byte × Bool)
  deriving DecidableEq, Repr

/-- What a flit performs at its home (R363): the bytes of a Satchel line, or an atomic step with the lanes whose old
values return. -/
inductive FlitWork where
  | line (stores : List Store)
  | atom (op : Nat) (lanes : List (Nat × List DWord)) (pend : Option Nat)
  deriving DecidableEq, Repr

/-- A remote access on its way (R363, R366): its address, physical and virtual, the frame of its issuer, the core and parties
it comes from, the number of a step's write and what it comes after, and how far it has come. `sure` marks an ATOM's step, which was decided at issue to be
performed, so that INT is exact (R162, R364, log 62). -/
structure Flit where
  fpa : Nat
  va : Nat
  frame : DWord
  work : FlitWork
  die : Nat
  core : Nat
  ctx : Nat
  who : List (Nat × Nat)
  write : Nat
  after : Seen
  sure : Bool
  custody : Bool
  performed : Bool
  failed : Bool
  olds : List (Nat × DWord)
  deriving DecidableEq, Repr

/-- A transfer on a ring, or over a rail to another package (R319, R320, R325): the operation that sent it, where it goes,
which collective, phase, chunk and segment it belongs to (R323), its poisoned runs, and the check values that a rail carries
(R197). -/
structure Xfer where
  op : Nat
  src : Nat
  dst : Nat
  ctx : Nat
  slot : Nat
  order : Nat
  ring : Nat
  phase : Nat
  chunk : Nat
  seg : Nat
  check : BitVec 64
  data : List Byte
  poison : List (Nat × Nat)
  rail : Bool
  deriving DecidableEq, Repr

/-- A packet sent and not acknowledged (R375). -/
structure OutPacket where
  psn : Nat
  op : Nat
  index : Nat
  sends : Nat
  higher : List Nat
  due : Bool
  deriving DecidableEq, Repr

/-- What the network engine keeps for a peer (R374, R375, R204): `reported` are the PSNs that its SACKs have named. -/
structure Peer where
  nextPsn : Nat
  out : List OutPacket
  reported : List Nat
  retrans : Nat
  lastErr : Nat
  deriving DecidableEq, Repr

/-- What a die's port puts on the network: a packet to a peer's address and next hop, with its entropy, a READ's response among them
(R374, R381, R387); a selective acknowledgement (R375); a refusal (R390). -/
inductive WireItem where
  | packet (ip : BitVec 128) (hop entropy : Nat) (p : NetPacket)
  | sack (ip : BitVec 128) (psns : List Nat)
  | nak (ip : BitVec 128) (psn : Nat)
  deriving DecidableEq, Repr

/-- A die's network engine (R380, R384): what it has received by sender and PSN (R375), ROD packets beyond a gap, the
RUDI messages that have been placed whole once (R386), the RUD messages that are complete and not yet counted, in the order in which they
became so (R376), and what has left by its port, the newest last (log 81). -/
structure NetEngine where
  cfg : DWord
  ipl : DWord
  iph : DWord
  peerBase : DWord
  regnBase : DWord
  railBase : DWord
  up : Bool
  lastErr : Nat
  retrans : Nat
  peers : AMap Peer
  seen : List (BitVec 128 × Nat)
  held : List NetPacket
  placedOnce : List (BitVec 128 × Nat)
  whole : List Nat
  lastPeer : Nat
  wire : List WireItem
  deriving DecidableEq, Repr

/-- A contribution round of the Vat (R329): the chunk's first address, where its result and its counter go, the size of
the chunk, how it is summed, and each logical rank's bytes. -/
structure Round where
  ctx : Nat
  fpa : Nat
  twin : Nat
  ctr : Nat
  size : Nat
  op : Nat
  format : Nat
  ranks : Nat
  bytes : AMap (AMap Byte)
  deriving DecidableEq, Repr

/-- A group slot's definition, the eight words of CGRP (R196), its Courier status (R201), how many collectives its die has
accepted under each definition (R197, log 82), those that have already ended with an error elsewhere, by definition, number and code, and the
check values of the definitions whose group holds a failed die of another package (R334). -/
structure Slot where
  words : List Word
  lastErr : Nat
  counts : List (List Word × Nat)
  ended : List (List Word × Nat × Nat)
  dead : List Nat
  deriving DecidableEq, Repr

/-- A group barrier's arrivals on this package (R111): the rank's EXPECT, its parties' arrivals, and whether the rank
has arrived. -/
structure GroupBar where
  ctx : Nat
  slot : Nat
  die : Nat
  expect : Nat
  waiting : List (Nat × Nat)
  deriving DecidableEq, Repr

/-- A Press queue (R192): its gang or party of a task, and the operations in it, oldest first. -/
structure PressQueue where
  task : Nat
  key : Nat
  cluster : Nat
  ops : List Nat
  deriving DecidableEq, Repr

/-- A die (R235, R280, R283, R343, R192, R201, R204, R329, R331). `rails` holds the rail packets that have come before the die's
own operation of their collective (R392), `stalled` the walks that wait for room in the walker's queue, and `agents` the translations that
walks have brought to agents without a TLB (R280). -/
structure Die where
  queue : List Item
  resumes : List Resumption
  clusterTlb : AMap (List TlbEntry)
  walks : List Walk
  stalled : List Walk
  agents : List (Waiter × TlbEntry)
  fqBase : DWord
  fqHead : Word
  fqTail : Word
  faults : List FaultRec
  fqWaiting : List Walk
  eqBase : DWord
  eqHead : Word
  eqTail : Word
  eqLost : Word
  lostBefore : Bool
  mhz : Nat
  slots : AMap Slot
  replays : Nat
  pressQueues : List PressQueue
  pressLast : AMap Nat
  rounds : List Round
  rails : List NetPacket
  net : NetEngine
  sel : List (Nat × Nat)
  walkCache : List PointerEntry
  failed : Bool
  detected : Bool
  deriving DecidableEq, Repr

/-- A context (R271, R272, R346, R208, R266, R267). `silent` names the boundaries whose partner's silence has been reported. -/
structure Ctx where
  ctxpt : DWord
  sup : Bool
  hidb : DWord
  hids : DWord
  fpool : DWord
  fpn : DWord
  asl : DWord
  suspend : Bool
  mode : Nat
  pctx : Nat
  ppkg : Nat
  held : Bool
  mismatch : Bool
  enable : Bool
  boundaries : Nat
  digest : DWord
  lines : List (Nat × Nat)
  localDigests : AMap DWord
  partnerDigests : AMap DWord
  silent : List Nat
  deriving DecidableEq, Repr

/-- The state of a host queue (R16, R18). -/
inductive QState where
  | stopped
  | running
  | fence
  | refetch
  | error
  | draining
  deriving DecidableEq, Repr

/-- A fetched head packet that has passed its check (R27): its 64 bytes, the payload bytes whose check passed, and whether
no payload check is outstanding (R28). -/
structure Fetched where
  bytes : List Byte
  payload : Option (List Byte)
  checked : Bool
  deriving DecidableEq, Repr

/-- A host queue (R15 to R19). `head` and the sequence numbers are full 32-bit ones, `tail` is modulo 65,536. `fails` counts
the failed fetches of the head; `fence` holds an accepted QFENCE's sequence number and its unmet pairs; `resumed` says that
RESUME took the queue to FENCE (R19); `waiting` holds the pages that the front end waits for. -/
structure Queue where
  desca : DWord
  enable : Bool
  state : QState
  err : Nat
  head : Nat
  tail : Nat
  inflight : Nat
  ring : Nat
  gb : Nat
  logsz : Nat
  prio : Nat
  ctx : Nat
  fetched : Option Fetched
  fails : Nat
  fence : Option (Nat × List (DWord × Nat))
  resumed : Bool
  waiting : List Nat
  deriving DecidableEq, Repr

/-- A root range (R25, R221, R395): its join is in progress or done, and its frame's completion is written. -/
structure Root where
  ctx : Nat
  frame : DWord
  count : Nat
  pending : Nat
  nfail : Nat
  fcidx : DWord
  ctr : DWord
  add : Nat
  queue : Nat
  seq : Nat
  wrt : DWord
  flags : Nat
  ord : Bool
  kids : List KidResult
  joining : Option Join
  joined : Bool
  written : Bool
  deriving DecidableEq, Repr

/-- A combining instance of a memory node (R370). -/
structure Instance where
  node : Nat
  parts : List Contribution
  deriving DecidableEq, Repr

/-- A write that has come to its home (R246): the bytes that stood there before, the step in which it came, its number, and what it
comes after itself. -/
structure PastWrite where
  old : AMap Byte
  upto : Nat
  id : Nat
  after : Seen
  deriving DecidableEq, Repr

/-- A write of the host or of a peer to a shadow page with a pending twin, held until the publish (R258). -/
inductive HeldWrite where
  | host (fpa : Nat) (data : List Byte)
  | peer (fpa : Nat) (acc : PeerAccess)
  deriving DecidableEq, Repr

/-- The answer to a peer's load or atomic (R365): where it acted, its bytes, or an atomic's old values, and whether the line was
poisoned. -/
structure PeerAnswer where
  fpa : Nat
  bytes : List Byte
  poisoned : Bool
  deriving DecidableEq, Repr

/-- A turn of the agenda (log 2): an event, the issue of a party's next word, the Porter's fill of a core's shadow bank with an
image (R347), the next line or step of a frame's join (R255), the release of a group barrier that this package holds whole (R111), or
what a cache does on its own: a store that is still dirty goes home, a core's and its cluster's TLBs lose a page (R246, R277, R281). -/
inductive Turn where
  | ev (i : Instr)
  | issue (task party : Nat)
  | fill (die core id : Nat)
  | merge (p : Parent)
  | release (ctx slot : Nat)
  | evict (die core fpa : Nat)
  | dropPage (die core ctx va : Nat)
  deriving DecidableEq, Repr

/-- What a host read returned last (R263): its bytes, or none where the address is invalid, and whether it was
poisoned. -/
structure HostRead where
  bytes : List Byte
  invalid : Bool
  poisoned : Bool
  deriving DecidableEq, Repr

/-- The firmware image that the boot ROMs verify (R41): whether it can be read and its signature verifies, its security version, and
the digest that each die finds. -/
structure Firmware where
  readable : Bool
  signed : Bool
  version : Nat
  digests : List (BitVec 256)
  deriving DecidableEq, Repr

/-- The machine. `aer` counts the non-fatal errors that the link has reported (R40), `cxlSteps` is the size of the CXL.mem window in
256 MiB steps (R39), `fuses` the monotonic counters of the dies (R41). `attHeld` is the attestation request as it was read when GO was written (R40). `past` is what homes have
received, the newest first, `writes` the number of the next write, and `homeFloors` the lines that CWB, CINV.W or CXL.mem has brought
home, with the step (R178, R39): a read at such a home finds nothing older. `answers` are what peers' accesses have been answered with,
the newest last (R365). `lateRecs` are the completions (queue, sequence number, code) whose Guestbook line lies on a die that does not
answer (R331). -/
structure State where
  mem : Memory
  past : List PastWrite
  writes : Nat
  homeFloors : List (Nat × Nat × Nat)
  poison : List Nat
  badCheck : List Nat
  heldWrites : List HeldWrite
  tasks : AMap Task
  roots : AMap Root
  ops : AMap Op
  flits : AMap Flit
  xfers : AMap Xfer
  images : AMap Image
  dies : AMap Die
  cores : AMap Core
  ctxs : AMap Ctx
  queues : AMap Queue
  groupBars : List GroupBar
  instances : List Instance
  stage : Nat
  code : BitVec 8
  winsel : DWord
  attStatus : Nat
  attHeld : List Byte
  attreq : Cells 8
  attrsp : Cells 8
  fabcfg : DWord
  portUp : BitVec 32
  farDown : List (Nat × Nat)
  wrapped : Bool
  path : List Nat
  wrapNext : Option (List (Nat × Nat) × List Nat)
  deadMask : BitVec 8
  lateRecs : List (Nat × Nat × Nat)
  lastQueue : AMap Nat
  vectors : List Nat
  hostRead : Option HostRead
  answers : List PeerAnswer
  aer : Nat
  cxlSteps : Nat
  firmware : Firmware
  fuses : AMap Nat
  agenda : List Turn
  cur : Option (Nat × Nat)
  fresh : Nat
  nextId : Nat
  ticks : Nat
  time : DWord
  deriving DecidableEq, Repr

/-- Nothing comes before (R245). -/
def Seen.none : Seen := { upto := 0, ids := [] }

/-- A core with nothing in it (R222, R235). -/
def Core.empty : Core :=
  { stores := [], floor := 0, floors := [], satchel := [], deque := [], tlb := [], requests := [], mode := 0, expired := false, spill := none,
    fill := none }

/-- A network engine at reset (R380; the port's state at reset is log 24). -/
def NetEngine.reset : NetEngine :=
  { cfg := 0, ipl := 0, iph := 0, peerBase := 0, regnBase := 0, railBase := 0, up := false, lastErr := 0, retrans := 0,
    peers := [], seen := [], held := [], placedOnce := [], whole := [], lastPeer := 0, wire := [] }

/-- A die at reset (R40, R278, R283, R343). -/
def Die.reset : Die :=
  { queue := [], resumes := [], clusterTlb := [], walks := [], stalled := [], agents := [], fqBase := 0, fqHead := 0, fqTail := 0,
    faults := [], fqWaiting := [], eqBase := 0, eqHead := 0, eqTail := 0, eqLost := 0, lostBefore := false,
    mhz := 1050, slots := [], replays := 0, pressQueues := [], pressLast := [], rounds := [], rails := [], net := NetEngine.reset,
    sel := [], walkCache := [], failed := false, detected := false }

/-- A context at reset (R271, R272, R346, R267; its switch-out mode is log 21). -/
def Ctx.reset : Ctx :=
  { ctxpt := 0, sup := false, hidb := 0, hids := 0, fpool := 0, fpn := 0, asl := 0, suspend := false, mode := 0,
    pctx := 0, ppkg := 0, held := false, mismatch := false, enable := false, boundaries := 0, digest := 0, lines := [],
    localDigests := [], partnerDigests := [], silent := [] }

/-- A host queue at reset (R16). -/
def Queue.reset : Queue :=
  { desca := 0, enable := false, state := .stopped, err := 0, head := 0, tail := 0, inflight := 0, ring := 0, gb := 0,
    logsz := 0, prio := 0, ctx := 0, fetched := none, fails := 0, fence := none, resumed := false, waiting := [] }

/-- The image as it is delivered: in order, its version the release's (log 23, log 84). -/
def Firmware.reset : Firmware := { readable := true, signed := true, version := Config.securityVersion.toNat, digests := List.replicate 8 Config.firmwareDigest }

/-- The machine right after reset: every register at the value the spec states, nothing listed in memory (R40, R41). -/
def State.reset : State :=
  { mem := [], past := [], writes := 0, homeFloors := [], poison := [], badCheck := [], heldWrites := [], tasks := [], roots := [], ops := [], flits := [], xfers := [],
    images := [], dies := [], cores := [], ctxs := [], queues := [], groupBars := [], instances := [], stage := 0,
    code := 0, winsel := 0, attStatus := 0, attHeld := [], attreq := [], attrsp := [], fabcfg := 0, portUp := 0, farDown := [], wrapped := false,
    path := [], wrapNext := none, deadMask := 0, lateRecs := [], lastQueue := [], vectors := [], hostRead := none, answers := [],
    aer := 0, cxlSteps := 0, firmware := Firmware.reset, fuses := [], agenda := [], cur := none,
    fresh := 0, nextId := 0, ticks := 0, time := 0 }

end Sys2Proof.Machine
end

