-- ==== Sys2Proof/Machine/Ops.lean ====
section
/-! DEFINITION. The named operations every meaning is built from: finding and storing the parts of the machine, raising
events (R343, R344), taking a trap and returning from one (R340, R341, R97), failing a task (R212), and the ways out of the package that
an address or a record may take (R361 to R368). -/

namespace Sys2Proof.Machine

/-- The outcome of a meaning. -/
abbrev Out := Host.Outcome State Fault Refusal

/-! ## Parts of the machine -/

/-- A die, as at reset where nothing has changed it. -/
def State.die (s : State) (d : Nat) : Die := s.dies.getD d Die.reset

/-- The machine with a die stored. -/
def State.putDie (s : State) (d : Nat) (x : Die) : State := { s with dies := s.dies.insert d x }

/-- The key of a core of a die (R215: 96 cores). -/
def coreKey (d c : Nat) : Nat := d * 96 + c

/-- An operation at its issue, after `seen`: nothing read, written or awaited. -/
def Op.start (kind : OpKind) (source : OpSource) (ctx die core : Nat) (frame : DWord) (seen : Seen) : Op :=
  { kind := kind, source := source, ctx := ctx, die := die, core := core, frame := frame, progress := 0, own := [], seen := seen
    twins := [], poisoned := false, waiting := [], walked := [], wset := [], noted := [], lines := [] }

/-- A core of a die. -/
def State.core (s : State) (d c : Nat) : Core := s.cores.getD (coreKey d c) Core.empty

/-- The machine with a core stored. -/
def State.putCore (s : State) (d c : Nat) (x : Core) : State := { s with cores := s.cores.insert (coreKey d c) x }

/-- A context. -/
def State.ctx (s : State) (c : Nat) : Ctx := s.ctxs.getD c Ctx.reset

/-- The machine with a context stored. -/
def State.putCtx (s : State) (c : Nat) (x : Ctx) : State := { s with ctxs := s.ctxs.insert c x }

/-- A host queue. -/
def State.queue (s : State) (q : Nat) : Queue := s.queues.getD q Queue.reset

/-- The machine with a queue stored. -/
def State.putQueue (s : State) (q : Nat) (x : Queue) : State := { s with queues := s.queues.insert q x }

/-- A task, if there is one of that number. -/
def State.task? (s : State) (t : Nat) : Option Task := s.tasks.get? t

/-- The machine with a task stored. -/
def State.putTask (s : State) (t : Nat) (x : Task) : State := { s with tasks := s.tasks.insert t x }

/-- The machine with a task changed by a function, if it is there. -/
def State.modTask (s : State) (t : Nat) (f : Task → Task) : State := { s with tasks := s.tasks.modify t f }

/-- A task with one party replaced. -/
def Task.putParty (t : Task) (i : Nat) (p : Party) : Task := { t with parties := t.parties.set i p }

/-- A party of a task. -/
def State.party? (s : State) (t i : Nat) : Option Party := (s.task? t).bind fun x => x.parties[i]?

/-- The machine with a party stored. -/
def State.putParty (s : State) (t i : Nat) (p : Party) : State := s.modTask t fun x => x.putParty i p

/-- The machine with a party changed by a function. -/
def State.modParty (s : State) (t i : Nat) (f : Party → Party) : State :=
  match s.party? t i with
  | some p => s.putParty t i (f p)
  | none => s

/-- A cluster's number from its core's (R62). -/
def clusterOf (core : Nat) : Nat := core / 4

/-- A number no task, operation, flit, transfer or image has borne (log 5). -/
def State.newId (s : State) : Nat × State := (s.nextId, { s with nextId := s.nextId + 1 })

/-- The lowest-numbered surviving die, which takes the records of the front end (R344). -/
def State.frontDie (s : State) : Nat :=
  ((List.range 8).find? fun d => !(s.die d).failed).getD 0

/-! ## What comes before (R245) -/

/-- A range of numbers added to disjoint rising ranges, by first and past-last (R264). -/
def addRange (lo hi : Nat) : List (Nat × Nat) → List (Nat × Nat)
  | [] => [(lo, hi)]
  | (a, b) :: r =>
    if hi < a then (lo, hi) :: (a, b) :: r
    else if b < lo then (a, b) :: addRange lo hi r
    else addRange (min lo a) (max hi b) r

/-- Ranges joined together. -/
def unionRanges (a b : List (Nat × Nat)) : List (Nat × Nat) := b.foldl (fun l r => addRange r.1 r.2 l) a

/-- A number lies in one of the ranges. -/
def inRanges (l : List (Nat × Nat)) (n : Nat) : Bool := l.any fun r => r.1 ≤ n && n < r.2

/-- What comes before by one or the other (R245). -/
def Seen.join (a b : Seen) : Seen := { upto := max a.upto b.upto, ids := unionRanges a.ids b.ids }

/-- With the writes numbered from `lo` to before `hi`. -/
def Seen.add (a : Seen) (lo hi : Nat) : Seen := if lo < hi then { a with ids := addRange lo hi a.ids } else a

/-- A write is among what comes before. -/
def Seen.has (a : Seen) (w : PastWrite) : Bool := decide (w.upto ≤ a.upto) || inRanges a.ids w.id

/-- Everything that has come to its home so far. -/
def State.allSeen (s : State) : Seen := { upto := s.ticks, ids := [] }

/-- The writes made since `s0` come after `after` only (R245). -/
def State.orderedBy (s s0 : State) (after : Seen) : State :=
  let k := s.past.length - s0.past.length
  { s with past := (s.past.take k).map (fun w => { w with after := after }) ++ s.past.drop k }

/-! ## Homes and lines -/

/-- The class of a fabric physical address (R275). -/
def fpaClass (a : Nat) : Nat := bits a 54 2

/-- The die a class 0, 1 or on-chip address names (R275). -/
def fpaDie (a : Nat) : Nat := bits a 38 3

/-- The package and the node that class 1 and 2 addresses name (R275). -/
def fpaPkg (a : Nat) : Nat := bits a 41 6
def fpaNode (a : Nat) : Nat := bits a 45 5

/-- The home lies on a die of this package that has failed (R331, R334). -/
def State.homeFailed (s : State) (a : Nat) : Bool :=
  (fpaClass a = 0 || (fpaClass a = 3 && bits a 50 4 ≤ 1)) && (s.die (fpaDie a)).failed

/-- The line of a byte (R277). -/
def lineOf (a : Nat) : Nat := a / 64

/-- The marks of a line after an access that writes some of its bytes (R285, R287): one access of an engine or the host that
writes all 64 clears them (`whole`); a partial write to a line whose check fails poisons it. -/
def State.remark (s : State) (l : Nat) (whole : Bool) : State :=
  if whole then { s with poison := s.poison.filter (· != l), badCheck := s.badCheck.filter (· != l) }
  else if mem? l s.badCheck then { s with poison := addNew s.poison l, badCheck := s.badCheck.filter (· != l) }
  else s

/-- The machine remembering what `n` bytes at a home hold, which a new write is about to overwrite, after everything that came to its
home before (R246). -/
def State.remember (s : State) (a n : Nat) : State :=
  { s with
    past := { old := (List.range n).map fun i => (a + i, s.mem.read (a + i)), upto := s.ticks, id := s.writes, after := s.allSeen } :: s.past
    writes := s.writes + 1 }

/-- Bytes of one line stored at their home, `whole` if one access of an engine or the host gives all 64. -/
def State.putLine (s : State) (a : Nat) (bs : List Byte) (whole : Bool) : State :=
  { (s.remark (lineOf a) (whole && a % 64 == 0 && bs.length == 64)).remember a bs.length with mem := s.mem.writeBytes a bs }

/-- Marks a line as poisoned (R286). -/
def State.poisonLine (s : State) (l : Nat) : State := { s with poison := addNew s.poison l }

/-- A line reads as poisoned: marked so, or its home's die has failed (R287, R334). -/
def State.isPoisoned (s : State) (l : Nat) : Bool := mem? l s.poison || s.homeFailed (l * 64)

/-- A free value's place among those of one step (log 4). -/
def freeIndex (fresh k : Nat) : Nat := 2 ^ 64 * (fresh + 1) + k

/-- This package's number in the domain (R361), which ranks are counted with (R196, log 10). -/
def State.pkg (s : State) : Nat := bits s.fabcfg.toNat 0 6

/-! ## Ways out of the package -/

/-- The position of a die on the wrapped path (R331). -/
def State.pathPos (s : State) (d : Nat) : Option Nat := s.path.findIdx? fun x => x == d

/-- Ring hops from a die to another, by ring A and by ring B (R181, R332). -/
def State.hops (s : State) (d h : Nat) : Nat × Nat :=
  if bit s.deadMask.toNat h then (15, 15)
  else if !s.wrapped then ((h + 8 - d) % 8, (d + 8 - h) % 8)
  else
    match s.pathPos d, s.pathPos h with
    | some x, some y =>
      let n := s.path.length
      (if x ≤ y then y - x else (n - 1 - x) + (n - 1 - y), if y ≤ x then x - y else x + y)
    | _, _ => (15, 15)

/-- The port between a node and another package is down at that end (R365). -/
def State.farIsDown (s : State) (n pkg : Nat) : Bool := s.farDown.any fun x => x == (n, pkg)

/-- A node that lies in NODEMASK, with the port between it and this package up at both ends (R360, R361, R365). -/
def State.nodeUp (s : State) (n : Nat) : Bool :=
  bit s.fabcfg.toNat (16 + n) && bit s.portUp.toNat n && !s.farIsDown n s.pkg && !(s.die (n / 4)).failed

/-- The die through which a die's class 1 accesses to a peer leave (R365): itself, else the nearest die with a node whose ports
are up to this package and to the peer. -/
def State.exitDie (s : State) (d pkg : Nat) : Option Nat :=
  let usable := (List.range 8).filter fun e => (List.range 4).any fun p =>
    s.nodeUp (4 * e + p) && !s.farIsDown (4 * e + p) pkg
  if mem? d usable then some d
  else
    usable.foldl (fun best e =>
      match best with
      | none => some e
      | some b =>
        let near := fun x => min (s.hops d x).1 (s.hops d x).2
        if near e < near b then some e else some b) none

/-- Whether an address lies off the package, on a peer or a node (R275). -/
def isRemote (fpa : Nat) : Bool := fpaClass fpa == 1 || fpaClass fpa == 2

/-- Whether an access from a die can leave for its home (R361, R364). -/
def State.reachable (s : State) (d fpa : Nat) : Bool :=
  match fpaClass fpa with
  | 1 => bit s.fabcfg.toNat 7 && (s.exitDie d (fpaPkg fpa)).isSome
  | 2 => bit s.fabcfg.toNat 7 && s.nodeUp (fpaNode fpa)
  | _ => true

/-- A hop on its way gives the access up (R363, R364): of a remote access that takes effect at issue or not at all, a free value
says so (log 62). -/
def State.hopLost (s : State) (fpa key : Nat) : Bool := isRemote fpa && Config.freeBit (freeIndex s.fresh (2 ^ 61 + key))

/-! ## Multicast frames (R368) -/

/-- The address of a byte of a node's memory (R275). -/
def nodeFpa (n o : Nat) : Nat := 2 * 2 ^ 54 + n * 2 ^ 45 + o

/-- The address by which this package reaches a class 0 address of a package (R275). -/
def State.memberFpa (s : State) (p a : Nat) : Nat := if p = s.pkg then a % 2 ^ 41 else 2 ^ 54 + p * 2 ^ 41 + a % 2 ^ 41

/-- A valid entry of a node's multicast table: the frames it covers, its members, its own address, and whether its
reserved fields are zero. -/
structure McastEntry where
  first : Nat
  len : Nat
  members : Nat
  addr : Nat
  ok : Bool
  deriving DecidableEq, Repr

/-- A 64-bit field of an entry. -/
def State.mcastField (s : State) (a : Nat) : Nat := s.mem.readNat a 8

/-- Entry `e` of a node's table, if it is valid. -/
def State.mcastEntry (s : State) (n e : Nat) : Option McastEntry :=
  let a := nodeFpa n (2 ^ 45 - 65536 + 1024 * e)
  let w := s.mcastField a
  if !bit w 0 then none
  else some
    { first := bits w 16 29, len := bits w 8 8 + 1, members := s.mcastField (a + 8), addr := a
      ok := bits w 45 19 == 0 && bits w 1 7 == 0 && s.mem.readNat (a + 528) 496 == 0 &&
        (List.range 64).all fun p => let f := s.mcastField (a + 16 + 8 * p); bits f 56 8 == 0 && bits f 0 16 == 0 }

/-- The valid entries of a node. -/
def State.mcastEntries (s : State) (n : Nat) : List McastEntry := (List.range 64).filterMap (s.mcastEntry n)

/-- The entry has a frame among `len` frames from `first`. -/
def McastEntry.meets (e : McastEntry) (first len : Nat) : Bool := e.first < first + len && first < e.first + e.len

/-- The address lies in a multicast frame. -/
def State.isMcast (s : State) (fpa : Nat) : Bool :=
  fpaClass fpa == 2 && (s.mcastEntries (fpaNode fpa)).any fun e => e.meets (bits fpa 16 29) 1

/-- The entry that serves an STM's range: the only one it meets, whole, well formed and overlapped by none (R182, R368). -/
def State.mcastFor (s : State) (fpa bytes : Nat) : Option McastEntry :=
  let l := s.mcastEntries (fpaNode fpa)
  let first := bits fpa 16 29
  let last := (fpa % 2 ^ 45 + bytes - 1) / 65536
  match l.filter fun e => e.meets first (last - first + 1) with
  | [e] =>
    if e.ok && e.first ≤ first && last < e.first + e.len && (l.filter fun x => x.meets e.first e.len).length == 1 then some e
    else none
  | _ => none

/-- An access of `die` can have no effect at its home: it cannot leave the package, a hop gives it up, or the node refuses it (R361,
R364, R368). -/
def State.farLost (s : State) (die fpa key : Nat) : Bool :=
  isRemote fpa && (!s.reachable die fpa || s.isMcast fpa || s.hopLost fpa key)

/-! ## Events -/

/-- The machine with an MSI-X vector raised (R40). -/
def State.raise (s : State) (v : Nat) : State := { s with vectors := s.vectors ++ [v] }

/-- Adds one to a saturating 32-bit count. -/
def satInc (x : Word) : Word := if x = 0xFFFFFFFF#32 then x else x + 1

/-- Posts a record to a die's event queue (R343, R344): type, flags, and the 48 bytes of payload. The record of a ring that the die cannot
reach is discarded (R361, R364, log 105). -/
def State.postEvent (s : State) (d type flags : Nat) (payload : List Byte) : State :=
  let x := s.die d
  if bits x.eqBase.toNat 12 44 = 0 then s.putDie d { x with eqLost := satInc x.eqLost }
  else if x.eqTail - x.eqHead = 4096#32 then s.putDie d { x with eqLost := satInc x.eqLost, lostBefore := true }
  else
    let rec64 := leBytes 1 type ++ leBytes 1 d ++ leBytes 1 (flags + 2 * b2n x.lostBefore) ++ leBytes 1 0
      ++ leBytes 4 x.eqTail.toNat ++ leBytes 8 s.time.toNat ++ sliceBytes payload 0 48
    let a := bits x.eqBase.toNat 12 44 * 4096 + 64 * (x.eqTail.toNat % 4096)
    ((if s.homeFailed a || s.farLost d a a then s else s.putLine a rec64 true).putDie d
      { x with eqTail := x.eqTail + 1, lostBefore := false }).raise (24 + d)

/-- Builds a payload from fields laid at offsets from byte 16 (R344). -/
def payloadOf (fields : List (Nat × Nat × Nat)) : List Byte :=
  (List.range 48).map fun i =>
    match fields.find? fun f => f.1 ≤ i + 16 && i + 16 < f.1 + f.2.1 with
    | some f => BitVec.ofNat 8 (f.2.2 / 256 ^ (i + 16 - f.1))
    | none => 0

/-- Posts an engine-error record (R344, TYPE 0x0B). -/
def State.postEngineError (s : State) (d agent code ctx addr : Nat) (frame : DWord) : State :=
  s.postEvent d 0x0B 0 (payloadOf [(16, 1, agent), (17, 1, code), (18, 2, ctx), (24, 8, addr), (32, 8, frame.toNat)])

/-- Posts a poison record (R344, TYPE 0x0C). -/
def State.postPoison (s : State) (d addr exit ctx : Nat) : State :=
  s.postEvent d 0x0C 0 (payloadOf [(16, 8, addr), (24, 1, exit), (26, 2, ctx)])

/-! ## Writes at homes -/

/-- The die whose agents see what happens at a home: the home's own, or the front end's for a home off the package. -/
def State.seenBy (s : State) (a : Nat) : Nat := if fpaClass a = 0 || fpaClass a = 3 then fpaDie a else s.frontDie

/-- Writes bytes of one line at their home (R277, R285). A home on a failed die takes nothing (R334). Where the line's check is
found to fail, it is poisoned and an event is posted (R170, R287). -/
def State.writeLine (s : State) (a : Nat) (bs : List Byte) (whole : Bool) : State :=
  if s.homeFailed a then s
  else
    let s1 := s.putLine a bs whole
    if mem? (lineOf a) s.badCheck && mem? (lineOf a) s1.poison then s1.postPoison (s.seenBy a) (lineOf a * 64) 0 0 else s1

/-- Writes bytes at their homes, line by line; `fuel` bounds the number of lines. -/
def State.writeLines (whole : Bool) : Nat → State → Nat → List Byte → State
  | 0, s, _, _ => s
  | n + 1, s, a, bs =>
    match bs with
    | [] => s
    | _ =>
      State.writeLines whole n (s.writeLine a (bs.take (64 - a % 64)) whole) (a + (64 - a % 64)) (bs.drop (64 - a % 64))

/-- Writes bytes at their homes for a store, a step or another access that leaves a poisoned line poisoned. -/
def State.writeHome (s : State) (a : Nat) (bs : List Byte) : State := State.writeLines false (bs.length / 64 + 2) s a bs

/-- Writes bytes at their homes for an engine or the host: a line it writes whole is freshly checked (R285, R287). -/
def State.writeWhole (s : State) (a : Nat) (bs : List Byte) : State := State.writeLines true (bs.length / 64 + 2) s a bs

/-! ## Parties and their words -/

/-- An entry for an empty stack; no rule reads it, since a live party has at least one entry. -/
def Entry.blank : Entry :=
  { pc := 0, mask := 0, rpc := none, fmt := 0, clause := none, stopped := none, go := false, tried := false, told := false }

/-- The current path. -/
def Party.top (p : Party) : Entry := p.stack.headD Entry.blank

/-- The party with its current path changed. -/
def Party.modTop (p : Party) (f : Entry → Entry) : Party :=
  match p.stack with
  | [] => p
  | e :: r => { p with stack := f e :: r }

/-- The active lanes (R63). -/
def Party.exm (p : Party) : BitVec 32 := p.top.mask

/-- Past `n` words of the clause; at its end the path is in header position (R47, R50). -/
def Entry.advance (e : Entry) (n : Nat) : Entry :=
  { e with
    pc := e.pc + BitVec.ofNat 64 (4 * n)
    go := false
    tried := false
    told := false
    clause := e.clause.bind fun c => if c.words.length ≤ n then none else some { c with words := c.words.drop n } }

/-- The party past `n` words. -/
def Party.advance (p : Party) (n : Nat) : Party := p.modTop (·.advance n)

/-- The word after the clause that holds the word at the PC (R50). -/
def Entry.fallThrough (e : Entry) : DWord :=
  e.pc + BitVec.ofNat 64 (4 * ((e.clause.map (·.words.length)).getD 1))

/-- The path at a new address, in header position. -/
def Entry.jump (e : Entry) (a : DWord) : Entry := { e with pc := a, go := false, tried := false, told := false, clause := none }

/-- The party's current path at a new address. -/
def Party.jump (p : Party) (a : DWord) : Party := p.modTop (·.jump a)

/-- What the executing party's task and place give its words (R62, R215). -/
structure Env where
  tid : Nat
  pi : Nat
  desc : Descriptor
  ctx : Nat
  cidx : DWord
  frame : DWord
  stage : Nat
  die : Nat
  core : Nat
  det : Bool
  sup : Bool
  time : DWord
  fresh : Nat
  slot : Nat
  privSize : Nat

/-- A context's private bytes per lane, PRIVSZ (R271). -/
def Ctx.privSize (c : Ctx) : Nat := 4096 * min 16 (bits c.ctxpt.toNat 4 5)

/-- The party executing a word: its task and index, and both as they stand. -/
structure Exec where
  tid : Nat
  pi : Nat
  task : Task
  party : Party

/-- The party executing a word, if there is one. -/
def State.current (s : State) : Option Exec :=
  match s.cur with
  | none => none
  | some (t, i) =>
    match s.task? t with
    | none => none
    | some x =>
      match x.parties[i]? with
      | none => none
      | some p => some { tid := t, pi := i, task := x, party := p }

/-- What an executing party's word sees of its surroundings. -/
def Exec.env (c : Exec) (s : State) : Env :=
  { tid := c.tid, pi := c.pi, desc := c.task.desc, ctx := c.task.ctx, cidx := c.task.cidx, frame := c.task.frame,
    stage := c.task.stage, die := c.task.die, core := c.task.core, det := c.task.det, sup := (s.ctx c.task.ctx).sup,
    time := s.time, fresh := s.fresh, slot := c.task.slot, privSize := (s.ctx c.task.ctx).privSize }

/-- A cause that a word raises (R338): its code, INFO, and the address `xpc` receives, the word's own where none is
given. -/
structure Trap where
  cause : Nat
  info : Nat
  addr : Option DWord
  deriving DecidableEq, Repr

/-- The causes by name (R67). -/
def Trap.zwf : Trap := { cause := 0x01, info := 0, addr := none }
def Trap.ill (reason : Nat) : Trap := { cause := 0x02, info := reason, addr := none }
def Trap.cls (row : Nat) (a : DWord) : Trap := { cause := 0x03, info := row, addr := some a }
def Trap.rbx (phys kind : Nat) : Trap := { cause := 0x04, info := phys % 1024 + 1024 * kind, addr := none }
def Trap.ubd (p n : Nat) : Trap := { cause := 0x05, info := p + 8 * n, addr := none }
def Trap.jtx (info : Nat) : Trap := { cause := 0x06, info := info, addr := none }
def Trap.bmk (id kind reason : Nat) : Trap := { cause := 0x07, info := id + 64 * kind + 256 * reason, addr := none }
def Trap.cdg (info : Nat) : Trap := { cause := 0x0A, info := info, addr := none }

/-! ## Traps -/

/-- FailTask of R340 and R341: the task's parties stop, its tiles are free (R317), and a fault record is posted (R212, R344
TYPE 0x03). -/
def State.failTask (s : State) (t : Nat) (cause info : Nat) (addr : DWord) (handler : Bool) : State :=
  match s.task? t with
  | none => s
  | some x =>
    if x.failed then s else
    (s.putTask t { x with failed := true, tiles := [] }).postEvent x.die 0x03 (b2n handler)
      (payloadOf [(16, 1, cause), (20, 4, info), (24, 8, addr.toNat), (32, 2, x.ctx), (34, 2, x.core),
        (40, 8, x.frame.toNat), (48, 8, x.cidx.toNat)])

/-- tmask.MASK (R66). -/
def Party.masked (p : Party) : Bool := p.tmask.getLsbD 8

/-- tmask with MASK set or clear. -/
def maskBit (m : Word) (b : Bool) : Word := BitVec.ofNat 32 (m.toNat % 256 + 256 * b2n b)

/-- The party inside its handler (R340). The clause is kept where the saved address is the interrupted word's; an address
outside the clause (a header that failed its check, R51) is returned to as a header (R97). -/
def Party.enterTrap (p : Party) (trap : DWord) (cause info : Nat) (addr : DWord) : Party :=
  { (p.modTop fun e => { e.jump trap with stopped := none }) with
    ts := some
      { depth := p.stack.length, clause := if addr = p.top.pc then p.top.clause else none, addr := addr, mask := p.masked }
    tcause := BitVec.ofNat 32 (cause * 2 ^ 24 + info)
    xpc := addr
    tmask := maskBit p.tmask true
    hold := .free
    storing := []
    cancelled := [] }

/-- TakeTrap (R340): a party raises a cause; without a handler, or with traps masked, its task fails (R341). -/
def State.takeTrap (s : State) (t i : Nat) (tr : Trap) : State :=
  match s.task? t with
  | none => s
  | some x =>
    match x.parties[i]? with
    | none => s
    | some p =>
      let addr := tr.addr.getD p.top.pc
      if p.masked || x.desc.trap = 0#64 then s.failTask t tr.cause tr.info addr p.masked
      else s.putTask t (x.putParty i (p.enterTrap x.desc.trap tr.cause tr.info addr))

/-- The return from a handler (R97, R340): MASK and the interrupted clause come back, and the path resumes at `xpc`,
inside that clause when `xpc` is the address saved at entry, else at a header. With MASK set by MTS or TMASK before any trap was
taken there is nothing to return to, and TRET raises the ILL of a TRET outside a handler (DESIGN CHOICE, log 86). -/
def Party.trapReturn (p : Party) : Except Trap Party :=
  match p.ts with
  | none => .error (Trap.ill 4)
  | some ts =>
    if !p.masked || p.stack.length != ts.depth then .error (Trap.ill 4)
    else .ok { (p.modTop fun e => { e.jump p.xpc with clause := if p.xpc = ts.addr then ts.clause else none }) with
      tmask := maskBit p.tmask ts.mask }

/-! ## Running a word -/

/-- A word that acts on its party alone: its new party `n` words on, or the cause it raises taken (R338, R340). -/
def State.runParty (s : State) (n : Nat) (f : Env → Party → Except Trap Party) : Out :=
  match s.current with
  | none => .next s
  | some c =>
    match f (c.env s) c.party with
    | .ok p => .next (s.putParty c.tid c.pi (p.advance n))
    | .error tr => .next (s.takeTrap c.tid c.pi tr)

/-- A word that transfers control: its new party as it stands, or the cause taken. -/
def State.runJump (s : State) (f : Env → Party → Except Trap Party) : Out :=
  match s.current with
  | none => .next s
  | some c =>
    match f (c.env s) c.party with
    | .ok p => .next (s.putParty c.tid c.pi p)
    | .error tr => .next (s.takeTrap c.tid c.pi tr)

/-- A word that acts on the machine: the whole next state, or the cause taken. -/
def State.runExec (s : State) (f : Exec → Except Trap State) : Out :=
  match s.current with
  | none => .next s
  | some c =>
    match f c with
    | .ok s' => .next s'
    | .error tr => .next (s.takeTrap c.tid c.pi tr)

/-- The machine with the executing party past `n` words. -/
def State.retire (s : State) (c : Exec) (n : Nat) : State := s.modParty c.tid c.pi (·.advance n)

/-- Turns a condition into a cause. -/
def need (ok : Bool) (tr : Trap) : Except Trap Unit := if ok then .ok () else .error tr

end Sys2Proof.Machine
end

