-- ==== Sys2Proof/Machine/Operands.lean ====
section
/-! DEFINITION. Register operands: which registers a word uses and the checks on their names (R55 to R60, R84), reading
and writing vector, uniform and predicate registers under the active mask (R59), and the operand forms of the ALU
families (R114). -/

namespace Sys2Proof.Machine

/-- A use of a register name (R56, R58, R161): one vector or uniform register, a pair, a quad, or a block of `k` uniform
registers from an even one. -/
inductive RegUse where
  | v (n : Nat)
  | vp (n : Nat)
  | vq (n : Nat)
  | u (n : Nat)
  | up (n : Nat)
  | uq (n : Nat)
  | ub (n k : Nat)
  | vb (n k : Nat)
  deriving DecidableEq, Repr

/-- The name is odd for a pair, or no multiple of 4 for a quad (R58, R161). -/
def RegUse.misaligned : RegUse → Bool
  | .vp n | .up n | .ub n _ => n % 2 == 1
  | .vq n | .uq n => n % 4 != 0
  | _ => false

/-- Whether the use is of uniform registers, its first name, and how many registers it covers. -/
def RegUse.span : RegUse → Bool × Nat × Nat
  | .v n => (false, n, 1)
  | .vp n => (false, n, 2)
  | .vq n => (false, n, 4)
  | .vb n k => (false, n, k)
  | .u n => (true, n, 1)
  | .up n => (true, n, 2)
  | .uq n => (true, n, 4)
  | .ub n k => (true, n, k)

/-- The physical registers of a use that lie outside the allotment (R56), with their RBX class. -/
def RegUse.outside (env : Env) (p : Party) (r : RegUse) : List (Nat × Nat) :=
  let (uni, n, k) := r.span
  let base := if uni then p.swb.toNat else p.vwb.toNat
  let lim := if uni then env.desc.uregs else env.desc.vregs
  ((List.range k).filter fun i => lim ≤ base + n + i).map fun i => (base + n + i, b2n uni)

/-- RBX for the registers of a word that lie outside the allotment (R56); which of several is reported is a free choice (log 7). -/
def noneOutside (env : Env) : List (Nat × Nat) → Except Trap Unit
  | [] => .ok ()
  | [x] => .error (Trap.rbx x.1 x.2)
  | x :: xs =>
    let y := (x :: xs).getD (Config.freeNat env.fresh % (xs.length + 1)) x
    .error (Trap.rbx y.1 y.2)

/-- Checks the register uses of a word: ILL for a misaligned name before RBX for a register outside the allotment (R56,
R58, R84). -/
def useRegs (env : Env) (p : Party) (l : List RegUse) : Except Trap Unit :=
  if l.any RegUse.misaligned then .error (Trap.ill 5) else noneOutside env (l.flatMap (RegUse.outside env p))

/-- The uses lie inside the allotment (R56). -/
def regsIn (env : Env) (p : Party) (l : List RegUse) : Bool := l.all fun r => (r.outside env p).isEmpty

/-- Checks the register uses of a word whose registers `src` hold a value that may raise ILL: that ILL comes before RBX of
the word's other registers, where `src` can be read (R84). -/
def checkRegs (env : Env) (p : Party) (src : List RegUse) (check : Except Trap Unit) (l : List RegUse) : Except Trap Unit :=
  if l.any RegUse.misaligned || !regsIn env p src then useRegs env p l
  else do check; useRegs env p l

/-- What the fields of a register block must satisfy: the registers of the block that the condition reads, whether it holds, and
the reason of the ILL that it raises. -/
structure FieldRule where
  regs : List Nat
  ok : Bool
  reason : Nat

/-- Checks a block of `k` uniform registers and its fields: an ILL of fields that can be read comes before an RBX of the block's other
registers (R56, R84). -/
def checkBlock (env : Env) (p : Party) (n k : Nat) (rules : List FieldRule) : Except Trap Unit :=
  if n % 2 = 1 then .error (Trap.ill 5)
  else
    match rules.find? fun r => !r.ok && regsIn env p (r.regs.map fun i => .u (n + i)) with
    | some r => .error (Trap.ill r.reason)
    | none => useRegs env p [.ub n k]

/-! ## Reading -/

/-- A lane of a physical vector register. -/
def Party.vphys (p : Party) (r l : Nat) : Word := ((AMap.get? p.v r).getD []).getD l 0

/-- A lane of the vector register a field names (R55). -/
def Party.vreg (p : Party) (n l : Nat) : Word := p.vphys (p.vwb.toNat + n) l

/-- The uniform register a field names (R55). -/
def Party.ureg (p : Party) (n : Nat) : Word := Cells.get p.u (p.swb.toNat + n)

/-- A lane's register pair, and a uniform pair (R58). -/
def Party.vpair (p : Party) (n l : Nat) : DWord := pairOf (p.vreg n l) (p.vreg (n + 1) l)
def Party.upair (p : Party) (n : Nat) : DWord := pairOf (p.ureg n) (p.ureg (n + 1))

/-- The uniform registers of a block from a field's name up. -/
def Party.ublock (p : Party) (n k : Nat) : List Word := (List.range k).map fun i => p.ureg (n + i)

/-- A vector predicate's lanes (R59). -/
def Party.pred (p : Party) (n : Nat) : BitVec 32 := p.preds.getD n 0

/-- A uniform predicate; q7 reads 1 (R59). -/
def Party.upred (p : Party) (n : Nat) : Bool := n == 7 || p.q.getLsbD n

/-! ## Writing -/

/-- The bank of sixteen physical registers that holds one (R348). -/
def bankBit (r : Nat) : BitVec 32 := BitVec.ofNat 32 (2 ^ (r / 16))

/-- A physical vector register written in the lanes of a mask. -/
def Party.setPhys (p : Party) (r : Nat) (mask : BitVec 32) (f : Nat → Word) : Party :=
  { p with
    v := AMap.insert p.v r ((List.range 32).map fun l => if mask.getLsbD l then f l else p.vphys r l)
    vdirty := p.vdirty ||| bankBit r }

/-- The vector register a field names, written in the active lanes (R59). -/
def Party.setV (p : Party) (n : Nat) (f : Nat → Word) : Party := p.setPhys (p.vwb.toNat + n) p.exm f

/-- A vector pair written in the active lanes. -/
def Party.setVPair (p : Party) (n : Nat) (f : Nat → DWord) : Party :=
  (p.setV n fun l => loWord (f l)).setV (n + 1) fun l => hiWord (f l)

/-- A physical uniform register written. -/
def Party.setUPhys (p : Party) (r : Nat) (x : Word) : Party :=
  { p with u := Cells.set p.u r x, udirty := p.udirty ||| bankBit r }

/-- The uniform register a field names, written once for the party (R59). -/
def Party.setU (p : Party) (n : Nat) (x : Word) : Party := p.setUPhys (p.swb.toNat + n) x

/-- A uniform pair written. -/
def Party.setUPair (p : Party) (n : Nat) (x : DWord) : Party := (p.setU n (loWord x)).setU (n + 1) (hiWord x)

/-- A vector predicate written in the active lanes (R59). -/
def Party.setPred (p : Party) (n : Nat) (f : Nat → Bool) : Party :=
  { p with preds := p.preds.set n (maskOf fun l => if p.exm.getLsbD l then f l else (p.pred n).getLsbD l) }

/-- A uniform predicate written; a write to q7 is discarded (R59). -/
def Party.setQ (p : Party) (n : Nat) (b : Bool) : Party :=
  if n = 7 then p
  else { p with q := BitVec.ofNat 8 (p.q.toNat - 2 ^ n * b2n (p.q.getLsbD n) + 2 ^ n * b2n b) ||| 0x80#8 }

/-! ## Operand forms -/

/-- Operand A of an ALU word in a lane: a vector register, or a broadcast uniform register (R114). -/
def Party.opA (p : Party) (a : BitVec 7) (u : BitVec 1) (l : Nat) : Word :=
  if u = 1#1 then p.ureg a.toNat else p.vreg a.toNat l

/-- Operand A as a pair (R121). -/
def Party.opAPair (p : Party) (a : BitVec 7) (u : BitVec 1) (l : Nat) : DWord :=
  if u = 1#1 then p.upair a.toNat else p.vpair a.toNat l

/-- The use of operand A. -/
def useA (a : BitVec 7) (u : BitVec 1) : RegUse := if u = 1#1 then .u a.toNat else .v a.toNat
def useAPair (a : BitVec 7) (u : BitVec 1) : RegUse := if u = 1#1 then .up a.toNat else .vp a.toNat

/-- A party's word function. -/
abbrev PartyFn := Env → Party → Except Trap Party

/-- d := f a b in each active lane (R114). -/
def alu2 (d a b : BitVec 7) (u : BitVec 1) (f : Word → Word → Word) : PartyFn := fun env p => do
  useRegs env p [.v d.toNat, useA a u, .v b.toNat]
  pure (p.setV d.toNat fun l => f (p.opA a u l) (p.vreg b.toNat l))

/-- d := f a b d in each active lane (R114). -/
def alu3 (d a b : BitVec 7) (u : BitVec 1) (f : Word → Word → Word → Word) : PartyFn := fun env p => do
  useRegs env p [.v d.toNat, useA a u, .v b.toNat]
  pure (p.setV d.toNat fun l => f (p.opA a u l) (p.vreg b.toNat l) (p.vreg d.toNat l))

/-- d := f a in each active lane (R114). -/
def alu1 (d a : BitVec 7) (u : BitVec 1) (f : Word → Word) : PartyFn := fun env p => do
  useRegs env p [.v d.toNat, useA a u]
  pure (p.setV d.toNat fun l => f (p.opA a u l))

/-- The pair d := f a b in each active lane, a and b pairs (R121). -/
def alu64 (d a b : BitVec 7) (u : BitVec 1) (f : DWord → DWord → DWord) : PartyFn := fun env p => do
  useRegs env p [.vp d.toNat, useAPair a u, .vp b.toNat]
  pure (p.setVPair d.toNat fun l => f (p.opAPair a u l) (p.vpair b.toNat l))

/-- The pair d := f a b in each active lane, a a pair and b a count (R121). -/
def aluShift64 (d a b : BitVec 7) (u : BitVec 1) (f : DWord → Word → DWord) : PartyFn := fun env p => do
  useRegs env p [.vp d.toNat, useAPair a u, .v b.toNat]
  pure (p.setVPair d.toNat fun l => f (p.opAPair a u l) (p.vreg b.toNat l))

/-- The pair d := f a b in each active lane, a and b single registers (R121). -/
def aluWide (d a b : BitVec 7) (u : BitVec 1) (f : Word → Word → DWord) : PartyFn := fun env p => do
  useRegs env p [.vp d.toNat, useA a u, .v b.toNat]
  pure (p.setVPair d.toNat fun l => f (p.opA a u l) (p.vreg b.toNat l))

/-- The uniform d := f a b, once per party (R129). -/
def uni2 (d a b : BitVec 7) (f : Word → Word → Word) : PartyFn := fun env p => do
  useRegs env p [.u d.toNat, .u a.toNat, .u b.toNat]
  pure (p.setU d.toNat (f (p.ureg a.toNat) (p.ureg b.toNat)))

/-- The uniform pair d := f a b (R129). -/
def uni64 (d a b : BitVec 7) (f : DWord → DWord → DWord) : PartyFn := fun env p => do
  useRegs env p [.up d.toNat, .up a.toNat, .up b.toNat]
  pure (p.setUPair d.toNat (f (p.upair a.toNat) (p.upair b.toNat)))

/-- The uniform d := f a (R129). -/
def uni1 (d a : BitVec 7) (f : Word → Word) : PartyFn := fun env p => do
  useRegs env p [.u d.toNat, .u a.toNat]
  pure (p.setU d.toNat (f (p.ureg a.toNat)))

end Sys2Proof.Machine
end

