-- ==== Sys2Proof/Machine/Flags.lean ====
section
/-! DEFINITION. Flags and conditions: the sticky arithmetic flags (R65), integer conditions (R122), branch conditions
(R46, R88), and the completion flags of class V instructions (R48, R49). -/

namespace Sys2Proof.Machine

/-- The arithmetic flags by name (R65). -/
def flagNV : BitVec 5 := 0x10#5
def flagDZ : BitVec 5 := 0x08#5
def flagOF : BitVec 5 := 0x04#5
def flagUF : BitVec 5 := 0x02#5
def flagNX : BitVec 5 := 0x01#5

/-- The flags of all active lanes together. -/
def orFlags (mask : BitVec 32) (f : Nat → BitVec 5) : BitVec 5 := (lanesOf mask).foldl (fun a l => a ||| f l) 0#5

/-- The party with arithmetic flags raised (R65). -/
def Party.raise (p : Party) (x : BitVec 5) : Party := { p with aflags := p.aflags ||| x }

/-- An integer condition (R122). -/
def intCond (c : BitVec 3) (a b : Word) : Bool :=
  match c.toNat with
  | 0 => a == b
  | 1 => a != b
  | 2 => decide (a.toInt < b.toInt)
  | 3 => decide (a.toInt ≤ b.toInt)
  | 4 => decide (b.toInt < a.toInt)
  | 5 => decide (b.toInt ≤ a.toInt)
  | 6 => decide (a.toNat < b.toNat)
  | _ => decide (b.toNat ≤ a.toNat)

/-- The lanes of a mask in which a vector predicate, inverted when `n` is set, holds (R46). -/
def Party.predLanes (p : Party) (n : Bool) (k : Nat) (mask : BitVec 32) : BitVec 32 :=
  mask &&& (if n then ~~~(p.pred k) else p.pred k)

/-- A uniform condition (R46). -/
def Party.upredCond (p : Party) (n : Bool) (k : Nat) : Bool := p.upred k != n

/-! ## Completion flags -/

/-- The flag that a class V word of the current clause is covered by (R48). 15 is none. -/
def Party.coverFlag (p : Party) (fs : BitVec 1) : Nat :=
  match p.top.clause with
  | none => 15
  | some c => if fs = 0#1 then c.seta else c.setb

/-- A flag's count of outstanding instructions. -/
def Party.cfCount (p : Party) (f : Nat) : Nat := p.cf.getD f 0

/-- The party with a count changed. -/
def Party.setCf (p : Party) (f n : Nat) : Party := { p with cf := p.cf.set f n }

/-- What a class V word writes at its completion (R48, R53). -/
structure VResult where
  vwrites : List (Nat × BitVec 32 × List Word)
  uwrites : List (Nat × Word)
  aflags : BitVec 5
  floating : Bool
  wait : PendWait

/-- The vector write of a class V word: the register bound at issue and the active lanes' values (R53). -/
def Party.vwrite (p : Party) (n : Nat) (f : Nat → Word) : Nat × BitVec 32 × List Word :=
  (p.vwb.toNat + n, p.exm, (List.range 32).map f)

/-- The uniform write of a class V word. -/
def Party.uwrite (p : Party) (n : Nat) (x : Word) : Nat × Word := (p.swb.toNat + n, x)

/-- A pending result of a party. -/
def VResult.pending (r : VResult) (id flag : Nat) : Pending :=
  { id := id, flag := flag, vwrites := r.vwrites, uwrites := r.uwrites, aflags := r.aflags, floating := r.floating,
    wait := r.wait }

/-- The party with a class V word issued (R48). -/
def Party.addPending (p : Party) (x : Pending) : Party :=
  { p.setCf x.flag (p.cfCount x.flag + 1) with pend := p.pend ++ [x] }

/-- Issues a class V word: it stalls at a full count, else takes a fault or leaves a pending result (R48). -/
def State.runV (s : State) (n : Nat) (fs : BitVec 1) (f : Env → Party → Except Trap VResult) : Out :=
  match s.current with
  | none => .next s
  | some c =>
    if 255 ≤ c.party.cfCount (c.party.coverFlag fs) then .next s
    else
      match f (c.env s) c.party with
      | .ok r =>
        .next ({ s with nextId := s.nextId + 1 }.putParty c.tid c.pi
          ((c.party.addPending (r.pending s.nextId (c.party.coverFlag fs))).advance n))
      | .error tr => .next (s.takeTrap c.tid c.pi tr)

/-- The registers and flags of a completed class V word written, all in one step (DESIGN CHOICE, log 91), and its count taken back (R48, R53,
R54). -/
def Party.complete (p : Party) (x : Pending) : Party :=
  let p1 := x.vwrites.foldl (fun q w => q.setPhys w.1 w.2.1 fun l => w.2.2.getD l 0) p
  let p2 := x.uwrites.foldl (fun q w => q.setUPhys w.1 w.2) p1
  { (p2.raise x.aflags).setCf x.flag (p.cfCount x.flag - 1) with pend := p.pend.filter fun y => y.id != x.id }

/-- A pending result whose remote or Press part has come back. -/
def Party.ready (p : Party) (id : Nat) (f : Pending → Pending) : Party :=
  { p with pend := p.pend.map fun x => if x.id = id then { f x with wait := .ready } else x }

end Sys2Proof.Machine
end

