-- ==== Sys2Proof/Machine/Float.lean ====
section
/-! DEFINITION. Floating-point arithmetic: the formats of R291, the rounding functions of R292 with the flags of R135, the
operations of R137 to R143, and the FP32 transcendental algorithms of R305 to R310. A number is handled exactly, as a
dyadic rational, until its one rounding. -/

namespace Sys2Proof.Machine

/-! ## Formats and exact values -/

/-- A binary format: its exponent and fraction widths (R291). -/
structure FloatFormat where
  ebits : Nat
  mbits : Nat
  deriving DecidableEq, Repr

def fp32 : FloatFormat := { ebits := 8, mbits := 23 }
def fp16 : FloatFormat := { ebits := 5, mbits := 10 }
def bf16 : FloatFormat := { ebits := 8, mbits := 7 }

/-- The bias, the pattern of +infinity and the sign bit of a format. -/
def FloatFormat.bias (f : FloatFormat) : Nat := 2 ^ (f.ebits - 1) - 1
def FloatFormat.inf (f : FloatFormat) : Nat := (2 ^ f.ebits - 1) * 2 ^ f.mbits
def FloatFormat.signBit (f : FloatFormat) : Nat := 2 ^ (f.ebits + f.mbits)

/-- The canonical NaN (R135, R291). -/
def FloatFormat.nan (f : FloatFormat) : Nat := f.inf + 2 ^ (f.mbits - 1)

/-- The exponent of a format's subnormal step. -/
def FloatFormat.minExp (f : FloatFormat) : Int := 1 - (f.bias : Int) - f.mbits

/-- A dyadic rational m * 2^e. -/
structure Dyadic where
  m : Int
  e : Int
  deriving DecidableEq, Repr

/-- The number 0, and powers of two. -/
def Dyadic.zero : Dyadic := { m := 0, e := 0 }
def Dyadic.pow2 (e : Int) : Dyadic := { m := 1, e := e }

/-- The mantissa at a lower or equal exponent. -/
def Dyadic.at (x : Dyadic) (e : Int) : Int := x.m * 2 ^ (x.e - e).toNat

def Dyadic.add (x y : Dyadic) : Dyadic := { m := x.at (min x.e y.e) + y.at (min x.e y.e), e := min x.e y.e }
def Dyadic.neg (x : Dyadic) : Dyadic := { x with m := -x.m }
def Dyadic.sub (x y : Dyadic) : Dyadic := x.add y.neg
def Dyadic.mul (x y : Dyadic) : Dyadic := { m := x.m * y.m, e := x.e + y.e }
def Dyadic.abs (x : Dyadic) : Dyadic := { x with m := x.m.natAbs }
def Dyadic.lt (x y : Dyadic) : Bool := decide ((x.sub y).m < 0)
def Dyadic.eq (x y : Dyadic) : Bool := (x.sub y).m == 0

/-- floor(x). -/
def Dyadic.floor (x : Dyadic) : Int := if 0 ≤ x.e then x.m * 2 ^ x.e.toNat else x.m / 2 ^ (-x.e).toNat

/-- x is an integer. -/
def Dyadic.isInt (x : Dyadic) : Bool := x.eq { m := x.floor, e := 0 }

/-- What a bit pattern stands for: a NaN, signalling or quiet; an infinity; or a finite number with its sign bit. -/
inductive FloatVal where
  | nan (sig : Bool)
  | inf (neg : Bool)
  | fin (neg : Bool) (d : Dyadic)
  deriving DecidableEq, Repr

/-- Reads a pattern in a format (R291). -/
def FloatFormat.val (f : FloatFormat) (x : Nat) : FloatVal :=
  let neg := bit x (f.ebits + f.mbits)
  let e := bits x f.mbits f.ebits
  let m := bits x 0 f.mbits
  let mag : Nat := if e = 0 then m else 2 ^ f.mbits + m
  if e = 2 ^ f.ebits - 1 then (if m = 0 then .inf neg else .nan (!bit x (f.mbits - 1)))
  else .fin neg { m := if neg then -(mag : Int) else mag, e := f.minExp + (e - 1 : Nat) }

/-- floor(log2 |m|) of a nonzero integer. -/
def log2Int (m : Int) : Nat := Nat.log2 m.natAbs

/-! ## Rounding (R292, R135) -/

/-- Rounds a magnitude n / 2^s, s >= 0, with `sticky` standing for a positive part below n's last bit, to an integer by a
mode: 0 RN, 1 RZ, 2 RU, 3 RD; and tells whether it was inexact. -/
def roundShift (mode : Nat) (neg : Bool) (n s : Nat) (sticky : Bool) : Nat × Bool :=
  let q := n / 2 ^ s
  let r := n % 2 ^ s
  let inexact := r != 0 || sticky
  let up :=
    match mode with
    | 0 => if s = 0 then false
           else 2 ^ (s - 1) < r || (r == 2 ^ (s - 1) && (sticky || q % 2 == 1))
    | 1 => false
    | 2 => inexact && !neg
    | _ => inexact && neg
  (if up then q + 1 else q, inexact)

/-- A result with its flags. -/
abbrev FloatRes := Nat × BitVec 5

/-- The pattern of an overflow (R292). -/
def FloatFormat.overflow (f : FloatFormat) (mode : Nat) (neg : Bool) : Nat :=
  (if neg then f.signBit else 0) +
    (if mode = 0 ∨ (mode = 2 ∧ neg = false) ∨ (mode = 3 ∧ neg = true) then f.inf else f.inf - 1)

/-- Rounds a nonzero magnitude n * 2^e, with a positive part below its last bit when `sticky`, to the pattern of a
format's magnitudes, whatever the pattern stands for; tells whether it was inexact, and tiny after rounding (R135). -/
def FloatFormat.roundCore (f : FloatFormat) (mode : Nat) (neg : Bool) (n0 : Nat) (e0 : Int) (sticky : Bool) :
    Nat × Bool × Bool :=
  let n := n0 * 2 ^ (f.mbits + 4)
  let e := e0 - (f.mbits + 4 : Nat)
  let top := (Nat.log2 n : Int) + e
  let lsb := max (top - f.mbits) f.minExp
  let (k, inexact) := roundShift mode neg n (lsb - e).toNat sticky
  let free := roundShift mode neg n (top - f.mbits - e).toNat sticky
  let tiny := decide (top < f.minExp + f.mbits) &&
    !(decide (top + 1 = f.minExp + f.mbits) && free.1 == 2 ^ (f.mbits + 1))
  ((lsb - f.minExp).toNat * 2 ^ f.mbits + k, inexact, tiny)

/-- The flags of a rounding that did not overflow (R135). -/
def roundFlags (inexact tiny : Bool) : BitVec 5 :=
  (if inexact then flagNX else 0#5) ||| (if inexact && tiny then flagUF else 0#5)

/-- Rounds a nonzero magnitude into a format: the pattern with the flags of R135. -/
def FloatFormat.roundMag (f : FloatFormat) (mode : Nat) (neg : Bool) (n0 : Nat) (e0 : Int) (sticky : Bool) : FloatRes :=
  let r := f.roundCore mode neg n0 e0 sticky
  if f.inf ≤ r.1 then (f.overflow mode neg, flagOF ||| flagNX)
  else ((if neg then f.signBit else 0) + r.1, roundFlags r.2.1 r.2.2)

/-- Rounds an exact value; a zero takes the given sign. -/
def FloatFormat.round (f : FloatFormat) (mode : Nat) (zeroNeg : Bool) (x : Dyadic) : FloatRes :=
  if x.m = 0 then (if zeroNeg then f.signBit else 0, 0#5)
  else f.roundMag mode (decide (x.m < 0)) x.m.natAbs x.e false

/-- The canonical NaN with or without NV. -/
def FloatFormat.nanRes (f : FloatFormat) (nv : Bool) : FloatRes := (f.nan, if nv then flagNV else 0#5)

/-- A signed infinity and a signed zero. -/
def FloatFormat.infRes (f : FloatFormat) (neg : Bool) : FloatRes := (f.inf + (if neg then f.signBit else 0), 0#5)
def FloatFormat.zeroRes (f : FloatFormat) (neg : Bool) : FloatRes := (if neg then f.signBit else 0, 0#5)

/-- A value is a signalling NaN; is a NaN; its sign. -/
def FloatVal.sig : FloatVal → Bool | .nan b => b | _ => false
def FloatVal.isNan : FloatVal → Bool | .nan _ => true | _ => false
def FloatVal.neg : FloatVal → Bool | .nan _ => false | .inf b => b | .fin b _ => b
def FloatVal.isZero : FloatVal → Bool | .fin _ d => d.m == 0 | _ => false

/-! ## Arithmetic (R137, R138, R141, R143) -/

/-- The sum of two values, rounded once; an exact zero sum of unlike signs is +0, and -0 under RD (R138). -/
def FloatFormat.addVal (f : FloatFormat) (mode : Nat) (x y : FloatVal) : FloatRes :=
  match x, y with
  | .nan a, .nan b => f.nanRes (a || b)
  | .nan a, _ => f.nanRes a
  | _, .nan b => f.nanRes b
  | .inf a, .inf b => if a = b then f.infRes a else f.nanRes true
  | .inf a, .fin _ _ => f.infRes a
  | .fin _ _, .inf b => f.infRes b
  | .fin a u, .fin b v => f.round mode (if a = b then a else mode == 3) (u.add v)

/-- A value with its sign flipped. -/
def FloatVal.flip : FloatVal → FloatVal
  | .nan b => .nan b
  | .inf b => .inf (!b)
  | .fin b d => .fin (!b) d.neg

def FloatFormat.add (f : FloatFormat) (mode a b : Nat) : FloatRes := f.addVal mode (f.val a) (f.val b)
def FloatFormat.sub (f : FloatFormat) (mode a b : Nat) : FloatRes := f.addVal mode (f.val a) (f.val b).flip

/-- The exact product of two values, NaN where IEEE gives one; tells whether it is an invalid product. -/
def mulVal (x y : FloatVal) : FloatVal × Bool :=
  match x, y with
  | .nan a, y => (.nan a, y.sig)
  | _, .nan b => (.nan b, false)
  | .inf a, y => if y.isZero then (.nan false, true) else (.inf (a != y.neg), false)
  | x, .inf b => if x.isZero then (.nan false, true) else (.inf (x.neg != b), false)
  | .fin a u, .fin b v => (.fin (a != b) (u.mul v), false)

def FloatFormat.mul (f : FloatFormat) (mode a b : Nat) : FloatRes :=
  match mulVal (f.val a) (f.val b) with
  | (.nan s, nv) => f.nanRes (s || nv)
  | (.inf n, _) => f.infRes n
  | (.fin n d, _) => f.round mode n d

/-- a * b + c with one rounding, each term's sign as given (R138): an invalid product raises NV with any addend. -/
def FloatFormat.fma (f : FloatFormat) (mode : Nat) (negP negC : Bool) (a b c : Nat) : FloatRes :=
  let (p, nv) := mulVal (f.val a) (f.val b)
  let z := f.val c
  let r := f.addVal mode (if negP then p.flip else p) (if negC then z.flip else z)
  (r.1, r.2 ||| (if nv || (f.val a).sig || (f.val b).sig then flagNV else 0#5))

/-- a / b (R141). -/
def FloatFormat.div (f : FloatFormat) (mode a b : Nat) : FloatRes :=
  match f.val a, f.val b with
  | .nan x, y => f.nanRes (x || y.sig)
  | _, .nan y => f.nanRes y
  | .inf _, .inf _ => f.nanRes true
  | .inf x, .fin y _ => f.infRes (x != y)
  | .fin x _, .inf y => f.zeroRes (x != y)
  | .fin x u, .fin y v =>
    if v.m = 0 then
      if u.m = 0 then f.nanRes true else ((f.infRes (x != y)).1, flagDZ)
    else if u.m = 0 then f.zeroRes (x != y)
    else
      let n := u.m.natAbs * 2 ^ 80
      f.roundMag mode (x != y) (n / v.m.natAbs) (u.e - v.e - 80) (n % v.m.natAbs != 0)

/-- floor(sqrt n) for n below 4^k, bit by bit. -/
def isqrtBits : Nat → Nat → Nat → Nat
  | 0, _, r => r
  | k + 1, n, r => isqrtBits k n (if (r + 2 ^ k) * (r + 2 ^ k) ≤ n then r + 2 ^ k else r)
def isqrt (n : Nat) : Nat := isqrtBits (Nat.log2 n / 2 + 1) n 0

/-- sqrt a (R142). -/
def FloatFormat.sqrt (f : FloatFormat) (mode a : Nat) : FloatRes :=
  match f.val a with
  | .nan s => f.nanRes s
  | .inf n => if n then f.nanRes true else f.infRes false
  | .fin n d =>
    if d.m = 0 then f.zeroRes n
    else if n then f.nanRes true
    else
      let h := (d.e % 2).toNat
      let m := d.m.natAbs * 2 ^ (80 + h)
      let r := isqrt m
      f.roundMag mode false r ((d.e - h) / 2 - 40) (r * r != m)

/-- The order of the min and max operations: every finite or infinite pattern by value, -0 below +0 (R137). -/
def FloatFormat.orderKey (f : FloatFormat) (x : Nat) : Int :=
  if bit x (f.ebits + f.mbits) then -(bits x 0 (f.ebits + f.mbits) : Int) - 1 else bits x 0 (f.ebits + f.mbits)

/-- minimumNumber, maximumNumber and minimum, maximum (R137): `number` picks the first kind, `mx` the maximum. -/
def FloatFormat.minMax (f : FloatFormat) (number mx : Bool) (a b : Nat) : FloatRes :=
  let x := f.val a
  let y := f.val b
  let nv := if x.sig || y.sig then flagNV else 0#5
  if x.isNan && y.isNan then (f.nan, nv)
  else if x.isNan then (if number then b else f.nan, nv)
  else if y.isNan then (if number then a else f.nan, nv)
  else (if (decide (f.orderKey a ≤ f.orderKey b)) != mx then a else b, nv)

/-! ## Long operations in fixed point (R143, R306) -/

/-- The fraction bits of the fixed-point evaluations, and ln 2 and pi at that scale, truncated. -/
def fixBits : Nat := 320
def fixLn2 : Nat := 0xb17217f7d1cf79abc9e3b39803f2f6af40f343267298b62d8a0d175b8baafa2be7b876206debac98
def fixPi : Nat := 0x3243f6a8885a308d313198a2e03707344a4093822299f31d0082efa98ec4e6c89452821e638d01377

/-- The Taylor terms from the `k`-th on: t, t*x/(k+1), ..., summed, `n` of them. -/
def expTerms : Nat → Nat → Nat → Nat → Nat
  | 0, _, _, _ => 0
  | n + 1, k, x, t => t + expTerms n (k + 1) x (t * x / 2 ^ fixBits / (k + 1))

/-- 2^(x / 2^fixBits) for x below 2^fixBits, at scale 2^fixBits. -/
def exp2Fix (x : Nat) : Nat := expTerms 100 0 (x * fixLn2 / 2 ^ fixBits) (2 ^ fixBits)

/-- The first `n` bits of log2 of y / 2^fixBits, 1 <= that < 2, most significant first. -/
def log2Bits : Nat → Nat → Nat → Nat
  | 0, _, acc => acc
  | n + 1, y, acc =>
    let z := y * y / 2 ^ fixBits
    if 2 ^ (fixBits + 1) ≤ z then log2Bits n (z / 2) (2 * acc + 1) else log2Bits n z (2 * acc)

/-- Alternating Taylor terms of sine and cosine: t - t*x2/((k+1)(k+2)) + ... -/
def trigTerms : Nat → Nat → Nat → Nat → Int
  | 0, _, _, _ => 0
  | n + 1, k, x2, t => (t : Int) - trigTerms n (k + 2) x2 (t * x2 / 2 ^ fixBits / ((k + 1) * (k + 2)))

/-- sin and cos of pi * r / 2^fixBits for r at most a quarter, at scale 2^fixBits. -/
def sinPiFix (r : Nat) : Nat :=
  let a := r * fixPi / 2 ^ fixBits
  (trigTerms 60 1 (a * a / 2 ^ fixBits) a).toNat
def cosPiFix (r : Nat) : Nat :=
  let a := r * fixPi / 2 ^ fixBits
  (trigTerms 60 0 (a * a / 2 ^ fixBits) (2 ^ fixBits)).toNat

/-- A dyadic in fixed point, rounded down; exact for every value that reaches it. -/
def Dyadic.fix (x : Dyadic) : Int := { x with e := x.e + fixBits : Dyadic }.floor

/-- 2^x correctly rounded, for finite x that is no integer (R143). -/
def FloatFormat.exp2Round (f : FloatFormat) (mode : Nat) (x : Dyadic) : FloatRes :=
  let k := max (min x.floor 100000) (-100000)
  let frac := (x.sub { m := x.floor, e := 0 }).fix.toNat
  f.roundMag mode false (exp2Fix frac) (k - fixBits) true

/-- log2 x correctly rounded, for positive x that is no power of two (R143). -/
def FloatFormat.log2Round (f : FloatFormat) (mode : Nat) (x : Dyadic) : FloatRes :=
  let l := log2Int x.m
  let e := (l : Int) + x.e
  let y := x.m.natAbs * 2 ^ fixBits / 2 ^ l
  let v := e * 2 ^ 150 + (log2Bits 150 y 0 : Nat)
  if 0 ≤ v then f.roundMag mode false v.natAbs (-150) true else f.roundMag mode true (v.natAbs - 1) (-150) true

/-- The quarter turns in x and what is left of it: x = k/2 + r with |r| at most a quarter (R310). -/
def halfTurns (x : Dyadic) : Int × Dyadic :=
  let k := ({ x with e := x.e + 1 : Dyadic }.add { m := 1, e := -1 }).floor
  (k, x.sub { m := k, e := -1 })

/-- sin(pi x) and cos(pi x) correctly rounded, for x that is no multiple of one half (R143). -/
def FloatFormat.trigRound (f : FloatFormat) (mode : Nat) (cosine : Bool) (x : Dyadic) : FloatRes :=
  let (k, r) := halfTurns x
  let n := ((if cosine then k + 1 else k) % 4).toNat
  let rn := decide (r.m < 0)
  let mag := r.abs.fix.toNat
  let s := min (sinPiFix mag) (2 ^ fixBits - 1)
  let c := min (cosPiFix mag) (2 ^ fixBits - 1)
  match n with
  | 0 => f.roundMag mode rn s (-fixBits) true
  | 1 => f.roundMag mode false c (-fixBits) true
  | 2 => f.roundMag mode (!rn) s (-fixBits) true
  | _ => f.roundMag mode true c (-fixBits) true

/-! ## Special inputs (R142) -/

/-- The unary long operations. -/
inductive LongOp where
  | rcp
  | rsq
  | sqrt
  | ex2
  | lg2
  | sinpi
  | cospi
  deriving DecidableEq, Repr

/-- An exact power of two 2^k in a format, if x is one. -/
def Dyadic.powerOfTwo (x : Dyadic) : Option Int :=
  if x.m.natAbs = 2 ^ log2Int x.m ∧ 0 < x.m then some (log2Int x.m + x.e) else none

/-- R142's table, carried to a format, with the exact cases of each operation: none where the algorithm runs. Past its thresholds
EX2 is rounded under the mode, where R142's row, read alone, gives an infinity and +0 in every mode (R143; DEDUCED, log 85). -/
def FloatFormat.longSpecial (f : FloatFormat) (mode : Nat) (op : LongOp) (a : Nat) : Option FloatRes :=
  match op, f.val a with
  | _, .nan s => some (f.nanRes s)
  | .rcp, .inf n => some (f.zeroRes n)
  | .rcp, .fin n d => if d.m = 0 then some ((f.infRes n).1, flagDZ) else none
  | .sqrt, .inf n => if n then some (f.nanRes true) else some (f.infRes false)
  | .sqrt, .fin n d => if d.m = 0 then some (f.zeroRes n) else if n then some (f.nanRes true) else none
  | .rsq, .inf n => if n then some (f.nanRes true) else some (f.zeroRes false)
  | .rsq, .fin n d =>
    if d.m = 0 then some ((f.infRes n).1, flagDZ)
    else if n then some (f.nanRes true)
    else
      match d.powerOfTwo with
      | some k => if k % 2 = 0 then some (f.round mode false (Dyadic.pow2 (-(k / 2)))) else none
      | none => none
  | .ex2, .inf n => if n then some (f.zeroRes false) else some (f.infRes false)
  | .ex2, .fin _ d =>
    if d.isInt then some (f.round mode false (Dyadic.pow2 (max (min d.floor 100000) (-100000)))) else none
  | .lg2, .inf n => if n then some (f.nanRes true) else some (f.infRes false)
  | .lg2, .fin n d =>
    if d.m = 0 then some ((f.infRes true).1, flagDZ)
    else if n then some (f.nanRes true)
    else
      match d.powerOfTwo with
      | some k => some (f.round mode false { m := k, e := 0 })
      | none => none
  | .sinpi, .inf _ => some (f.nanRes true)
  | .sinpi, .fin n d =>
    if d.isInt then some (f.zeroRes n)
    else if { d with e := d.e + 1 : Dyadic }.isInt then
      some (f.round mode false { m := if d.floor % 2 = 0 then 1 else -1, e := 0 })
    else none
  | .cospi, .inf _ => some (f.nanRes true)
  | .cospi, .fin _ d =>
    if d.isInt then some (f.round mode false { m := if d.floor % 2 = 0 then 1 else -1, e := 0 })
    else if { d with e := d.e + 1 : Dyadic }.isInt then some (f.zeroRes false)
    else none

/-- The finite value of a pattern, 0 for others. -/
def FloatFormat.dyadic (f : FloatFormat) (a : Nat) : Dyadic :=
  match f.val a with | .fin _ d => d | _ => Dyadic.zero

/-- 1/sqrt x correctly rounded, for positive x that is no power of four. -/
def FloatFormat.rsqRound (f : FloatFormat) (mode : Nat) (x : Dyadic) : FloatRes :=
  let h := (x.e % 2).toNat
  let m := x.m.natAbs * 2 ^ h
  f.roundMag mode false (isqrt (2 ^ 400 / m)) (-((x.e - h) / 2) - 200) true

/-- The 16-bit functions of MAJ 0x47, correctly rounded (R143). -/
def FloatFormat.long16 (f : FloatFormat) (mode : Nat) (op : LongOp) (a : Nat) : FloatRes :=
  match f.longSpecial mode op a with
  | some r => r
  | none =>
    match op with
    | .rcp => f.div mode (f.bias * 2 ^ f.mbits) a
    | .sqrt => f.sqrt mode a
    | .rsq => f.rsqRound mode (f.dyadic a)
    | .ex2 => f.exp2Round mode (f.dyadic a)
    | .lg2 => f.log2Round mode (f.dyadic a)
    | .sinpi => f.trigRound mode false (f.dyadic a)
    | .cospi => f.trigRound mode true (f.dyadic a)

/-! ## The FP32 algorithms (R305 to R310) -/

/-- The helpers of R305, on FP32 patterns, always by RN. -/
def fFma (a b c : Nat) : Nat := (fp32.fma 0 false false a b c).1
def fMul (a b : Nat) : Nat := (fp32.mul 0 a b).1
def fAdd (a b : Nat) : Nat := (fp32.add 0 a b).1
def fSub (a b : Nat) : Nat := (fp32.sub 0 a b).1

/-- LDEXP: y * 2^n rounded by RN, with its flags. -/
def fLdexp (y : Nat) (n : Int) : FloatRes :=
  match fp32.val y with
  | .fin s d => fp32.round 0 s { d with e := d.e + n }
  | _ => (y, 0#5)

/-- A dyadic as an FP32 pattern, exact for every value that reaches it. -/
def fOf (neg : Bool) (x : Dyadic) : Nat := (fp32.round 0 neg x).1

/-- T[i], V[j], L[j] and Y[j] (R306). -/
def tableT (i : Nat) : Nat :=
  if i = 0 then 0x3F800000 else (fp32.exp2Round 0 { m := i, e := -6 }).1
def tableV (j : Nat) : Nat := (fp32.div 0 0x42800000 (fOf false { m := 64 + j, e := 0 })).1
def tableL (j : Nat) : Nat := if j = 0 then 0 else (fp32.log2Round 0 { m := 64 + j, e := -6 }).1
def tableY (j : Nat) : Nat :=
  if j = 0 then 0x3F800000
  else (fp32.rsqRound 0 (if j < 32 then { m := 32 + j, e := -5 } else { m := j, e := -4 })).1

/-- RNint of a dyadic (R292). -/
def rnInt (x : Dyadic) : Int :=
  let k := x.floor
  let r := x.sub { m := k, e := 0 }
  let half : Dyadic := { m := 1, e := -1 }
  if half.lt r || (r.eq half && k % 2 == 1) then k + 1 else k

/-- NX, with UF when the result is subnormal or zero and inexact (R142, R305). -/
def algoFlags (r : Nat) (exact : Bool) : BitVec 5 :=
  if exact then 0#5 else flagNX ||| (if bits r 23 8 = 0 then flagUF else 0#5)

/-- EX2 (R307, R142). -/
def fEx2 (a : Nat) : FloatRes :=
  match fp32.val a with
  | .nan s => fp32.nanRes s
  | .inf n => if n then fp32.zeroRes false else fp32.infRes false
  | .fin _ x =>
    if !(x.lt { m := 128, e := 0 }) then (fp32.inf, flagOF ||| flagNX)
    else if !(Dyadic.lt { m := -150, e := 0 } x) then (0, flagUF ||| flagNX)
    else if x.isInt then fp32.round 0 false (Dyadic.pow2 x.floor)
    else
      let k := rnInt { x with e := x.e + 6 }
      let i := (k % 64).toNat
      let r := fOf (decide (x.m < 0)) (x.sub { m := k, e := -6 })
      let q := fFma (fFma (fFma 0x3C1D955B r 0x3D635847) r 0x3E75FDF0) r 0x3F317218
      let p := fMul q r
      let y := fFma (tableT i) p (tableT i)
      let res := fLdexp y ((k - i) / 64)
      if res.1 = fp32.inf then (res.1, flagOF ||| flagNX) else (res.1, algoFlags res.1 false)

/-- LG2 (R308, R142). -/
def fLg2 (a : Nat) : FloatRes :=
  match fp32.longSpecial 0 .lg2 a with
  | some r => r
  | none =>
    let x := fp32.dyadic a
    let l := log2Int x.m
    let e := (l : Int) + x.e
    let m : Dyadic := { m := x.m, e := -l }
    let j := ({ (m.sub { m := 1, e := 0 }) with e := (m.sub { m := 1, e := 0 }).e + 6 : Dyadic }).floor.toNat
    let z := fMul (fOf false (m.sub { m := 64 + j, e := -6 })) (tableV j)
    let q := fFma (fFma (fFma 0xBEB8AA3B z 0x3EF6384F) z 0xBF38AA3B) z 0x3FB8AA3B
    let p := fMul q z
    let r := fAdd (fAdd (fOf false { m := e, e := 0 }) (tableL j)) p
    (r, algoFlags r false)

/-- RSQ (R309, R142). -/
def fRsq (a : Nat) : FloatRes :=
  match fp32.longSpecial 0 .rsq a with
  | some r => r
  | none =>
    let x := fp32.dyadic a
    let e := ((log2Int x.m : Int) + x.e) / 2
    let m : Dyadic := { x with e := x.e - 2 * e }
    let j := if m.lt { m := 2, e := 0 } then
        (({ m with e := m.e + 5 } : Dyadic).floor - 32).toNat
      else 32 + (({ m with e := m.e + 4 } : Dyadic).floor - 32).toNat
    let y0 := tableY j
    let w := fMul y0 y0
    let z := fFma (fOf false m) w 0xBF800000
    let q := fMul (fFma (fFma 0xBEA00000 z 0x3EC00000) z 0xBF000000) z
    let t := fFma y0 q y0
    let r := (fLdexp t (-e)).1
    (r, algoFlags r false)

/-- SINPI and COSPI (R310, R142). -/
def fTrig (cosine : Bool) (a : Nat) : FloatRes :=
  match fp32.longSpecial 0 (if cosine then .cospi else .sinpi) a with
  | some r => r
  | none =>
    let (k, rd) := halfTurns (fp32.dyadic a)
    let r := fOf (decide (rd.m < 0)) rd
    let s := fMul r r
    let sinP := fMul (fFma (fFma (fFma (fFma 0x3DA83C1A s 0xBF196966) s 0x402335E3) s 0xC0A55DE7) s 0x40490FDB) r
    let cosP := fFma (fFma (fFma (fFma (fFma 0xBCD368F9 s 0x3E70FA83) s 0xBFAAE9E4) s 0x4081E0F7) s 0xC09DE9E6) s
      0x3F800000
    let flip := fun x => if bit x 31 then x - 2 ^ 31 else x + 2 ^ 31
    let n := ((if cosine then k + 1 else k) % 4).toNat
    let res := match n with | 0 => sinP | 1 => cosP | 2 => flip sinP | _ => flip cosP
    (res, algoFlags res false)

/-- The FP32 long operations (R141, R142). -/
def fLong (mode : Nat) (op : LongOp) (a : Nat) : FloatRes :=
  match op with
  | .rcp =>
    match fp32.longSpecial mode .rcp a with
    | some r => r
    | none => fp32.div mode 0x3F800000 a
  | .sqrt => fp32.sqrt mode a
  | .rsq => fRsq a
  | .ex2 => fEx2 a
  | .lg2 => fLg2 a
  | .sinpi => fTrig false a
  | .cospi => fTrig true a

end Sys2Proof.Machine
end

