-- ==== Sys2Proof/Machine/Narrow.lean ====
section
/-! DEFINITION. The narrow formats (R293, R294): the dither hash and offset (R295), Decode (R296, R297), Quantise (R298,
R299), QSCALE's algorithm (R153), and CVT's conversions (R144 to R146). -/

namespace Sys2Proof.Machine

/-- The narrow formats' codes: 0 E4M3, 1 E5M2, 2 E2M1X (R134). The first two as binary formats. -/
def e4m3 : FloatFormat := { ebits := 4, mbits := 3 }
def e5m2 : FloatFormat := { ebits := 5, mbits := 2 }
def miniFormat (f : Nat) : FloatFormat := if f = 0 then e4m3 else e5m2

/-- Fields of `fmt` (R64). -/
def fmtRnd (x : Word) : Nat := bits x.toNat 0 2
def fmtE5inf (x : Word) : Bool := bit x.toNat 2
def fmtKey (x : Word) : Nat := bits x.toNat 16 16

/-! ## Dither (R295) -/

/-- The hash byte. -/
def dither (row col key : Nat) : Nat :=
  let x := (row * 0x85EBCA77 + col * 0xC2B2AE3D + key * 0x27D4EB2F) % 2 ^ 32
  let x := x ^^^ (x / 2 ^ 15)
  let x := x * 0x2C1B3C6D % 2 ^ 32
  let x := x ^^^ (x / 2 ^ 12)
  let x := x * 0x297A2D39 % 2 ^ 32
  let x := x ^^^ (x / 2 ^ 15)
  x / 2 ^ 24

/-- The offset. -/
def ditherOffset (row col key : Nat) : Dyadic :=
  if key = 0 then Dyadic.zero else { m := 2 * (dither row col key : Int) + 1 - 256, e := -9 }

/-! ## Codes (R293, R294, R296, R297) -/

/-- The metadata of an E2M1X block: its scale code and its X code (R294). -/
structure Meta where
  scale : Nat
  x : Nat
  deriving DecidableEq, Repr

/-- The plain value of an E4M3 or E5M2 code (R293). -/
def miniVal (f q : Nat) : FloatVal :=
  if f = 0 then
    if q % 128 = 127 then .nan false
    else
      let m : Nat := if bits q 3 4 = 0 then bits q 0 3 else 8 + bits q 0 3
      .fin (bit q 7) { m := if bit q 7 then -(m : Int) else m, e := (max (bits q 3 4) 1 : Nat) - 10 }
  else e5m2.val q

/-- The grid step of an E4M3 or E5M2 code (R296). -/
def miniStep (f q : Nat) : Dyadic :=
  let g := miniFormat f
  Dyadic.pow2 ((max (bits q g.mbits g.ebits) 1 : Nat) - (g.bias : Int) - g.mbits)

/-- Magnitudes and steps of the E2M1X codes, in halves (R288). -/
def e2mag (q : Nat) : Nat := [0, 1, 2, 3, 4, 6, 8, 12].getD (q % 8) 0
def e2step (q : Nat) : Nat := [1, 1, 1, 1, 1, 2, 2, 4].getD (q % 8) 0

/-- Decode (R297): the exact value. -/
def decodeCode (f q row col key : Nat) (m : Meta) : FloatVal :=
  let u := ditherOffset row col key
  if f ≤ 1 then
    match miniVal f q with
    | .fin n d => .fin (if (d.sub (u.mul (miniStep f q))).m = 0 then n else decide ((d.sub (u.mul (miniStep f q))).m < 0))
        (d.sub (u.mul (miniStep f q)))
    | v => v
  else if m.scale = 255 then .nan false
  else
    let s := (m.scale : Int) - 127
    if q % 16 = 8 then
      match miniVal 0 m.x with
      | .fin n d => .fin n { d with e := d.e + s }
      | _ => .nan false
    else
      let d : Dyadic := { m := if bit q 3 then -(e2mag q : Int) else e2mag q, e := -1 }
      let v := d.sub (u.mul { m := e2step q, e := -1 })
      .fin (if v.m = 0 then bit q 3 else decide (v.m < 0)) { v with e := v.e + s }

/-- A decoded value as an FP32 register receives it, with the flags of R152. -/
def decodeF32 (v : FloatVal) : FloatRes :=
  match v with
  | .nan s => fp32.nanRes s
  | .inf n => fp32.infRes n
  | .fin n d => fp32.round 0 n d

/-! ## Quantise (R298) -/

/-- The codes of C with their decoded values, rising. -/
def candidates (f row col key : Nat) (m : Meta) : List (Nat × Dyadic) :=
  (List.range (if f ≤ 1 then 256 else 16)).filterMap fun q =>
    if f = 2 ∧ q = 8 ∧ m.x % 128 = 0 then none
    else
      match decodeCode f q row col key m with
      | .fin _ d => some (q, d)
      | _ => none

/-- The code's sign bit (R298). -/
def codeSign (f q : Nat) : Bool := bit q (if f ≤ 1 then 7 else 3)

/-- The tie rule of R298 between two codes: the first is to be preferred. -/
def tieBefore (f : Nat) (neg : Bool) (a b : Nat) : Bool :=
  let x := (a % 2, b2n (codeSign f a != neg), a)
  let y := (b % 2, b2n (codeSign f b != neg), b)
  x.1 < y.1 || (x.1 == y.1 && (x.2.1 < y.2.1 || (x.2.1 == y.2.1 && x.2.2 < y.2.2)))

/-- The best of the candidates: least cost, ties by R298's rule. -/
def pickCode (f : Nat) (neg : Bool) (l : List (Nat × Dyadic)) : Nat :=
  match l with
  | [] => 0
  | c :: cs => (cs.foldl (fun b x =>
      if x.2.lt b.2 || (x.2.eq b.2 && tieBefore f neg x.1 b.1) then x else b) c).1

/-- UF of a finite value rounded to E4M3 or E5M2 by RN: the result is tiny and inexact (R145). -/
def tinyFlag (f : Nat) (d : Dyadic) : BitVec 5 :=
  if d.m = 0 then 0#5
  else
    let r := (miniFormat f).roundCore 0 (decide (d.m < 0)) d.m.natAbs d.e false
    roundFlags r.2.1 r.2.2 &&& flagUF

/-- Quantise (R298) of a value, with the flags of R152; with key 0 an E4M3 or E5M2 code raises RN's flags, UF among them. -/
def quantiseVal (f : Nat) (e5inf : Bool) (x : FloatVal) (row col key : Nat) (m : Meta) : FloatRes :=
  if f = 2 ∧ m.scale = 255 then (0, 0#5)
  else
    let c := candidates f row col key m
    let esc := f == 1 && e5inf
    match x with
    | .nan s => (if f = 0 then 0x7F else if f = 1 then 0x7E else 0, if s || f == 2 then flagNV else 0#5)
    | .inf n =>
      if esc then (if n then 0xFC else 0x7C, 0#5)
      else (pickCode f n (c.map fun y => (y.1, if n then y.2 else y.2.neg)), flagNX)
    | .fin n d =>
      if esc && !(d.abs.lt { m := 61440, e := 0 }) then (if n then 0xFC else 0x7C, flagOF ||| flagNX)
      else
        let q := pickCode f n (c.map fun y => (y.1, (y.2.sub d).abs))
        let exact := c.any fun y => y.1 == q && y.2.eq d
        let beyond := !esc && c.all fun y => y.2.abs.lt d.abs
        (q, (if exact then 0#5 else flagNX) ||| (if beyond then flagOF else 0#5) |||
          (if f ≤ 1 ∧ key = 0 then tinyFlag f d else 0#5))

/-- Quantise of an FP32 pattern. -/
def quantise (f : Nat) (e5inf : Bool) (x row col key : Nat) (m : Meta) : FloatRes :=
  quantiseVal f e5inf (fp32.val x) row col key m

/-! ## QSCALE (R153) -/

/-- floor(log2 x) of a positive dyadic. -/
def Dyadic.log2 (x : Dyadic) : Int := (log2Int x.m : Int) + x.e

/-- The first index of the greatest magnitude. -/
def firstMax (l : List Dyadic) : Nat :=
  ((List.range l.length).foldl (fun b i => if (l.getD b Dyadic.zero).lt (l.getD i Dyadic.zero) then i else b) 0)

/-- A number held within -127 to 127. -/
def clamp127 (x : Int) : Int := min (max x (-127)) 127

/-- RN_E4M3, saturating, undithered (R299). -/
def satE4m3 (neg : Bool) (x : Dyadic) : Nat := (quantiseVal 0 false (.fin neg x) 0 0 0 { scale := 127, x := 0 }).1

/-- Scale, X and k of a list of FP32 patterns (R153): k, X and scale. -/
def qscale (f : Nat) (xs : List Nat) : Nat × Nat × Nat :=
  let vs := xs.map fp32.val
  if vs.any fun v => match v with | .fin _ _ => false | _ => true then (0, 0, 255)
  else
    let mags := xs.map fun x => (fp32.dyadic x).abs
    let k := firstMax mags
    let top := mags.getD k Dyadic.zero
    if f = 2 then
      if top.m = 0 then (k, 0, 127)
      else
        let rest := mags.eraseIdx k
        let m := rest.getD (firstMax rest) Dyadic.zero
        let e := clamp127 ((if m.m = 0 then top else m).log2 - 2)
        let v := fp32.dyadic (xs.getD k 0)
        (k, satE4m3 (decide (v.m < 0)) { v with e := v.e - e }, (e + 127).toNat)
    else
      let e := if top.m = 0 then 0 else clamp127 (top.log2 - (if f = 0 then 8 else 15))
      (k, 0, (e + 127).toNat)

/-! ## CVT (R144 to R146) -/

/-- The value of a source element (R80, R145). -/
def cvtSource (src x : Nat) : FloatVal :=
  match src with
  | 0 => fp32.val x
  | 1 => fp16.val x
  | 2 => bf16.val x
  | 3 => miniVal 0 x
  | 4 => miniVal 1 x
  | 5 => .fin (bit x 31) { m := sxNat 32 x, e := 0 }
  | 6 => .fin false { m := x, e := 0 }
  | _ => .fin (bit x 7) { m := sxNat 8 x, e := 0 }

/-- The range of an integer destination (R146). -/
def cvtRange (dst : Nat) : Int × Int :=
  match dst with
  | 5 => (-(2 ^ 31), 2 ^ 31 - 1)
  | 6 => (0, 2 ^ 32 - 1)
  | 7 => (-128, 127)
  | _ => (-(2 ^ 15), 2 ^ 15 - 1)

/-- A dyadic rounded to an integer by a mode, and whether it was inexact. -/
def roundInt (mode : Nat) (x : Dyadic) : Int × Bool :=
  if 0 ≤ x.e then (x.floor, false)
  else
    let r := roundShift mode (decide (x.m < 0)) x.m.natAbs (-x.e).toNat false
    (if x.m < 0 then -(r.1 : Int) else r.1, r.2)

/-- An integer destination of `w` bits from a floating or an integer source (R146). -/
def cvtInt (mode dst w : Nat) (intSrc sat : Bool) (v : FloatVal) : FloatRes :=
  let (lo, hi) := cvtRange dst
  let wrap := fun (x : Int) => (x % (2 ^ w : Nat)).toNat
  match v with
  | .nan _ => (0, flagNV)
  | .inf n => (wrap (if n then lo else hi), flagNV)
  | .fin _ d =>
    if intSrc then (wrap (if sat then min (max d.floor lo) hi else d.floor), 0#5)
    else
      let (r, inexact) := roundInt mode d
      if r < lo ∨ hi < r then (wrap (min (max r lo) hi), flagNV)
      else (wrap r, if inexact then flagNX else 0#5)

/-- An E4M3 or E5M2 destination that saturates (R145): beyond the largest finite value it takes that value. -/
def cvtMini (mode f : Nat) (v : FloatVal) : FloatRes :=
  let g := miniFormat f
  let top := if f = 0 then 0x7E else 0x7B
  let limit : Dyadic := { m := if f = 0 then 448 else 57344, e := 0 }
  match v with
  | .nan s => (if f = 0 then 0x7F else 0x7E, if s then flagNV else 0#5)
  | .inf n => (top + 128 * b2n n, flagNX)
  | .fin n d =>
    if d.m = 0 then (128 * b2n n, 0#5)
    else if limit.lt d.abs then (top + 128 * b2n n, flagOF ||| flagNX)
    else
      let r := g.roundCore mode (decide (d.m < 0)) d.m.natAbs d.e false
      (128 * b2n n + r.1, roundFlags r.2.1 r.2.2)

/-- A wide floating destination, or E5M2 with infinities (R145). -/
def cvtWide (g : FloatFormat) (mode : Nat) (v : FloatVal) : FloatRes :=
  match v with
  | .nan s => g.nanRes s
  | .inf n => g.infRes n
  | .fin n d => g.round mode n d

/-- One element converted (R144): destination and source codes of R80. -/
def cvtElem (mode dst src : Nat) (e5inf sat : Bool) (x : Nat) : FloatRes :=
  let v := cvtSource src x
  match dst with
  | 0 => cvtWide fp32 mode v
  | 1 => cvtWide fp16 mode v
  | 2 => cvtWide bf16 mode v
  | 3 => cvtMini mode 0 v
  | 4 => if e5inf then cvtWide e5m2 mode v else cvtMini mode 1 v
  | 5 => cvtInt mode 5 32 (5 ≤ src) sat v
  | 6 => cvtInt mode 6 32 (5 ≤ src) sat v
  | 7 => cvtInt mode 7 8 (5 ≤ src) sat v
  | _ => cvtInt mode 8 16 (5 ≤ src) sat v

/-- CVT of a register (R144): which element is read or replaced. -/
def cvtWord (mode dst src pos dstBits srcBits : Nat) (e5inf sat : Bool) (a d : Word) : FloatRes :=
  if dstBits < 32 then
    let r := cvtElem mode dst src e5inf sat (bits a.toNat 0 srcBits)
    (d.toNat - bits d.toNat (dstBits * pos) dstBits * 2 ^ (dstBits * pos) + r.1 * 2 ^ (dstBits * pos), r.2)
  else cvtElem mode dst src e5inf sat (bits a.toNat (srcBits * pos) srcBits)

end Sys2Proof.Machine
end

