-- ==== Sys2Proof/Machine/Groups.lean ====
section
/-! DEFINITION. Group slots and their ranks (R196 to R199), and the element-wise sums that the Couriers, the Vat and the
memory nodes form (R199, R184). -/

namespace Sys2Proof.Machine

/-! ## Ranks (R196) -/

/-- A slot's definition: the dimensions that its eight words give, from the innermost, as stride and count. -/
def groupDims (w : List Word) : List (Nat × Nat) :=
  (List.range (bits (w.getD 0 0).toNat 8 2)).map fun i => ((w.getD (2 + 2 * i) 0).toNat, (w.getD (3 + 2 * i) 0).toNat)

/-- BASE, and the number of ranks G. -/
def groupBase (w : List Word) : Nat := (w.getD 1 0).toNat
def groupSize (w : List Word) : Nat := (groupDims w).foldl (fun a d => a * d.2) 1

/-- The rank of a logical rank above BASE, dimensions from the innermost. -/
def rankOffset : List (Nat × Nat) → Nat → Nat
  | [], _ => 0
  | (st, n) :: r, j => j % n * st + rankOffset r (j / n)

/-- The rank of logical rank `j` (R196). -/
def groupRank (w : List Word) (j : Nat) : Nat := groupBase w + rankOffset (groupDims w) j

/-- The logical offset of a rank above BASE, dimensions from the outermost, `n` ranks inside the rest. -/
def logicalOffset : List (Nat × Nat) → Nat → Option Nat
  | [], 0 => some 0
  | [], _ + 1 => none
  | (st, n) :: r, x =>
    if n ≤ x / st then none
    else (logicalOffset r (x % st)).map fun y => x / st * (r.foldl (fun a d => a * d.2) 1) + y

/-- The logical rank of a rank, if the group holds it; strides nest (R196). -/
def groupIndex (w : List Word) (rank : Nat) : Option Nat :=
  if rank < groupBase w then none else logicalOffset (groupDims w).reverse (rank - groupBase w)

/-- The group has ranks on more than one package: logical order is ascending rank order (R196). -/
def groupSpans (w : List Word) : Bool := groupBase w / 8 != groupRank w (groupSize w - 1) / 8

/-- The dies of a package that hold ranks of a group, ascending. -/
def groupDies (w : List Word) (pkg : Nat) : List Nat := (List.range 8).filter fun d => (groupIndex w (8 * pkg + d)).isSome

/-- The packages of a group, ascending. -/
def groupPkgs (w : List Word) : List Nat := ((List.range (groupSize w)).map fun j => groupRank w j / 8).eraseDups

/-- The key of a context's group slot on a die (R321). -/
def slotKey (ctx slot : Nat) : Nat := ctx * 64 + slot

/-- A slot's definition on a die; none while undefined (R321). -/
def State.slotWords (s : State) (d ctx slot : Nat) : Option (List Word) :=
  match ((s.die d).slots.get? (slotKey ctx slot)).map (·.words) with
  | some [] => none
  | r => r

/-- A slot as the die holds it. -/
def State.slot (s : State) (d ctx k : Nat) : Slot :=
  (s.die d).slots.getD (slotKey ctx k) { words := [], lastErr := 0, counts := [], ended := [], dead := [] }

/-- The machine with a slot changed. -/
def State.modSlot (s : State) (d ctx k : Nat) (f : Slot → Slot) : State :=
  let x := s.die d
  s.putDie d { x with slots := AMap.insert x.slots (slotKey ctx k) (f (s.slot d ctx k)) }

/-- Two definitions are the same (R197): registers sA+1 to sA+7 agree. -/
def sameGroup (a b : List Word) : Bool := a.drop 1 == b.drop 1

/-- How many collectives a die has accepted on a slot under a definition (R197, log 82). -/
def Slot.count (x : Slot) (w : List Word) : Nat := ((x.counts.find? fun c => sameGroup c.1 w).map (·.2)).getD 0

/-- One more. -/
def Slot.accept (x : Slot) (w : List Word) : Slot :=
  { x with counts := (w, x.count w + 1) :: x.counts.filter fun c => !sameGroup c.1 w }

/-- The check value of a group's definition (R197). -/
def groupCheck (w : List Word) : Nat := crc32c ((w.drop 1).flatMap fun x => leBytes 4 x.toNat)

/-- Another package has told a die that a group contains a failed die (R334). -/
def State.slotDead (s : State) (d ctx slot : Nat) (w : List Word) : Bool := mem? (groupCheck w) (s.slot d ctx slot).dead

/-- The logical rank of a die of this package in a group. -/
def State.rankOf (s : State) (w : List Word) (d : Nat) : Option Nat := groupIndex w (8 * s.pkg + d)

/-! ## Sums (R199) -/

/-- The formats of a collective: 0 FP32, 1 BF16, 2 F16, 3 INT32 (R198). -/
def sumFormat (fmt : Nat) : FloatFormat := if fmt = 0 then fp32 else if fmt = 1 then bf16 else fp16

/-- Bytes of an element; format 4 is bytes. -/
def elemBytes (fmt : Nat) : Nat := if fmt = 0 ∨ fmt = 3 then 4 else if fmt = 4 then 1 else 2

/-- x ⊕ y for an operation 0 SUM, 1 MAX, 2 MIN (R199). -/
def combine (op fmt x y : Nat) : Nat :=
  if fmt = 3 then
    if op = 0 then (x + y) % 2 ^ 32
    else if decide (sxNat 32 x ≤ sxNat 32 y) == (op == 2) then x else y
  else if op = 0 then ((sumFormat fmt).add 0 x y).1
  else ((sumFormat fmt).minMax true (op == 1) x y).1

/-- x ⊕ y over byte strings, element by element; `fuel` bounds the elements. -/
def combineFuel : Nat → Nat → Nat → List Byte → List Byte → List Byte
  | 0, _, _, _, _ => []
  | n + 1, op, fmt, a, b =>
    let w := elemBytes fmt
    match a with
    | [] => []
    | _ => leBytes w (combine op fmt (natOfBytes (a.take w)) (natOfBytes (b.take w)))
        ++ combineFuel n op fmt (a.drop w) (b.drop w)
def combineBytes (op fmt : Nat) (a b : List Byte) : List Byte := combineFuel a.length op fmt a b

end Sys2Proof.Machine
end

