-- ==== Sys2Proof/Machine/Paths.lean ====
section
/-! DEFINITION. The divergence stack: Split and Reconcile (R87), lanes that end (R92, R228), and forced reconvergence
before a party-wide word (R230). -/

namespace Sys2Proof.Machine

/-- Puts a path among paths ordered by rising address; among equal addresses it goes last. -/
def insertPath (e : Entry) : List Entry → List Entry
  | [] => [e]
  | x :: r => if e.pc.toNat < x.pc.toNat then e :: x :: r else x :: insertPath e r

/-- Paths in rising address order, equal addresses keeping their order (R227, R230). -/
def sortPaths (l : List Entry) : List Entry := l.foldl (fun a e => insertPath e a) []

/-- Split (R87): the current entry becomes the join entry, and the paths are pushed, the lowest address on top. -/
def Party.split (p : Party) (paths : List (DWord × BitVec 32)) (join : DWord) : Party :=
  match p.stack with
  | [] => p
  | cur :: r =>
    let new := paths.map fun x =>
      { pc := x.1, mask := x.2, rpc := some join, fmt := cur.fmt, clause := none, stopped := none, go := false, tried := false, told := false : Entry }
    { p with stack := sortPaths new ++ cur.jump join :: r }

/-- Reconcile's pops (R87): above the bottom, an entry that is empty or has reached its reconvergence address goes. -/
def reconcileStack : List Entry → List Entry
  | [] => []
  | [e] => [e]
  | e :: e' :: r =>
    if e.mask = 0#32 ∨ (e.clause = none ∧ e.rpc = some e.pc) then reconcileStack (e' :: r) else e :: e' :: r

/-- Reconcile (R87). -/
def Party.reconcile (p : Party) : Party := { p with stack := reconcileStack p.stack }

/-- Takes lanes out of every entry (R92); the party ends when none is left, and leaves its gang (R234). -/
def Party.dropLanes (p : Party) (m : BitVec 32) : Party :=
  let st := p.stack.map fun e => { e with mask := e.mask &&& ~~~m }
  let gone := st.all fun e => e.mask == 0#32
  { p with stack := reconcileStack st, ended := gone, gang := if gone then 0 else p.gang }

/-- MTS to `exm` (R63, R228): lanes can only be cleared; a path left empty does nothing more in its clause, and if it is
the bottom entry the party ends there. The bottom entry is the last of the stack. -/
def Party.restrict (p : Party) (m : BitVec 32) : Party :=
  let q := p.modTop fun e => { e with mask := e.mask &&& m }
  if q.top.mask = 0#32 then
    if q.stack.length ≤ 1 then { q.modTop (fun e => e.jump e.fallThrough) with ended := true, gang := 0 }
    else q.modTop fun e => e.jump e.fallThrough
  else q.advance 1

/-! ## Forced reconvergence -/

/-- What comes of a party-wide word at the top of the stack: it issues on the given party, or other paths run first. -/
inductive Wide where
  | issue (p : Party)
  | switch (p : Party)
  deriving DecidableEq, Repr

/-- The other paths of the innermost region: the entries above its join entry, whose mask is the first to hold lanes of
the path itself. -/
def siblings (m : BitVec 32) : List Entry → List Entry
  | [] => []
  | e :: r => if e.mask &&& m = 0#32 then e :: siblings m r else []

/-- The path that stopped first among those at an address. -/
def firstAt (a : DWord) (l : List Entry) : Option Entry :=
  (l.filter fun e => e.pc == a).foldl (fun best e =>
    match best with
    | none => some e
    | some b => if e.stopped.getD 0 < b.stopped.getD 0 then some e else some b) none

/-- ForceReconverge (R230) for the party whose top path stands at a party-wide word. -/
def Party.reconverge (p : Party) : Wide :=
  match p.stack with
  | [] => .issue p
  | e :: r =>
    if r.isEmpty || e.go then .issue p
    else
      let sib := (siblings e.mask r).filter fun x => x.mask != 0#32
      let below := r.drop (siblings e.mask r).length
      let order := 1 + maxOf 0 ((e :: sib).map fun x => x.stopped.getD 0)
      let e' := if e.stopped.isSome then e else { e with stopped := some order }
      let runs := sib.filter fun x => x.stopped.isNone
      let held := e' :: sib.filter fun x => x.stopped.isSome
      if !runs.isEmpty then .switch { p with stack := sortPaths runs ++ held ++ below }
      else
        match sortPaths held with
        | [] => .issue p
        | low :: _ =>
          let f := (firstAt low.pc held).getD low
          let mask := held.foldl (fun m x => if x.pc = low.pc then m ||| x.mask else m) 0#32
          let merged := { f with mask := mask, stopped := none, go := true }
          let rest := sortPaths (held.filter fun x => x.pc != low.pc)
          if low.pc = e.pc then .issue { p with stack := merged :: rest ++ below }
          else .switch { p with stack := merged :: rest ++ below }

/-- Runs a party-wide word once its paths have reconverged (R230). -/
def State.runWide (s : State) (n : Nat) (f : Env → Party → Except Trap Party) : Out :=
  match s.current with
  | none => .next s
  | some c =>
    match c.party.reconverge with
    | .switch p => .next (s.putParty c.tid c.pi p)
    | .issue p =>
      match f (c.env s) p with
      | .ok p' => .next (s.putParty c.tid c.pi (p'.advance n))
      | .error tr => .next ((s.putParty c.tid c.pi p).takeTrap c.tid c.pi tr)

/-- Runs a party-wide word that acts on the machine, once its paths have reconverged (R230). -/
def State.runWideExec (s : State) (f : State → Exec → Except Trap State) : Out :=
  match s.current with
  | none => .next s
  | some c =>
    match c.party.reconverge with
    | .switch p => .next (s.putParty c.tid c.pi p)
    | .issue p =>
      let s1 := s.putParty c.tid c.pi p
      let c1 : Exec := { c with task := c.task.putParty c.pi p, party := p }
      match f s1 c1 with
      | .ok s' => .next s'
      | .error tr => .next (s1.takeTrap c.tid c.pi tr)

end Sys2Proof.Machine
end

