-- ==== Sys2Proof/Machine/Integer.lean ====
section
/-! DEFINITION. Integer, address and move instructions (spec/06, R114 to R129). -/

namespace Sys2Proof.Machine

/-! ## What they compute -/

/-- SatS and SatZ (R114). -/
def satS (v : Int) : Word := w32 (min (max v (-(2 ^ 31 : Int))) (2 ^ 31 - 1))
def satZ (v : Int) : Word := w32 (min (max v 0) (2 ^ 32 - 1))

/-- A word read as unsigned, and as signed (R114). -/
def zx (x : Word) : Int := x.toNat
def sx (x : Word) : Int := x.toInt

/-- Byte and half `i` of a word (R114). -/
def byteOf (x : Word) (i : Nat) : Nat := bits x.toNat (8 * i) 8
def halfOf (x : Word) (i : Nat) : Nat := bits x.toNat (16 * i) 16

/-- IABSD and IAVG (R115). -/
def iabsdW (a b : Word) : Word := w32 ((sx a - sx b).natAbs : Int)
def iavgW (a b : Word) : Word := w32 ((sx a + sx b + 1) / 2)

/-- IMULH.S and IMULH.Z (R116); Int division by a positive number is the floor. -/
def imulhSW (a b : Word) : Word := w32 (sx a * sx b / 2 ^ 32)
def imulhZW (a b : Word) : Word := w32 (zx a * zx b / 2 ^ 32)

/-- The dot products (R116). -/
def idot4SW (a b d : Word) : Word :=
  w32 (zx d + ((List.range 4).map fun i => sxNat 8 (byteOf a i) * sxNat 8 (byteOf b i)).sum)
def idot4ZW (a b d : Word) : Word :=
  w32 (zx d + ((List.range 4).map fun i => ((byteOf a i * byteOf b i : Nat) : Int)).sum)
def idot2W (a b d : Word) : Word :=
  w32 (zx d + ((List.range 2).map fun i => sxNat 16 (halfOf a i) * sxNat 16 (halfOf b i)).sum)

/-- Minimum, maximum and the sign operations (R117). -/
def iminSW (a b : Word) : Word := if sx a ≤ sx b then a else b
def iminZW (a b : Word) : Word := if zx a ≤ zx b then a else b
def imaxSW (a b : Word) : Word := if sx b ≤ sx a then a else b
def imaxZW (a b : Word) : Word := if zx b ≤ zx a then a else b
def iabsW (a : Word) : Word := w32 ((sx a).natAbs : Int)
def isgnW (a : Word) : Word := if sx a < 0 then 0xFFFFFFFF#32 else if sx a = 0 then 0#32 else 1#32

/-- Shifts (R119). -/
def shlW (a b : Word) : Word := if 32 ≤ b.toNat then 0#32 else BitVec.ofNat 32 (a.toNat * 2 ^ b.toNat)
def shrW (a b : Word) : Word := if 32 ≤ b.toNat then 0#32 else BitVec.ofNat 32 (a.toNat / 2 ^ b.toNat)
def sarW (a b : Word) : Word := w32 (sx a / 2 ^ min b.toNat 32)
def rolW (a b : Word) : Word :=
  let n := b.toNat % 32
  BitVec.ofNat 32 (a.toNat * 2 ^ n + a.toNat / 2 ^ (32 - n))
def rorW (a b : Word) : Word :=
  let n := b.toNat % 32
  BitVec.ofNat 32 (a.toNat / 2 ^ n + a.toNat * 2 ^ (32 - n))
def fshlW (a b d : Word) : Word :=
  BitVec.ofNat 32 ((a.toNat * 2 ^ 32 + b.toNat) * 2 ^ (d.toNat % 32) / 2 ^ 32)
def fshrW (a b d : Word) : Word :=
  BitVec.ofNat 32 ((a.toNat * 2 ^ 32 + b.toNat) / 2 ^ (d.toNat % 32))

/-- Counts and reversal (R120). -/
def popcW (a : Word) : Word := BitVec.ofNat 32 (popcount a)
def clzW (a : Word) : Word := BitVec.ofNat 32 (clzN 32 a.toNat)
def ctzW (a : Word) : Word := BitVec.ofNat 32 (ctzN 32 a.toNat)
def brevW (a : Word) : Word := BitVec.ofNat 32 (brevN 32 a.toNat)

/-- The field a control word names: its position and its length (R120). -/
def fieldPos (b : Word) : Nat := bits b.toNat 0 5
def fieldLen (b : Word) : Nat := min (min (bits b.toNat 8 6) 32) (32 - fieldPos b)

/-- Bit fields (R120). -/
def bfeZW (a b : Word) : Word := BitVec.ofNat 32 (bits a.toNat (fieldPos b) (fieldLen b))
def bfeSW (a b : Word) : Word :=
  if fieldLen b = 0 then 0#32 else w32 (sxNat (fieldLen b) (bits a.toNat (fieldPos b) (fieldLen b)))
def bfiW (a b d : Word) : Word :=
  BitVec.ofNat 32 (d.toNat - bits d.toNat (fieldPos b) (fieldLen b) * 2 ^ fieldPos b
    + bits a.toNat 0 (fieldLen b) * 2 ^ fieldPos b)
def prmtW (a b d : Word) : Word :=
  BitVec.ofNat 32 ((List.range 4).map fun i =>
    let sel := bits b.toNat (4 * i) 4
    (if 8 ≤ sel then 0 else bits (d.toNat * 2 ^ 32 + a.toNat) (8 * sel) 8) * 2 ^ (8 * i)).sum

/-- 64-bit operations (R121). -/
def shl64W (a : DWord) (b : Word) : DWord :=
  if 64 ≤ b.toNat then 0#64 else BitVec.ofNat 64 (a.toNat * 2 ^ b.toNat)
def shr64W (a : DWord) (b : Word) : DWord :=
  if 64 ≤ b.toNat then 0#64 else BitVec.ofNat 64 (a.toNat / 2 ^ b.toNat)
def sar64W (a : DWord) (b : Word) : DWord := w64 (a.toInt / 2 ^ min b.toNat 64)
def imulwW (a b : Word) : DWord := w64 (sx a * sx b)
def imulwZW (a b : Word) : DWord := w64 (zx a * zx b)

/-! ## MAJ 0x18: add and subtract (R115) -/

def execIadd (d a b : BitVec 7) (u : BitVec 1) (s : State) : Out := s.runParty 1 (alu2 d a b u fun x y => x + y)
def execIsub (d a b : BitVec 7) (u : BitVec 1) (s : State) : Out := s.runParty 1 (alu2 d a b u fun x y => x - y)
def execIaddSs (d a b : BitVec 7) (u : BitVec 1) (s : State) : Out :=
  s.runParty 1 (alu2 d a b u fun x y => satS (sx x + sx y))
def execIaddZs (d a b : BitVec 7) (u : BitVec 1) (s : State) : Out :=
  s.runParty 1 (alu2 d a b u fun x y => satZ (zx x + zx y))
def execIsubSs (d a b : BitVec 7) (u : BitVec 1) (s : State) : Out :=
  s.runParty 1 (alu2 d a b u fun x y => satS (sx x - sx y))
def execIsubZs (d a b : BitVec 7) (u : BitVec 1) (s : State) : Out :=
  s.runParty 1 (alu2 d a b u fun x y => satZ (zx x - zx y))
def execIabsd (d a b : BitVec 7) (u : BitVec 1) (s : State) : Out := s.runParty 1 (alu2 d a b u iabsdW)
def execIavg (d a b : BitVec 7) (u : BitVec 1) (s : State) : Out := s.runParty 1 (alu2 d a b u iavgW)

/-! ## MAJ 0x19: 64-bit operations (R121) -/

def execIadd64 (d a b : BitVec 7) (u : BitVec 1) (s : State) : Out := s.runParty 1 (alu64 d a b u fun x y => x + y)
def execIsub64 (d a b : BitVec 7) (u : BitVec 1) (s : State) : Out := s.runParty 1 (alu64 d a b u fun x y => x - y)
def execShl64 (d a b : BitVec 7) (u : BitVec 1) (s : State) : Out := s.runParty 1 (aluShift64 d a b u shl64W)
def execShr64 (d a b : BitVec 7) (u : BitVec 1) (s : State) : Out := s.runParty 1 (aluShift64 d a b u shr64W)
def execSar64 (d a b : BitVec 7) (u : BitVec 1) (s : State) : Out := s.runParty 1 (aluShift64 d a b u sar64W)
def execImulw (d a b : BitVec 7) (u : BitVec 1) (s : State) : Out := s.runParty 1 (aluWide d a b u imulwW)
def execImulwZ (d a b : BitVec 7) (u : BitVec 1) (s : State) : Out := s.runParty 1 (aluWide d a b u imulwZW)

/-! ## MAJ 0x1A: multiplication (R116) -/

def execImul (d a b : BitVec 7) (u : BitVec 1) (s : State) : Out := s.runParty 1 (alu2 d a b u fun x y => x * y)
def execImulhS (d a b : BitVec 7) (u : BitVec 1) (s : State) : Out := s.runParty 1 (alu2 d a b u imulhSW)
def execImulhZ (d a b : BitVec 7) (u : BitVec 1) (s : State) : Out := s.runParty 1 (alu2 d a b u imulhZW)
def execImad (d a b : BitVec 7) (u : BitVec 1) (s : State) : Out := s.runParty 1 (alu3 d a b u fun x y z => x * y + z)
def execIdot4S (d a b : BitVec 7) (u : BitVec 1) (s : State) : Out := s.runParty 1 (alu3 d a b u idot4SW)
def execIdot4Z (d a b : BitVec 7) (u : BitVec 1) (s : State) : Out := s.runParty 1 (alu3 d a b u idot4ZW)
def execIdot2 (d a b : BitVec 7) (u : BitVec 1) (s : State) : Out := s.runParty 1 (alu3 d a b u idot2W)

/-! ## MAJ 0x1B: minimum, maximum, sign (R117) -/

def execIminS (d a b : BitVec 7) (u : BitVec 1) (s : State) : Out := s.runParty 1 (alu2 d a b u iminSW)
def execIminZ (d a b : BitVec 7) (u : BitVec 1) (s : State) : Out := s.runParty 1 (alu2 d a b u iminZW)
def execImaxS (d a b : BitVec 7) (u : BitVec 1) (s : State) : Out := s.runParty 1 (alu2 d a b u imaxSW)
def execImaxZ (d a b : BitVec 7) (u : BitVec 1) (s : State) : Out := s.runParty 1 (alu2 d a b u imaxZW)
def execIabs (d a : BitVec 7) (u : BitVec 1) (s : State) : Out := s.runParty 1 (alu1 d a u iabsW)
def execIneg (d a : BitVec 7) (u : BitVec 1) (s : State) : Out := s.runParty 1 (alu1 d a u fun x => -x)
def execIsgn (d a : BitVec 7) (u : BitVec 1) (s : State) : Out := s.runParty 1 (alu1 d a u isgnW)

/-! ## MAJ 0x1C: logic (R118) -/

def execAnd (d a b : BitVec 7) (u : BitVec 1) (s : State) : Out := s.runParty 1 (alu2 d a b u fun x y => x &&& y)
def execOr (d a b : BitVec 7) (u : BitVec 1) (s : State) : Out := s.runParty 1 (alu2 d a b u fun x y => x ||| y)
def execXor (d a b : BitVec 7) (u : BitVec 1) (s : State) : Out := s.runParty 1 (alu2 d a b u fun x y => x ^^^ y)
def execAndn (d a b : BitVec 7) (u : BitVec 1) (s : State) : Out := s.runParty 1 (alu2 d a b u fun x y => x &&& ~~~y)
def execOrn (d a b : BitVec 7) (u : BitVec 1) (s : State) : Out := s.runParty 1 (alu2 d a b u fun x y => x ||| ~~~y)
def execXnor (d a b : BitVec 7) (u : BitVec 1) (s : State) : Out :=
  s.runParty 1 (alu2 d a b u fun x y => ~~~(x ^^^ y))
def execNot (d a : BitVec 7) (u : BitVec 1) (s : State) : Out := s.runParty 1 (alu1 d a u fun x => ~~~x)

/-! ## MAJ 0x1D: shifts (R119) -/

def execShl (d a b : BitVec 7) (u : BitVec 1) (s : State) : Out := s.runParty 1 (alu2 d a b u shlW)
def execShr (d a b : BitVec 7) (u : BitVec 1) (s : State) : Out := s.runParty 1 (alu2 d a b u shrW)
def execSar (d a b : BitVec 7) (u : BitVec 1) (s : State) : Out := s.runParty 1 (alu2 d a b u sarW)
def execRol (d a b : BitVec 7) (u : BitVec 1) (s : State) : Out := s.runParty 1 (alu2 d a b u rolW)
def execRor (d a b : BitVec 7) (u : BitVec 1) (s : State) : Out := s.runParty 1 (alu2 d a b u rorW)
def execFshl (d a b : BitVec 7) (u : BitVec 1) (s : State) : Out := s.runParty 1 (alu3 d a b u fshlW)
def execFshr (d a b : BitVec 7) (u : BitVec 1) (s : State) : Out := s.runParty 1 (alu3 d a b u fshrW)

/-! ## MAJ 0x1E: counts and bit fields (R120) -/

def execPopc (d a : BitVec 7) (u : BitVec 1) (s : State) : Out := s.runParty 1 (alu1 d a u popcW)
def execClz (d a : BitVec 7) (u : BitVec 1) (s : State) : Out := s.runParty 1 (alu1 d a u clzW)
def execCtz (d a : BitVec 7) (u : BitVec 1) (s : State) : Out := s.runParty 1 (alu1 d a u ctzW)
def execBrev (d a : BitVec 7) (u : BitVec 1) (s : State) : Out := s.runParty 1 (alu1 d a u brevW)
def execBfeZ (d a b : BitVec 7) (u : BitVec 1) (s : State) : Out := s.runParty 1 (alu2 d a b u bfeZW)
def execBfeS (d a b : BitVec 7) (u : BitVec 1) (s : State) : Out := s.runParty 1 (alu2 d a b u bfeSW)
def execBfi (d a b : BitVec 7) (u : BitVec 1) (s : State) : Out := s.runParty 1 (alu3 d a b u bfiW)
def execPrmt (d a b : BitVec 7) (u : BitVec 1) (s : State) : Out := s.runParty 1 (alu3 d a b u prmtW)

/-! ## Comparison and selection (R122, R123) -/

def execIsetp (d : BitVec 3) (a b : BitVec 7) (u : BitVec 1) (c : BitVec 3) (s : State) : Out :=
  s.runParty 1 fun env p => do
    useRegs env p [useA a u, .v b.toNat]
    pure (p.setPred d.toNat fun l => intCond c (p.opA a u l) (p.vreg b.toNat l))

def execSsetq (d : BitVec 3) (a b : BitVec 7) (c : BitVec 3) (s : State) : Out :=
  s.runParty 1 fun env p => do
    useRegs env p [.u a.toNat, .u b.toNat]
    pure (p.setQ d.toNat (intCond c (p.ureg a.toNat) (p.ureg b.toNat)))

def execSel (d a b : BitVec 7) (u : BitVec 1) (n : BitVec 3) (s : State) : Out :=
  s.runParty 1 fun env p => do
    useRegs env p [.v d.toNat, useA a u, .v b.toNat]
    pure (p.setV d.toNat fun l => if (p.pred n.toNat).getLsbD l then p.opA a u l else p.vreg b.toNat l)

/-! ## Immediates and literals (R124) -/

/-- The sign-extended immediate of an I-format word. -/
def imm11 (i : BitVec 11) : Word := w32 i.toInt

def execIaddi (d a : BitVec 7) (i : BitVec 11) (s : State) : Out :=
  s.runParty 1 (alu1 d a 0#1 fun x => x + imm11 i)

def execMovi (d : BitVec 7) (i : BitVec 11) (s : State) : Out :=
  s.runParty 1 fun env p => do
    useRegs env p [.v d.toNat]
    pure (p.setV d.toNat fun _ => imm11 i)

def execMovl (d a : BitVec 7) (lit : BitVec 32) (s : State) : Out :=
  s.runParty 2 fun env p => do
    useRegs env p [if a = 0#7 then .v d.toNat else .u d.toNat]
    pure (if a = 0#7 then p.setV d.toNat fun _ => lit else p.setU d.toNat lit)

def execSaddi (d a : BitVec 7) (i : BitVec 11) (s : State) : Out := s.runParty 1 (uni1 d a fun x => x + imm11 i)

def execSmovi (d : BitVec 7) (i : BitVec 11) (s : State) : Out :=
  s.runParty 1 fun env p => do
    useRegs env p [.u d.toNat]
    pure (p.setU d.toNat (imm11 i))

/-! ## Addresses (R125) -/

/-- The windows and aliases of the address space (R268). -/
def privAliasBase : Nat := 0xFFFFE00000000000
def scratchAliasBase : Nat := 0xFFFFF00000000000
def privWindowBase : Nat := 0xFFFFFFFE00000000
def scratchWindowBase : Nat := 0xFFFFFFFF00000000

/-- PrivAlias and ScratchAlias (R269). -/
def privAlias (k party lane o : Nat) : Nat := privAliasBase + k * 2 ^ 27 + (32 * party + lane) * 2 ^ 16 + o
def scratchAlias (k o : Nat) : Nat := scratchAliasBase + k * 2 ^ 18 + o

/-- GlobalAlias (R125). -/
def globalAlias (env : Env) (lane : Nat) (x : DWord) : DWord :=
  let n := x.toNat
  if privWindowBase ≤ n ∧ n < privWindowBase + 2 ^ 32 ∧ n - privWindowBase < env.privSize then
    BitVec.ofNat 64 (privAlias env.slot env.pi lane (n - privWindowBase))
  else if scratchWindowBase ≤ n ∧ n < scratchWindowBase + 2 ^ 32 ∧ n - scratchWindowBase < env.desc.scratch then
    BitVec.ofNat 64 (scratchAlias env.slot (n - scratchWindowBase))
  else x

/-- w64(a + sx(b)). -/
def leaSum (a : DWord) (b : Word) : DWord := a + w64 (sx b)

def execLea (d a b : BitVec 7) (s : State) : Out :=
  s.runParty 1 fun env p => do
    useRegs env p [.vp d.toNat, .vp a.toNat, .v b.toNat]
    pure (p.setVPair d.toNat fun l => leaSum (p.vpair a.toNat l) (p.vreg b.toNat l))

def execLeaG (d a b : BitVec 7) (s : State) : Out :=
  s.runParty 1 fun env p => do
    useRegs env p [.vp d.toNat, .vp a.toNat, .v b.toNat]
    pure (p.setVPair d.toNat fun l => globalAlias env l (leaSum (p.vpair a.toNat l) (p.vreg b.toNat l)))

def execSlea (d a b : BitVec 7) (s : State) : Out :=
  s.runParty 1 fun env p => do
    useRegs env p [.up d.toNat, .up a.toNat, .u b.toNat]
    pure (p.setUPair d.toNat (leaSum (p.upair a.toNat) (p.ureg b.toNat)))

def execSleaG (d a b : BitVec 7) (s : State) : Out :=
  s.runParty 1 fun env p => do
    useRegs env p [.up d.toNat, .up a.toNat, .u b.toNat]
    pure (p.setUPair d.toNat
      (globalAlias env ((lanesOf p.exm).headD 0) (leaSum (p.upair a.toNat) (p.ureg b.toNat))))

/-! ## Moves and special registers (R126, R127) -/

def execMov (d a : BitVec 7) (u : BitVec 1) (s : State) : Out := s.runParty 1 (alu1 d a u fun x => x)

/-- Whether a special register is per lane (R62). -/
def specPerLane (n : Nat) : Bool := n == 0x10

/-- Whether a special register is 64 bits wide (R62). -/
def specWide (n : Nat) : Bool := n == 0x09 || n == 0x12 || n == 0x13 || n == 0x1B || n == 0x1C

/-- Whether a special number is assigned, and whether MTS may write it (R62). -/
def specAssigned (n : Nat) : Bool := n ≤ 0x09 || (0x10 ≤ n && n ≤ 0x16) || (0x18 ≤ n && n ≤ 0x1C)
def specWritable (n : Nat) : Bool := specAssigned n && n != 0x02 && !(0x10 ≤ n && n ≤ 0x16) && n != 0x1A && n != 0x1C

/-- A 32-bit special register (R62). -/
def Party.spec32 (env : Env) (p : Party) (n : Nat) : Word :=
  match n with
  | 0x00 => p.exm
  | 0x01 => p.top.fmt
  | 0x02 => p.gang
  | 0x03 => p.vwb
  | 0x04 => p.swb
  | 0x05 => (p.ix.getD 0 0).setWidth 32
  | 0x06 => (p.ix.getD 1 0).setWidth 32
  | 0x07 => (p.ix.getD 2 0).setWidth 32
  | 0x08 => (p.ix.getD 3 0).setWidth 32
  | 0x11 => BitVec.ofNat 32 env.pi
  | 0x14 => BitVec.ofNat 32 env.stage
  | 0x15 => BitVec.ofNat 32 env.die
  | 0x16 => BitVec.ofNat 32 env.core
  | 0x18 => p.aflags.setWidth 32
  | 0x19 => p.tmask
  | 0x1A => p.tcause
  | _ => 0#32

/-- A 64-bit special register (R62). -/
def Party.spec64 (env : Env) (p : Party) (n : Nat) : DWord :=
  match n with
  | 0x09 => p.lnk
  | 0x12 => env.cidx
  | 0x13 => env.frame
  | 0x1B => p.xpc
  | 0x1C => env.time
  | _ => 0#64

def execMfs (d a : BitVec 7) (s : State) : Out :=
  s.runParty 1 fun env p => do
    need (specAssigned a.toNat) (Trap.ill 0)
    if specPerLane a.toNat then do
      useRegs env p [.v d.toNat]
      pure (p.setV d.toNat fun l => BitVec.ofNat 32 l)
    else if specWide a.toNat then do
      useRegs env p [.up d.toNat]
      pure (p.setUPair d.toNat (p.spec64 env a.toNat))
    else do
      useRegs env p [.u d.toNat]
      pure (p.setU d.toNat (p.spec32 env a.toNat))

/-- A window base that R57 admits. -/
def windowOk (lim : Nat) (x : Nat) : Bool := x % 16 == 0 && x < lim

/-- `vwb` or `swb` set, or RBX of class 2 (R57, R339). -/
def Party.setWindow (env : Env) (p : Party) (uni : Bool) (x : Word) : Except Trap Party :=
  if windowOk (if uni then env.desc.uregs else env.desc.vregs) x.toNat then
    .ok (if uni then { p with swb := x } else { p with vwb := x })
  else .error (Trap.rbx x.toNat 2)

/-- `fmt` with the bits MTS keeps (R64, R127). -/
def fmtBits (x : Word) : Word := x &&& 0xFFFF0007#32

/-- MTS's effect on each register but `exm` (R127). -/
def Party.setSpec (env : Env) (p : Party) (n : Nat) (x : Word) (y : DWord) : Except Trap Party :=
  match n with
  | 0x01 => .ok (p.modTop fun e => { e with fmt := fmtBits x })
  | 0x03 => p.setWindow env false x
  | 0x04 => p.setWindow env true x
  | 0x05 => .ok { p with ix := p.ix.set 0 (x.setWidth 9) }
  | 0x06 => .ok { p with ix := p.ix.set 1 (x.setWidth 9) }
  | 0x07 => .ok { p with ix := p.ix.set 2 (x.setWidth 9) }
  | 0x08 => .ok { p with ix := p.ix.set 3 (x.setWidth 9) }
  | 0x09 => .ok { p with lnk := y }
  | 0x18 => .ok { p with aflags := x.setWidth 5 }
  | 0x19 => .ok { p with tmask := x &&& 0x11F#32 }
  | 0x1B => .ok { p with xpc := y }
  | _ => .ok p

def execMts (d a : BitVec 7) (s : State) : Out :=
  s.runJump fun env p => do
    need (specWritable d.toNat) (Trap.ill 0)
    useRegs env p [if specWide d.toNat then .up a.toNat else .u a.toNat]
    if d = 0#7 then pure (p.restrict (p.ureg a.toNat))
    else do
      let q ← p.setSpec env d.toNat (p.ureg a.toNat) (p.upair a.toNat)
      pure (q.advance 1)

/-- The physical register that VXGET and VXPUT reach (R60). -/
def Party.indexed (p : Party) (k : BitVec 2) (b : BitVec 7) : Nat := (p.ix.getD k.toNat 0).toNat + b.toNat

/-- Checks the named register of VXGET or VXPUT and the one it reaches, which bypasses the window (R56, R60, R126). -/
def useIndexed (env : Env) (p : Party) (d r : Nat) : Except Trap Unit :=
  noneOutside env ((RegUse.v d).outside env p ++ if r < env.desc.vregs ∧ r ≤ 511 then [] else [(r, 0)])

def execVxget (d : BitVec 7) (k : BitVec 2) (b : BitVec 7) (s : State) : Out :=
  s.runParty 1 fun env p => do
    useIndexed env p d.toNat (p.indexed k b)
    pure (p.setV d.toNat fun l => p.vphys (p.indexed k b) l)

def execVxput (d : BitVec 7) (k : BitVec 2) (b : BitVec 7) (s : State) : Out :=
  s.runParty 1 fun env p => do
    useIndexed env p d.toNat (p.indexed k b)
    pure (p.setPhys (p.indexed k b) p.exm fun l => p.vreg d.toNat l)

/-- The eight vector predicates of a lane as a number, p0 lowest. -/
def Party.predBits (p : Party) (l : Nat) : Nat :=
  ((List.range 8).map fun k => b2n ((p.pred k).getLsbD l) * 2 ^ k).sum

def execP2v (d : BitVec 7) (a : BitVec 1) (s : State) : Out :=
  s.runParty 1 fun env p => do
    useRegs env p [if a = 0#1 then .v d.toNat else .u d.toNat]
    pure (if a = 0#1 then p.setV d.toNat fun l => BitVec.ofNat 32 (p.predBits l)
      else p.setU d.toNat (BitVec.ofNat 32 ((List.range 8).map fun k => b2n (p.upred k) * 2 ^ k).sum))

def execV2p (d : BitVec 1) (a : BitVec 7) (s : State) : Out :=
  s.runParty 1 fun env p => do
    useRegs env p [if d = 0#1 then .v a.toNat else .u a.toNat]
    pure (if d = 0#1 then
        (List.range 8).foldl (fun q k => q.setPred k fun l => (p.vreg a.toNat l).getLsbD k) p
      else (List.range 7).foldl (fun q k => q.setQ k ((p.ureg a.toNat).getLsbD k)) p)

def execUvget (d a b : BitVec 7) (s : State) : Out :=
  s.runParty 1 fun env p => do
    useRegs env p [.u d.toNat, .v a.toNat, .u b.toNat]
    pure (p.setU d.toNat (p.vreg a.toNat ((p.ureg b.toNat).toNat % 32)))

/-! ## Uniform families (R129) -/

def execSadd (d a b : BitVec 7) (s : State) : Out := s.runParty 1 (uni2 d a b fun x y => x + y)
def execSsub (d a b : BitVec 7) (s : State) : Out := s.runParty 1 (uni2 d a b fun x y => x - y)
def execSmul (d a b : BitVec 7) (s : State) : Out := s.runParty 1 (uni2 d a b fun x y => x * y)
def execSand (d a b : BitVec 7) (s : State) : Out := s.runParty 1 (uni2 d a b fun x y => x &&& y)
def execSor (d a b : BitVec 7) (s : State) : Out := s.runParty 1 (uni2 d a b fun x y => x ||| y)
def execSxor (d a b : BitVec 7) (s : State) : Out := s.runParty 1 (uni2 d a b fun x y => x ^^^ y)
def execSshl (d a b : BitVec 7) (s : State) : Out := s.runParty 1 (uni2 d a b shlW)
def execSshr (d a b : BitVec 7) (s : State) : Out := s.runParty 1 (uni2 d a b shrW)
def execSminS (d a b : BitVec 7) (s : State) : Out := s.runParty 1 (uni2 d a b iminSW)
def execSmaxS (d a b : BitVec 7) (s : State) : Out := s.runParty 1 (uni2 d a b imaxSW)
def execSminZ (d a b : BitVec 7) (s : State) : Out := s.runParty 1 (uni2 d a b iminZW)
def execSmaxZ (d a b : BitVec 7) (s : State) : Out := s.runParty 1 (uni2 d a b imaxZW)
def execSadd64 (d a b : BitVec 7) (s : State) : Out := s.runParty 1 (uni64 d a b fun x y => x + y)
def execSsub64 (d a b : BitVec 7) (s : State) : Out := s.runParty 1 (uni64 d a b fun x y => x - y)
def execSsar (d a b : BitVec 7) (s : State) : Out := s.runParty 1 (uni2 d a b sarW)
def execSpopc (d a : BitVec 7) (s : State) : Out := s.runParty 1 (uni1 d a popcW)

end Sys2Proof.Machine
end

