-- ==== Sys2Proof/Machine/Translate.lean ====
section
/-! DEFINITION. The address space (R268 to R270), page tables and their walk (R271 to R276), shadow frames (R278), the
TLBs (R280), and the fault queue (R283, R284). -/

namespace Sys2Proof.Machine

/-- What an access does to memory, as INFO and fault records code it (R339, R283). -/
inductive Access where
  | read
  | write
  | atomic
  | fetch
  deriving DecidableEq, Repr

def Access.code : Access → Nat
  | .read => 0
  | .write => 1
  | .atomic => 2
  | .fetch => 3

/-- A translation that fails for good: PRT or PGF, and its reason (R282). -/
structure BadPage where
  prt : Bool
  reason : Nat
  deriving DecidableEq, Repr

def BadPage.noncanon : BadPage := { prt := false, reason := 1 }
def BadPage.badPte : BadPage := { prt := false, reason := 2 }
def BadPage.noCtx : BadPage := { prt := false, reason := 3 }
def BadPage.aliasFree : BadPage := { prt := false, reason := 4 }
def BadPage.perm : BadPage := { prt := true, reason := 0 }
def BadPage.hidden : BadPage := { prt := true, reason := 1 }
def BadPage.window : BadPage := { prt := true, reason := 2 }
def BadPage.contrib : BadPage := { prt := true, reason := 3 }
def BadPage.type : BadPage := { prt := true, reason := 4 }
def BadPage.place : BadPage := { prt := true, reason := 5 }

/-- The cause of a bad translation for a party: code, reason, lane and access (R338, R339). -/
def BadPage.trap (b : BadPage) (lane : Nat) (a : Access) : Trap :=
  { cause := if b.prt then 0x11 else 0x10, info := b.reason + 16 * lane + 512 * a.code, addr := none }

/-- PGF NOTMAPPED, ALN, INT and DWR at a lane (R339). -/
def Trap.notMapped (lane : Nat) (a : Access) : Trap :=
  { cause := 0x10, info := 16 * lane + 512 * a.code, addr := none }
def Trap.aln (lane : Nat) (a : Access) : Trap := { cause := 0x12, info := 16 * lane + 512 * a.code, addr := none }
def Trap.int (lane : Nat) (a : Access) (poisoned : Bool) : Trap :=
  { cause := 0x13, info := 16 * lane + 512 * a.code + 2048 * b2n poisoned, addr := none }
def Trap.dwr (lane : Nat) (a : Access) : Trap := { cause := 0x14, info := 16 * lane + 512 * a.code, addr := none }

/-! ## Addresses -/

/-- Bits 63:57 equal bit 56 (R61). -/
def canonical (a : Nat) : Bool := bits a 57 7 == (if bit a 56 then 127 else 0)

/-- A valid fabric physical address (R275, R316). Bits that no field of an on-chip address covers must be zero (log 8). -/
def State.fpaValid (s : State) (a : Nat) : Bool :=
  a < 2 ^ 56 &&
  match fpaClass a with
  | 0 => bits a 41 13 == 0 && bits a 0 38 < 192 * 2 ^ 30
  | 1 => bits a 47 7 == 0 && bits a 0 38 < 192 * 2 ^ 30 && fpaPkg a != s.pkg
  | 2 => bits a 50 4 == 0
  | _ =>
    match bits a 50 4 with
    | 0 => bits a 41 9 == 0 && bits a 31 7 < 96 && bits a 17 14 == 0
    | 1 => bits a 41 9 == 0 && bits a 32 5 < 24
        && (if bit a 37 then bits a 21 11 == 0 else bits a 22 10 == 0)
    | 2 => bits a 48 2 == 0
    | _ => false

/-- The address lies in tile memory (R316). -/
def isTile (a : Nat) : Bool := fpaClass a == 3 && bits a 50 4 == 1 && bit a 37

/-- The address lies in some context's hidden carve-out (R270, R272). -/
def State.inCarveOut (s : State) (a : Nat) : Bool :=
  s.ctxs.any fun c =>
    let lo := bits c.2.hidb.toNat 16 40 * 65536
    lo ≤ a && a < lo + bits c.2.hids.toNat 0 32 * 65536

/-- The address lies in a node's control page (R362). -/
def inControlPage (a : Nat) : Bool := fpaClass a == 2 && 2 ^ 45 - 65536 ≤ bits a 0 45

/-! ## The walk -/

/-- The outcome of a walk (R273): a leaf, no valid entry at a level, or a bad table. -/
inductive WalkResult where
  | leaf (l : Leaf)
  | notMapped (level : Nat)
  | bad
  deriving DecidableEq, Repr

/-- The page type and the home of a leaf (R274). -/
def pageTypeOf (n : Nat) : PageType :=
  match n with | 0 => .normal | 1 => .wcomb | 2 => .device | _ => .strong
def homeKindOf (n : Nat) : HomeKind :=
  match n with | 0 => .core | 1 => .slice | 2 => .cached | _ => .nocache

/-- The codes of a page type and a home, as CPROBE reports them (R181). -/
def PageType.code : PageType → Nat | .normal => 0 | .wcomb => 1 | .device => 2 | .strong => 3
def HomeKind.code : HomeKind → Nat | .core => 0 | .slice => 1 | .cached => 2 | .nocache => 3

/-- The fields of a leaf entry (R274). -/
def leafOf (e size : Nat) : Leaf :=
  { size := size, frame := bits e 16 40 * 65536, r := bit e 2, w := bit e 3, x := bit e 4,
    home := homeKindOf (bits e 6 2), typ := pageTypeOf (bits e 8 2), shadow := bit e 10, contrib := bit e 12,
    op := bits e 64 3, format := bits e 68 3, slot := bits e 72 6, chunk := bits e 78 4, rtoff := bits e 82 14 }

/-- The reserved bits of a leaf entry are zero (R274). -/
def leafReserved (e : Nat) : Bool :=
  bits e 5 1 == 0 && bits e 11 1 == 0 && bits e 13 3 == 0 && bits e 56 8 == 0 && bits e 67 1 == 0 && bits e 71 1 == 0
    && bits e 96 32 == 0 && (bit e 12 || bits e 64 32 == 0)

/-- Everything R276 asks of a leaf but what it asks of a contribution page's twin. That a contribution page's OP and FORMAT have a meaning is
asked too (DESIGN CHOICE, log 99). -/
def State.leafOk (s : State) (l : Leaf) : Bool :=
  let c := fpaClass l.frame
  let sub := bits l.frame 50 4
  let soft := l.typ == .normal || l.typ == .wcomb
  s.fpaValid l.frame && l.frame % l.size == 0 &&
  (match l.home with
    | .core => c == 3 && sub == 0 && l.size == 65536 && soft
    | .slice => c == 3 && sub == 1 && l.size == 65536 && soft
    | .cached => c != 3 && soft
    | .nocache => !(c == 3 && sub ≤ 1)) &&
  (soft || (l.home == .nocache && !l.shadow && !l.contrib)) &&
  (!l.shadow || (l.home == .nocache && c == 0 && soft && l.frame % (2 * l.size) == 0)) &&
  (!l.contrib || (l.size == 65536 && l.home == .nocache && c == 0 && l.typ == .normal && l.w && !l.r && !l.x
    && l.chunk ≤ 10 && l.op ≤ 2 && l.format ≤ 3))

/-- A 16-byte table entry at its home (R273). On a failed die it reads as no valid entry does, all ones (DEDUCED, log 102). -/
def State.pte (s : State) (table idx : Nat) : Nat :=
  if s.homeFailed (table + 16 * idx) then 2 ^ 128 - 1 else s.mem.readNat (table + 16 * idx) 16

/-- A pointer entry is well formed: not a leaf, nothing but V and FRAME in it, and FRAME of class 0 (R273, R274). Whether that FRAME is a
valid address is not asked (DESIGN CHOICE, log 97). -/
def pointerOk (e : Nat) : Bool :=
  bits e 1 1 == 0 && bits e 2 14 == 0 && bits e 56 72 == 0 && fpaClass (bits e 16 40 * 65536) == 0

/-- The first virtual address of the page that holds a byte. -/
def pageBase (size va : Nat) : Nat := va / size * size

/-- The walk cache holds a pointer (R280). -/
def cachedPointer (cache : List PointerEntry) (ctx level key : Nat) : Option Nat :=
  (cache.find? fun e => e.ctx == ctx && e.level == level && e.key == key).map (·.value)

/-- A pointer that the walk cache holds, or the entry at its home (R280): where they differ a free value says which (R281). -/
def State.pointerAt (s : State) (cache : List PointerEntry) (ctx level key table idx : Nat) : Nat :=
  match cachedPointer cache ctx level key with
  | some v => if v = s.pte table idx ∨ s.homeFailed (table + 16 * idx) ∨ Config.freeBit (freeIndex s.fresh (2 ^ 57 + level * 2 ^ 30 + key)) then v else s.pte table idx
  | none => s.pte table idx

/-- The pointers a walk reads on its way down, one for each upper level it comes to (R273). -/
def State.pointers (s : State) (cache : List PointerEntry) (ctx va : Nat) : Nat × Nat × Nat :=
  let root := bits (s.ctx ctx).ctxpt.toNat 9 47 * 512
  let e1 := s.pointerAt cache ctx 1 (bits va 52 5) root (bits va 52 5)
  let e2 := s.pointerAt cache ctx 2 (bits va 40 17) (bits e1 16 40 * 65536) (bits va 40 12)
  (e1, e2, s.pointerAt cache ctx 3 (bits va 28 29) (bits e2 16 40 * 65536) (bits va 28 12))

/-- The walk of R273, without the check of a contribution page's twin, by a walker that holds `cache` (R280). A ROOT is read as a table
whether or not it is a valid address (DESIGN CHOICE, log 97), and an entry with V = 0 is not mapped, whatever else it holds (DESIGN CHOICE,
log 98). -/
def State.walkRaw (s : State) (cache : List PointerEntry) (ctx va : Nat) : WalkResult :=
  if fpaClass (bits (s.ctx ctx).ctxpt.toNat 9 47 * 512) ≠ 0 then .bad else
  let (e1, e2, e3) := s.pointers cache ctx va
  if !bit e1 0 then .notMapped 1 else
  if !pointerOk e1 then .bad else
  if !bit e2 0 then .notMapped 2 else
  if !pointerOk e2 then .bad else
  if !bit e3 0 then .notMapped 3 else
  if bit e3 1 then
    if leafReserved e3 && s.leafOk (leafOf e3 (2 ^ 28)) then .leaf (leafOf e3 (2 ^ 28)) else .bad
  else if !pointerOk e3 then .bad else
  let e4 := s.pte (bits e3 16 40 * 65536) (bits va 16 12)
  if !bit e4 0 then .notMapped 4 else
  if bit e4 1 && leafReserved e4 && s.leafOk (leafOf e4 65536) then .leaf (leafOf e4 65536) else .bad

/-- The virtual address of a contribution page's result twin (R274), and that it lies above 0. -/
def twinVa (l : Leaf) (page : Nat) : Nat :=
  ((page : Int) + sxNat 14 l.rtoff * 65536).toNat
def hasTwin (l : Leaf) (page : Nat) : Bool := decide (0 ≤ (page : Int) + sxNat 14 l.rtoff * 65536)

/-- The walk of R273, with R276's condition on a contribution page's twin. -/
def State.walkWith (s : State) (cache : List PointerEntry) (ctx va : Nat) : WalkResult :=
  match s.walkRaw cache ctx va with
  | .leaf l =>
    if l.contrib then
      if !hasTwin l (pageBase l.size va) then .bad else
      match s.walkRaw cache ctx (twinVa l (pageBase l.size va)) with
      | .leaf t => if fpaClass t.frame = 0 ∧ fpaDie t.frame = fpaDie l.frame then .leaf l else .bad
      | _ => .bad
    else .leaf l
  | r => r

/-- A walk that reads every level at its home. -/
def State.walk (s : State) (ctx va : Nat) : WalkResult := s.walkWith [] ctx va

/-- A walk by a die's walker (R280). -/
def State.walkOn (s : State) (die ctx va : Nat) : WalkResult := s.walkWith (s.die die).walkCache ctx va

/-- The table entries that a walk reads at their homes, those of the levels that it comes to. -/
def State.walkReads (s : State) (cache : List PointerEntry) (ctx va : Nat) : List Nat :=
  let root := bits (s.ctx ctx).ctxpt.toNat 9 47 * 512
  let (e1, e2, e3) := s.pointers cache ctx va
  let next := fun (e : Nat) => bits e 16 40 * 65536
  let read := fun (level key a : Nat) => if (cachedPointer cache ctx level key).isSome then [] else [a]
  let on := fun (e : Nat) => bit e 0 && pointerOk e
  read 1 (bits va 52 5) (root + 16 * bits va 52 5) ++
    if !on e1 then [] else read 2 (bits va 40 17) (next e1 + 16 * bits va 40 12) ++
      if !on e2 then [] else read 3 (bits va 28 29) (next e2 + 16 * bits va 28 12) ++
        if !on e3 then [] else [next e3 + 16 * bits va 16 12]

/-- The homes of the entries that a die's walk reads, those of a contribution page's twin among them. -/
def State.walkHomes (s : State) (die ctx va : Nat) : List Nat :=
  let cache := (s.die die).walkCache
  s.walkReads cache ctx va ++
    match s.walkRaw cache ctx va with
    | .leaf l => if l.contrib then s.walkReads cache ctx (twinVa l (pageBase l.size va)) else []
    | _ => []

/-- A walk reads a table on a failed die, and one on a die whose failure nothing has detected, so that it waits (R331). -/
def State.walkBroken (s : State) (die ctx va : Nat) : Bool := (s.walkHomes die ctx va).any s.homeFailed
def State.walkWaits (s : State) (die ctx va : Nat) : Bool :=
  (s.walkHomes die ctx va).any fun a => s.homeFailed a && !(s.die (fpaDie a)).detected

/-- An entry put into a walk cache, the oldest leaving when it is full. -/
def cachePointer (cache : List PointerEntry) (e : PointerEntry) : List PointerEntry :=
  (e :: cache.filter fun x => !(x.ctx == e.ctx && x.level == e.level && x.key == e.key)).take Config.walkCacheEntries

/-- What a walk that has ended leaves in its die's walk cache: the pointers it came by (R280); an entry that is not valid is
not cached (R274). -/
def State.cacheWalk (s : State) (die ctx va : Nat) : State :=
  let d := s.die die
  let (e1, e2, e3) := s.pointers d.walkCache ctx va
  let on := fun (e : Nat) => bit e 0 && pointerOk e
  let put := fun (b : Bool) (level key e : Nat) (c : List PointerEntry) =>
    if b then cachePointer c { ctx := ctx, level := level, key := key, value := e } else c
  s.putDie die { d with
    walkCache := put (on e1 && on e2 && on e3) 3 (bits va 28 29) e3 (put (on e1 && on e2) 2 (bits va 40 17) e2
      (put (on e1) 1 (bits va 52 5) e1 d.walkCache)) }

/-- The other frame of a shadow pair of frames from `f` on, each `size` bytes; other addresses stay (R278). -/
def swapFrames (f size a : Nat) : Nat :=
  if f ≤ a ∧ a < f + size then a + size else if f + size ≤ a ∧ a < f + 2 * size then a - size else a

/-- Where an access to a frame's byte goes: the frames of a pair whose SEL is 1 change places (R278, log 76). -/
def State.visible (s : State) (a : Nat) : Nat :=
  if fpaClass a = 0 then
    match (s.die (fpaDie a)).sel.find? fun x => x.1 ≤ a && a < x.1 + 2 * x.2 with
    | some x => swapFrames x.1 x.2 a
    | none => a
  else a

/-- The fabric physical address a leaf gives a byte. -/
def State.fpaOf (s : State) (l : Leaf) (va : Nat) : Nat := s.visible (l.frame + va % l.size)

/-! ## TLBs -/

/-- The entry covers an address of a context (R280, R209). -/
def TlbEntry.covers (e : TlbEntry) (ctx va : Nat) : Bool :=
  e.ctx == ctx && pageBase e.leaf.size va == e.va

/-- The leaves that entries give an address. -/
def leavesOf (l : List TlbEntry) (ctx va : Nat) : List Leaf := (l.filter fun e => e.covers ctx va).map (·.leaf)

/-- What the core's and its cluster's TLBs hold for an address (R280): an old and a new translation, where there are both (R281). -/
def State.tlbHeld (s : State) (die core ctx va : Nat) : List Leaf :=
  leavesOf (s.core die core).tlb ctx va ++ leavesOf ((s.die die).clusterTlb.getD (clusterOf core) []) ctx va

/-- What walks have brought an agent that has no TLB (R280), and keeps until a TLBI (R281). -/
def State.agentHeld (s : State) (die : Nat) (w : Waiter) (ctx va : Nat) : List Leaf :=
  leavesOf (((s.die die).agents.filter fun e => e.1 == w).map (·.2)) ctx va

/-- All that a die holds for an address: in its TLBs, with its agents, and with its operations. -/
def State.dieHeld (s : State) (die ctx va : Nat) : List Leaf :=
  let d := s.die die
  leavesOf (d.agents.map (·.2)) ctx va ++ d.clusterTlb.flatMap (fun t => leavesOf t.2 ctx va) ++
    (s.cores.filter fun e => e.1 / 96 == die).flatMap (fun e => leavesOf e.2.tlb ctx va) ++
    s.ops.flatMap fun e => leavesOf ((e.2.walked.filter fun x => x.1 == die).map (·.2)) ctx va

/-- A TLB with an entry filled, the oldest leaving when it is full; an older translation of the page stays beside it until a TLBI (R281). -/
def tlbFill (n : Nat) (t : List TlbEntry) (e : TlbEntry) : List TlbEntry := (e :: t.filter fun x => x != e).take n

/-- Fills a core's TLB and its cluster's (R280). -/
def State.fillTlb (s : State) (die core : Nat) (e : TlbEntry) : State :=
  let c := s.core die core
  let s1 := s.putCore die core { c with tlb := tlbFill Config.coreTlbEntries c.tlb e }
  let d := s1.die die
  let t := tlbFill Config.clusterTlbEntries (d.clusterTlb.getD (clusterOf core) []) e
  s1.putDie die { d with clusterTlb := d.clusterTlb.insert (clusterOf core) t }

/-! ## Homes (R277) -/

/-- The home slice of a line of a die's HBM (R277, chosen on this part). -/
def homeSlice (fpa : Nat) : Nat := (bits fpa 6 16 ^^^ bits fpa 22 16) % 24

/-- The home of a line: the one place where its value is settled (R173, R277). -/
inductive Home where
  | core (die core : Nat)
  | slice (die slice : Nat)
  | peer (pkg : Nat)
  | node (n : Nat)
  | host
  deriving DecidableEq, Repr

/-- The home of an address, by its class (R275, R277). A line of HBM is settled at its home slice. -/
def homeOf (fpa : Nat) : Home :=
  match fpaClass fpa with
  | 0 => .slice (fpaDie fpa) (homeSlice fpa)
  | 1 => .peer (fpaPkg fpa)
  | 2 => .node (fpaNode fpa)
  | _ =>
    match bits fpa 50 4 with
    | 0 => .core (fpaDie fpa) (bits fpa 31 7)
    | 1 => .slice (fpaDie fpa) (bits fpa 32 5)
    | _ => .host

/-- The die of this package that a home lies on. -/
def Home.die? : Home → Option Nat
  | .core d _ | .slice d _ => some d
  | _ => none

/-! ## Where an address lies -/

/-- A resolved address: a scratch byte of a task's troupe, or an address that the page tables translate. -/
inductive Place where
  | scratch (task off : Nat)
  | va (a : Nat)
  deriving DecidableEq, Repr

/-- The task of a context that holds an alias slot (R269). -/
def State.slotHolder (s : State) (ctx k : Nat) : Option (Nat × Task) :=
  s.tasks.find? fun e => e.2.ctx == ctx && e.2.slot == k

/-- An address that is no window: an alias region or the page tables' own (R268, R269). -/
def State.placeShared (s : State) (ctx a : Nat) : Except BadPage Place :=
  if !canonical a then .error .noncanon
  else if a < privAliasBase then .ok (.va a)
  else if a < scratchAliasBase then
    match s.slotHolder ctx ((a - privAliasBase) / 2 ^ 27) with
    | none => .error .aliasFree
    | some _ => if 2 ^ 26 ≤ (a - privAliasBase) % 2 ^ 27 then .error .hidden else .ok (.va a)
  else if a < scratchAliasBase + 2 ^ 35 then
    match s.slotHolder ctx ((a - scratchAliasBase) / 2 ^ 18) with
    | none => .error .aliasFree
    | some (t, x) =>
      if (a - scratchAliasBase) % 2 ^ 18 < x.desc.scratch then .ok (.scratch t ((a - scratchAliasBase) % 2 ^ 18))
      else .error .window
  else .error .noCtx

/-- A lane's address (R268, R269). -/
def State.placeLane (s : State) (env : Env) (lane a : Nat) : Except BadPage Place :=
  if privWindowBase ≤ a ∧ a < privWindowBase + 2 ^ 32 then
    if a - privWindowBase < env.privSize then
      s.placeShared env.ctx (privAlias env.slot env.pi lane (a - privWindowBase))
    else .error .window
  else if scratchWindowBase ≤ a then
    if !canonical a then .error .noncanon
    else if a - scratchWindowBase < env.desc.scratch then .ok (.scratch env.tid (a - scratchWindowBase))
    else .error .window
  else s.placeShared env.ctx a

/-- The access a leaf grants, after R272's hidden frames, R279's contribution pages and R362's control pages. -/
def State.permit (s : State) (l : Leaf) (fpa : Nat) (a : Access) : Except BadPage Unit :=
  if s.inCarveOut fpa then .error .hidden
  else if inControlPage fpa then .error .perm
  else if l.contrib && (a == .read || a == .atomic) then .error .contrib
  else
    match a with
    | .read => if l.r then .ok () else .error .perm
    | .write => if l.w then .ok () else .error .perm
    | .atomic => if l.w then .ok () else .error .perm
    | .fetch => if l.x then .ok () else .error .perm

/-- What a translation comes to: a leaf with the address it gives, a page to wait for, or a bad page. -/
inductive Look where
  | hit (l : Leaf) (fpa : Nat)
  | miss (page level : Nat)
  | bad (b : BadPage)
  deriving DecidableEq, Repr

/-- A leaf's translation of an address, and one of several, as a free value says. -/
def State.hitOf (s : State) (va : Nat) (l : Leaf) : Look := .hit l (s.fpaOf l va)
def State.pickLeaf (s : State) (va : Nat) (l : List Leaf) (none_ : Look) : Look :=
  match l with
  | [] => none_
  | [x] => s.hitOf va x
  | x :: r => s.hitOf va ((x :: r).getD (Config.freeNat (freeIndex s.fresh (2 ^ 58 + va)) % (r.length + 1)) x)

/-- The translation of an address for an agent that holds `mine`: by the leaf it holds, or else a page to wait for; a bad table is reported
at once (R280, R282). While the die still holds an older translation than the tables give, each access uses the one or the other, as a free
value says (R281). A table that is lost with its die makes no held translation old; a walk of it waits until the failure is detected
(R331). -/
def State.lookHeld (s : State) (mine : List Leaf) (die ctx va : Nat) : Look :=
  let new : Look :=
    match s.walkOn die ctx va with
    | .leaf l => if mine.any (· == l) then s.hitOf va l else .miss (va / 65536) 0
    | .bad => .bad .badPte
    | .notMapped n => .miss (va / 65536) n
  if s.walkBroken die ctx va then s.pickLeaf va mine.eraseDups (if s.walkWaits die ctx va then .miss (va / 65536) 0 else new)
  else
    let old := ((mine ++ s.dieHeld die ctx va).filter fun l => s.walkOn die ctx va != .leaf l).eraseDups
    if old.isEmpty || Config.freeBit (freeIndex s.fresh (2 ^ 59 + va)) then new else s.pickLeaf va old new

/-- Translation by a party: by its core's and its cluster's TLBs (R280). -/
def State.lookParty (s : State) (die core ctx a : Nat) : Look :=
  if !(bit (s.ctx ctx).ctxpt.toNat 0) then .bad .noCtx else s.lookHeld (s.tlbHeld die core ctx a) die ctx a

/-- Translation by an agent of a die that has no TLB (R280): the front end, a merge unit, the Porter. -/
def State.lookFor (s : State) (die : Nat) (w : Waiter) (ctx a : Nat) : Look :=
  if !(bit (s.ctx ctx).ctxpt.toNat 0) then .bad .noCtx else s.lookHeld (s.agentHeld die w ctx a) die ctx a

/-- Where an address lies, asked by no access: whose merge unit a frame has, which counter an event names. -/
def State.peek (s : State) (ctx a : Nat) : Look :=
  if !(bit (s.ctx ctx).ctxpt.toNat 0) then .bad .noCtx
  else
    match s.walk ctx a with
    | .leaf l => s.hitOf a l
    | .notMapped n => .miss (a / 65536) n
    | .bad => .bad .badPte

/-- Translation for a party's word: a page whose record was cancelled under the word stays unmapped for it, so that the
party takes PGF (R284). -/
def State.lookWord (s : State) (cancelled : List Nat) (die core ctx a : Nat) : Look :=
  if mem? (a / 65536) cancelled then .miss (a / 65536) 0 else s.lookParty die core ctx a

/-- Translation for a page of a cache operation's range, which the party's core takes to the walker itself where its TLBs do not hold it. -/
def State.lookRange (s : State) (cancelled : List Nat) (die core : Nat) (w : Waiter) (ctx a : Nat) : Look :=
  if mem? (a / 65536) cancelled then .miss (a / 65536) 0
  else if !(bit (s.ctx ctx).ctxpt.toNat 0) then .bad .noCtx
  else s.lookHeld (s.agentHeld die w ctx a ++ s.tlbHeld die core ctx a) die ctx a

/-! ## Walks and the fault queue -/

/-- Adds a waiter once. -/
def addWaiter (l : List Waiter) (w : Waiter) : List Waiter := if l.any fun x => x == w then l else l ++ [w]

/-- A walk for a page joined or begun; none when the walker's queue is full (R280). -/
def State.joinWalk (s : State) (die ctx va access : Nat) (w : Waiter) : Option State :=
  let d := s.die die
  let page := va / 65536
  if d.walks.any fun x => x.ctx == ctx && x.page == page then
    some (s.putDie die { d with walks := d.walks.map fun x =>
      if x.ctx = ctx ∧ x.page = page then { x with waiters := addWaiter x.waiters w } else x })
  else if Config.maxWalks + Config.maxQueuedWalks ≤ d.walks.length then none
  else some (s.putDie die { d with walks := d.walks ++ [{ ctx := ctx, page := page, va := va, access := access, level := 0, waiters := [w] }] })

/-- A walk for an agent that acts on its own: joined or begun, or, while the walker's queue is full, stalled until there is room (R280). -/
def State.agentWalk (s : State) (die ctx va access : Nat) (w : Waiter) : State :=
  if (s.die die).stalled.any fun x => x.page == va / 65536 && x.waiters == [w] then s
  else (s.joinWalk die ctx va access w).getD
    (s.putDie die { (s.die die) with
      stalled := (s.die die).stalled ++ [{ ctx := ctx, page := va / 65536, va := va, access := access, level := 0, waiters := [w] }] })

/-- The stalled misses of a die try again, in the order in which they came (R280). -/
def State.admitWalks (s : State) (die : Nat) : State :=
  (s.die die).stalled.foldl (fun s x => x.waiters.foldl (fun s w => s.agentWalk die x.ctx x.va x.access w) s)
    (s.putDie die { (s.die die) with stalled := [] })

/-- A waiter's AGENT code in a fault record (R283); an operation's depends on its engine. -/
def State.agentOf (s : State) (w : Waiter) : Nat :=
  match w with
  | .party _ _ | .range _ _ => 0
  | .queue _ => 5
  | .join _ | .image _ => 7
  | .root _ merge => if merge then 7 else 5
  | .op i =>
    match (AMap.get? s.ops i).map (fun (o : Op) => o.kind) with
    | some (.acp ..) => 1
    | some (.press ..) => 2
    | some (.courier _) | some (.round _) => 3
    | some (.net _) | some (.recv ..) => 4
    | some (.stm ..) | some (.comb ..) => 6
    | _ => 5

/-- The core a fault record names (R283). -/
def State.coreOfWaiter (s : State) (w : Waiter) : Nat :=
  match w with
  | .party t _ | .range t _ => ((s.task? t).map (·.core)).getD 0xFFFF
  | _ => 0xFFFF

/-- The memory address of a fault record's slot, if the die has a fault ring (R283). -/
def Die.faultSlot (d : Die) (id : Nat) : Nat := bits d.fqBase.toNat 12 44 * 4096 + 32 * (id % 4096)

/-- A fault record's bytes at its ring; where the die cannot reach it they are discarded with an event (R361, R364, log 105). -/
def State.putFault (s : State) (die a : Nat) (bs : List Byte) : State :=
  if s.farLost die a a then s.postEngineError die 0 1 0 a 0 else s.writeHome a bs

/-- Posts NOTMAPPED waiters on a page: they attach to an open record, open one, or wait for room (R283). The caller has
made sure that the die has a fault ring. -/
def State.postFault (s : State) (die ctx va access level : Nat) (ws : List Waiter) : State :=
  let d := s.die die
  let page := va / 65536
  match d.faults.find? fun f => f.ctx == ctx && f.page == page with
  | some f =>
    let ws' := ws.foldl addWaiter f.waiters
    let fs := d.faults.map fun (x : FaultRec) => if x.id = f.id then { x with waiters := ws' } else x
    let s1 := s.putDie die { d with faults := fs }
    s1.putFault die (d.faultSlot f.id + 26) (leBytes 2 (min ws'.length 0xFFFF))
  | none =>
    if 4096 ≤ d.faults.length then
      s.putDie die { d with fqWaiting := d.fqWaiting ++ [{ ctx := ctx, page := page, va := va, access := access, level := level, waiters := ws }] }
    else
      let w := ws.headD (.image 0)
      let id := d.fqTail.toNat % 65536
      let rec32 := leBytes 8 va ++ leBytes 2 ctx ++ leBytes 1 die ++ leBytes 1 (s.agentOf w)
        ++ leBytes 1 access ++ leBytes 1 level ++ leBytes 2 id ++ leBytes 8 s.time.toNat
        ++ leBytes 2 (s.coreOfWaiter w) ++ leBytes 2 (min ws.length 0xFFFF) ++ leBytes 4 0
      let s1 := s.putDie die
        { d with fqTail := BitVec.ofNat 32 ((id + 1) % 65536), faults := d.faults ++ [{ id := id, ctx := ctx, page := page, waiters := ws }] }
      (s1.putFault die (d.faultSlot id) rec32).raise (16 + die)

/-- The die has a fault ring (R283). -/
def Die.hasFaultRing (d : Die) : Bool := bits d.fqBase.toNat 12 44 != 0

/-- A party's hold with a page no longer waited for. -/
def Hold.resolved (h : Hold) (page : Nat) : Hold :=
  match h with
  | .walk ps => match ps.filter (· != page) with | [] => .free | r => .walk r
  | .fault ps => match ps.filter (· != page) with | [] => .free | r => .fault r
  | h => h

end Sys2Proof.Machine
end

