-- ==== Sys2Proof/Machine/Access.lean ====
section
/-! DEFINITION. Party accesses to memory: the checks every lane passes first (R161, R162, R169), what a read sees (R246,
R249, R277), where a store goes (R165 to R169, R277, R279), the Satchel and its drains (R168), and write-backs and invalidations at edges (R264). -/

namespace Sys2Proof.Machine

/-! ## Write-backs and invalidations -/

/-- The lines of a byte map: each line's bytes together. -/
def mapLines (m : AMap Byte) : List (Nat × AMap Byte) :=
  ((m.map fun e => lineOf e.1).eraseDups).map fun ln => (ln, m.filter fun e => lineOf e.1 == ln)

/-- A write of bytes of one line stored at its home under its number, which leaves a poisoned line poisoned (R246, R287). -/
def State.writeAs (s : State) (id : Nat) (after : Seen) (m : AMap Byte) : State :=
  match m with
  | [] => s
  | (a, _) :: _ =>
    if s.homeFailed a then s
    else
      let bad := mem? (lineOf a) s.badCheck
      let s1 := { s.remark (lineOf a) false with
        past := { old := m.map fun e => (e.1, s.mem.read e.1), upto := s.ticks, id := id, after := after } :: s.past
        mem := m.foldl (fun x e => x.write e.1 e.2) s.mem }
      if bad then s1.postPoison (s.seenBy a) (lineOf a * 64) 0 0 else s1

/-- A new write of bytes of one line stored at its home, after `after`. -/
def State.writeSome (s : State) (after : Seen) (m : AMap Byte) : State :=
  { s.writeAs s.writes after m with writes := s.writes + 1 }

/-- The home's die has failed and nothing has detected it yet: the access waits (R331). -/
def State.mute (s : State) (fpa : Nat) : Bool := s.homeFailed fpa && !(s.die (fpaDie fpa)).detected

/-- Drops the clean copies that a core's L1 may hold of ranges of lines (R264). -/
def State.invalidate (s : State) (die core : Nat) (l : List (Nat × Nat)) : State :=
  let c := s.core die core
  s.putCore die core { c with floors := l.map (fun r => (r.1, r.2, s.ticks)) ++ c.floors }

/-- A write or a step at a home that is no party's own word: discarded with a record where it can have no effect there (R334,
R364). -/
def State.atHome (s : State) (die ctx va fpa : Nat) (frame : DWord) (f : State → State) : State :=
  if s.homeFailed fpa then s.postPoison die va 4 ctx
  else if s.farLost die fpa va then s.postEngineError die 0 1 ctx va frame
  else f s

/-- The range of the one line of a byte. -/
def lineRange (a : Nat) : List (Nat × Nat) := [(lineOf a, lineOf a + 1)]

/-- A line written back from a die that a failed die's home cannot take is discarded with an event (R334). -/
def State.loseLine (s : State) (die a ctx : Nat) : State :=
  if s.homeFailed a then s.postPoison die (lineOf a * 64) 4 ctx else s

/-- A byte is one of a store's, and two stores share one. -/
def Store.holds (x : Store) (a : Nat) : Bool := (AMap.get? x.bytes a).isSome
def Store.meets (x y : Store) : Bool := x.bytes.any fun e => y.holds e.1

/-- A store's first byte at its home. -/
def Store.fpa (x : Store) : Nat := (x.bytes.head?.map (·.1)).getD 0

/-- The bytes of stores, the oldest first, and one of them. -/
def storesBytes (l : List Store) : AMap Byte := l.foldl (fun m x => x.bytes.foldl (fun m e => AMap.insert m e.1 e.2) m) []
def storesByte (l : List Store) (a : Nat) : Option Byte :=
  l.foldl (fun acc x => match AMap.get? x.bytes a with | some b => some b | none => acc) none

/-- The dirty bytes of a core's L1 (R277). -/
def Core.dirty (c : Core) : AMap Byte := storesBytes c.stores

/-- The oldest store of a byte with the older ones that it has overwritten in part: they go home before it. -/
def Core.storesUnder (c : Core) (a : Nat) : List Nat :=
  let l := c.stores.take (c.stores.findIdx (·.holds a) + 1)
  (l.reverse.foldl (fun need x => if need.isEmpty || need.any x.meets then need ++ [x] else need) []).map (·.id)

/-- The step since which a core's L1 may hold a copy of a line. -/
def Core.floorOf (c : Core) (ln : Nat) : Nat :=
  (c.floors.filter fun r => r.1 ≤ ln && ln < r.2.1).foldl (fun m r => max m r.2.2) c.floor

/-- Notes that a line of a context has been written, for the digest of its next boundary (R266): only lines of this package's HBM are
folded. -/
def State.noteLine (s : State) (ctx va fpa : Nat) : State :=
  let c := s.ctx ctx
  if fpaClass fpa ≠ 0 || c.lines.any fun x => x.1 == va / 64 then s
  else s.putCtx ctx { c with lines := c.lines ++ [(va / 64, fpa / 64)] }

/-- A store comes to its home, and its line is one that the next boundary folds (R246, R266). -/
def State.settleStore (s : State) (x : Store) : State := (s.writeAs x.id x.after x.bytes).noteLine x.ctx x.va x.fpa

/-- Writes home the stores of a core's L1 that a test picks, one after another (R242, R264, R277). What a failed die's home would take
waits until the failure is detected, and is then discarded (R331, R334). -/
def State.writeBack (s : State) (die core : Nat) (pick : Store → Bool) : State :=
  let c := s.core die core
  let goes := fun (x : Store) => pick x && !s.mute x.fpa
  let out := c.stores.filter goes
  let s1 := ((out.map fun x => lineOf x.fpa).eraseDups).foldl (fun s ln => s.loseLine die (ln * 64) 0) s
  (out.foldl State.settleStore s1).putCore die core { c with stores := c.stores.filter fun x => !goes x }

/-- An eviction: the oldest store of a dirty byte goes home. The stores of a line go on their own, so that of several that race each may
be the last (R242, R246). -/
def State.evict (s : State) (die core a : Nat) : State :=
  let ids := (s.core die core).storesUnder a
  s.writeBack die core fun x => mem? x.id ids

/-- Flash invalidation (R264): the L1 keeps its dirty lines only. -/
def State.flash (s : State) (die core : Nat) : State :=
  s.putCore die core { (s.core die core) with floor := s.ticks, floors := [] }

/-! ## The Satchel -/

/-- An access put on its way off the package. -/
def State.sendFlit (s : State) (f : Flit) : State := { s with nextId := s.nextId + 1, flits := AMap.insert s.flits s.nextId f }

/-- A Satchel line as a flit. -/
def SatchelLine.flit (l : SatchelLine) (die core : Nat) : Flit :=
  { fpa := l.line * 64, va := l.va, frame := l.frame, work := .line l.stores, die := die, core := core, ctx := l.ctx, who := l.parties
    write := 0, after := Seen.none, sure := false, custody := false, performed := false, failed := false, olds := [] }

/-- Sends a Satchel line on its way (R168): to its home at once on this package; as a flit off it; or, where nothing
leaves, discarded with an event (R364). -/
def State.sendLine (s : State) (die core : Nat) (l : SatchelLine) : State :=
  if !isRemote (l.line * 64) then l.stores.foldl State.settleStore (s.loseLine die (l.line * 64) l.ctx)
  else if s.reachable die (l.line * 64) then s.sendFlit (l.flit die core)
  else s.postEngineError die 0 1 l.ctx l.va l.frame

/-- An engine operation holds a pending twin of the pair of frames that an address lies in (R258). -/
def State.twinPending (s : State) (a : Nat) : Bool :=
  s.ops.any fun o => o.2.twins.any fun w => w.1 ≤ a && a < w.1 + 2 * w.2.1

/-- Drains the lines of a core's Satchel that a test picks (R168); one whose home does not answer, or whose page has a pending twin,
stays (R258, R331). -/
def State.drain (s : State) (die core : Nat) (pick : SatchelLine → Bool) : State :=
  let c := s.core die core
  let goes := fun (l : SatchelLine) => pick l && !s.mute (l.line * 64) && !s.twinPending (l.line * 64)
  (c.satchel.filter goes).foldl (fun s l => s.sendLine die core l)
    (s.putCore die core { c with satchel := c.satchel.filter fun l => !goes l })

/-- Drains the lines a party stored into. -/
def State.drainParty (s : State) (die core : Nat) (w : Nat × Nat) : State :=
  s.drain die core fun l => l.parties.any fun x => x == w

/-- Drains the lines a task's parties stored into (R92). -/
def State.drainTask (s : State) (die core t : Nat) : State :=
  s.drain die core fun l => l.parties.any fun x => x.1 == t

/-- A party's remote accesses that have not been acknowledged: to custody, or to delivery (R113, R366). -/
def State.uncustodied (s : State) (w : Nat × Nat) : Bool :=
  s.flits.any fun f => !f.2.custody && f.2.who.any fun x => x == w
def State.undelivered (s : State) (w : Nat × Nat) : Bool := s.flits.any fun f => f.2.who.any fun x => x == w

/-- The flits of a task that are on their way. -/
def State.taskFlits (s : State) (t : Nat) : List Nat :=
  (s.flits.filter fun f => f.2.who.any fun x => x.1 == t).map (·.1)

/-- How many Satchel entries a core holds, those given up but not yet in custody included (R168). -/
def State.satchelUsed (s : State) (die core : Nat) : Nat :=
  (s.core die core).satchel.length +
    (s.flits.filter fun f => f.2.die == die && f.2.core == core && !f.2.custody).length

/-- A store's bytes merged into the core's Satchel, the line sent when it is full (R168). -/
def State.satchelStore (s : State) (t : Task) (va : Nat) (x : Store) (w : Nat × Nat) : State :=
  let fpa := x.fpa
  let die := t.die
  let core := t.core
  let c := s.core die core
  let old := (c.satchel.find? fun l => l.line == lineOf fpa).getD
    { line := lineOf fpa, va := va / 64 * 64, ctx := t.ctx, frame := t.frame, stores := [], parties := [] }
  let new : SatchelLine :=
    { old with
      stores := old.stores ++ [x]
      parties := if old.parties.any fun x => x == w then old.parties else old.parties ++ [w] }
  let list := if c.satchel.any fun l => l.line == new.line then
      c.satchel.map fun l => if l.line = new.line then new else l
    else c.satchel ++ [new]
  let s1 := s.putCore die core { c with satchel := list }
  if (storesBytes new.stores).length = 64 then s1.drain die core fun l => l.line == new.line else s1

/-! ## Checks -/

/-- A checked lane address: a scratch byte, or a translated one. -/
inductive Target where
  | scratch (task off : Nat)
  | mem (va fpa : Nat) (leaf : Leaf)
  deriving DecidableEq, Repr

/-- A lane's address: checked, or a page to wait for. -/
inductive LaneLook where
  | ok (t : Target)
  | miss (va : Nat)
  deriving DecidableEq, Repr

/-- The bytes of a write lie in the descriptor's write ranges (R169, R217). -/
def Descriptor.covers (d : Descriptor) (va n : Nat) : Bool :=
  (List.range n).all fun i => d.ranges.any fun r => r.1.toNat ≤ va + i && va + i < r.1.toNat + 64 * r.2

/-- A page whose accesses a DET task buffers (R167, R169). -/
def Leaf.soft (l : Leaf) : Bool := l.typ == .normal || l.typ == .wcomb

/-- The storing die's group may contribute to a page (R328). -/
def State.contribOk (s : State) (env : Env) (l : Leaf) : Bool :=
  match s.slotWords env.die env.ctx l.slot with
  | none => false
  | some w => !groupSpans w && (s.rankOf w env.die).isSome

/-- The checks of one lane (R162): ALN, PGF, PRT, DWR. -/
def State.checkLane (s : State) (env : Env) (p : Party) (a : Access) (size lane ea : Nat) : Except Trap LaneLook :=
  if ea % size ≠ 0 then .error (Trap.aln lane a)
  else
    match s.placeLane env lane ea with
    | .error b => .error (b.trap lane a)
    | .ok (.scratch t o) => .ok (.ok (.scratch t o))
    | .ok (.va va) =>
      match s.lookWord p.cancelled env.die env.core env.ctx va with
      | .bad b => .error (b.trap lane a)
      | .miss page _ => if mem? page p.cancelled then .error (Trap.notMapped lane a) else .ok (.miss va)
      | .hit l fpa =>
        match s.permit l fpa a with
        | .error b => .error (b.trap lane a)
        | .ok _ =>
          if l.contrib && !s.contribOk env l then .error (BadPage.contrib.trap lane a)
          else if (a == .write || a == .atomic) && env.det && l.soft && !env.desc.covers va size then
            .error (Trap.dwr lane a)
          else .ok (.ok (.mem va fpa l))

/-- All lanes checked: every target, or the pages to wait for. -/
inductive Checked where
  | ok (l : List (Nat × Target))
  | wait (vas : List Nat)
  deriving DecidableEq, Repr

/-- The lane passed. -/
def lookOk : Except Trap LaneLook → Bool
  | .ok (.ok _) => true
  | _ => false

/-- All lanes together (R162): the fault of the lowest-numbered faulting lane, unless that lane first waits for a walk. -/
def settle (looks : List (Nat × Except Trap LaneLook)) : Except Trap Checked :=
  match looks.find? fun x => !lookOk x.2 with
  | some (_, .error e) => .error e
  | some _ => .ok (.wait (looks.filterMap fun x => match x.2 with | .ok (.miss va) => some va | _ => none))
  | none => .ok (.ok (looks.filterMap fun x => match x.2 with | .ok (.ok t) => some (x.1, t) | _ => none))

/-- A party waits for walks of its pages as `w`, or stalls at the access where the walker has no room (R280). -/
def State.waitWalksAs (s : State) (w : Waiter) (tid pi die ctx access : Nat) (vas : List Nat) : State :=
  match vas.foldl (fun (acc : Option State) va => acc.bind fun s => s.joinWalk die ctx va access w) (some s) with
  | none => s
  | some s' => s'.modParty tid pi fun p =>
      { p with hold := .walk ((vas.map (· / 65536)).eraseDups) }

/-- The executing party waits for walks of its word's pages. -/
def State.waitWalks (s : State) (tid pi die ctx access : Nat) (vas : List Nat) : State :=
  s.waitWalksAs (.party tid pi) tid pi die ctx access vas

/-- What a line's check says to a load: nothing, or INT with its poison bit (R162, R287, R334); an access that cannot leave the
package, or that a hop gives up, is answered as poison is (R364). -/
def State.lineFault (s : State) (die fpa key : Nat) : Option Bool :=
  if s.isPoisoned (lineOf fpa) || !s.reachable die fpa || s.hopLost fpa key then some true
  else if mem? (lineOf fpa) s.badCheck then some false
  else none

/-- What the check of a scratch line says to a load (R170, R285, R287). -/
def Task.scratchFault (t : Task) (o : Nat) : Option Bool :=
  if mem? (o / 64) t.scratchPoison then some true else if mem? (o / 64) t.scratchBad then some false else none

/-- What the check of a target's line says to a load, an atomic or a fetch; a multicast frame answers an atomic with an error
notice (R368). -/
def State.targetFault (s : State) (die : Nat) (a : Access) (x : Target) (key : Nat) : Option Bool :=
  match x with
  | .scratch t o => (s.task? t).bind fun y => y.scratchFault o
  | .mem _ fpa _ => if a == .atomic && s.isMcast fpa then some true else s.lineFault die fpa key

/-- The first INT of a load's lanes, if there is one. -/
def State.intOf (s : State) (die : Nat) (a : Access) (ts : List (Nat × Target)) : Except Trap Unit :=
  ts.forM fun x =>
    match s.targetFault die a x.2 x.1 with
    | none => .ok ()
    | some b => .error (Trap.int x.1 a b)

/-- The numbers of the writes that a flit brings. -/
def Flit.writes (f : Flit) : List Nat :=
  match f.work with
  | .line l => l.map (·.id)
  | .atom .. => [f.write]

/-- A write that an access of a core comes after has not reached its line's home yet (R245): it is on its way, or another core still
holds it. -/
def State.awaited (s : State) (key : Nat) (seen : Seen) (fpa : Nat) : Bool :=
  let known := fun (l : List Store) => l.any fun x => inRanges seen.ids x.id && lineOf x.fpa == lineOf fpa
  (s.flits.any fun f => lineOf f.2.fpa == lineOf fpa && !f.2.performed && !f.2.failed && f.2.writes.any (inRanges seen.ids)) ||
    s.cores.any fun c => c.1 != key && (known c.2.stores || c.2.satchel.any fun l => l.line == lineOf fpa && known l.stores)

/-- A store must wait: some home is mute (R331). -/
def State.anyMute (s : State) (ts : List (Nat × Target)) : Bool :=
  ts.any fun x => match x.2 with | .mem _ fpa _ => s.mute fpa | _ => false

/-- A load must wait: some home is mute (R331), or a write that it comes after is not there yet (R245). -/
def State.loadWaits (s : State) (c : Exec) (ts : List (Nat × Target)) : Bool :=
  s.anyMute ts || ts.any fun x =>
    match x.2 with | .mem _ fpa _ => s.awaited (coreKey c.task.die c.task.core) c.party.seen fpa | _ => false

/-! ## What a read sees -/

/-- The byte of a page's frame that an address names, whichever frame of a shadow pair is visible (R249, R278). -/
def Leaf.byteOf (l : Leaf) (va : Nat) : Nat := l.frame + va % l.size

/-- A byte that a DET task has written itself, or received from its ordered predecessor (R249, R105). -/
def Task.ownByte (t : Task) (a : Nat) : Option Byte :=
  match AMap.get? t.storeSet a with
  | some b => some b
  | none => AMap.get? t.received a

/-- A page whose lines a core's L1 may hold (R167, R277). -/
def Leaf.cacheable (l : Leaf) : Bool := l.typ == .normal && (l.home == .cached || l.home == .slice)

/-- A page of which a read may return an older racing value (R246, R366): a NORMAL or WCOMB one whose lines L1 may hold, or whose loads
may overtake one another on their way. Any other is read at its home as it stands (R261, R277), and so is a shadow page, at its
visible frame (R278, log 9). -/
def Leaf.lax (l : Leaf) (fpa : Nat) : Bool := l.soft && !l.shadow && (l.cacheable || isRemote fpa)

/-- A byte that a read returns (R246), by the writes to it, newest first, of which `before` says which the read comes after. It may
return one that it does not come after, which races with it, or one that no write which it comes after follows; and the initial value
while it comes after none. It returns the first of these at which `stop` says so, or else the last. `b` is the value of the write in
question, `i` its place, and `last` the newer ones that the read comes after. -/
def raceByte (before : PastWrite → Bool) (stop : Nat → PastWrite → Bool) (a : Nat) : List PastWrite → Nat → List PastWrite → Byte → Option Byte
  | [], _, last, b => if last.isEmpty then some b else none
  | w :: r, i, last, b =>
    match AMap.get? w.old a with
    | none => raceByte before stop a r (i + 1) last b
    | some old =>
      let older := raceByte before stop a r (i + 1) (if before w then w :: last else last) old
      if !(last.any fun v => v.after.has w) && (stop i w || older.isNone) then some b else older

/-- A byte of a home as a reader sees it, among the writes `ws`. -/
def State.racyByte (s : State) (ws : List PastWrite) (before : PastWrite → Bool) (stop : Nat → PastWrite → Bool) (a : Nat) : Byte :=
  (raceByte before stop a ws 0 [] (s.mem.read a)).getD (s.mem.read a)

/-- The step in which a line was last brought home by CWB, CINV.W or CXL.mem (R39, R178). -/
def State.homeFloor (s : State) (ln : Nat) : Nat :=
  (s.homeFloors.filter fun r => r.1 ≤ ln && ln < r.2.1).foldl (fun m r => max m r.2.2) 0

/-- Brings ranges of lines home for whoever reads there (R39, R178). -/
def State.raiseHome (s : State) (l : List (Nat × Nat)) : State :=
  { s with homeFloors := l.map (fun r => (r.1, r.2, s.ticks)) ++ s.homeFloors }

/-- One access wrote just these `n` bytes. -/
def PastWrite.wrote (w : PastWrite) (a n : Nat) : Bool := w.old.length == n && w.old.all fun e => a ≤ e.1 && e.1 < a + n

/-- The writes to `n` bytes at a home, newest first, of which a page lets a read choose (R246, log 9). -/
def State.rivals (s : State) (l : Leaf) (fpa n : Nat) : List PastWrite :=
  if l.lax fpa then s.past.filter fun w => w.old.any fun e => fpa ≤ e.1 && e.1 < fpa + n else []

/-- Where an access of `n` bytes stops for its byte `a`: a free choice made anew for each access, and for each byte on its own at a
write of another size or alignment; else for all bytes together (R246). -/
def State.stopsAt (s : State) (fpa n key count a : Nat) (i : Nat) (w : PastWrite) : Bool :=
  Config.freeNat (freeIndex s.fresh (2 ^ 60 + 32 * key + if w.wrote fpa n then 0 else a - fpa + 1)) % (count + 1) ≤ i

/-- The writes that a read of a core comes after: those its party comes after, and those that had reached the home when the core last
dropped its copies of the line, or where it has none, when the line was last brought home (R178, R246, R264). -/
def State.readBefore (s : State) (die core : Nat) (seen : Seen) (l : Leaf) (fpa : Nat) (w : PastWrite) : Bool :=
  seen.has w || decide (w.upto ≤ if l.cacheable then (s.core die core).floorOf (lineOf fpa) else s.homeFloor (lineOf fpa))

/-- A byte as a core sees it: its Satchel, its dirty lines, the home or an older copy (R168, R246, R277). -/
def State.viewByte (s : State) (die core : Nat) (seen : Seen) (l : Leaf) (ws : List PastWrite) (stop : Nat → PastWrite → Bool) (fpa : Nat) : Byte :=
  let c := s.core die core
  match (c.satchel.find? fun x => x.line == lineOf fpa).bind fun x => storesByte x.stores fpa with
  | some b => b
  | none =>
    match if l.cacheable then storesByte c.stores fpa else none with
    | some b => b
    | none => s.racyByte ws (s.readBefore die core seen l fpa) stop fpa

/-- The bytes of a target as one access of a party of a task sees them (R246, R249); `key` tells the accesses of a step apart. -/
def State.targetBytes (s : State) (t : Task) (seen : Seen) (x : Target) (n key : Nat) : List Byte :=
  match x with
  | .scratch k o => (List.range n).map fun i => ((s.task? k).map fun y => Cells.get y.scratch (o + i)).getD 0
  | .mem va fpa l =>
    let ws := s.rivals l fpa n
    (List.range n).map fun i =>
      match if t.det && l.soft then t.ownByte (l.byteOf va + i) else none with
      | some b => b
      | none => s.viewByte t.die t.core seen l ws (s.stopsAt fpa n key ws.length (fpa + i)) (fpa + i)

/-! ## Where a store goes -/

/-- The bytes of a troupe's continuation image: its registers and its scratch (R224, log 41). -/
def Descriptor.imageBytes (d : Descriptor) : Nat := d.parties * (128 * d.vregs + 4 * d.uregs) + d.scratch

/-- The bytes of a party's stack that are spilled: 32 for each entry below the 32 nearest the top (R226). -/
def Party.spilled (p : Party) : Nat := 32 * (p.stack.length - 32)

/-- The bytes of a task in its context's hidden carve-out (R224, R226, R255, R270). -/
def Task.hiddenBytes (t : Task) : Nat :=
  (if t.phase == .parked || t.phase == .resuming then t.desc.imageBytes else 0) + (t.parties.map Party.spilled).sum +
    if (t.joining.map (·.started)).getD false then Config.joinRecordBytes else 0

/-- The bytes of a context's hidden carve-out in use (R270, R272, log 41): the continuation images of parked troupes, the stack spills, the
join records, and the switched-out images. -/
def State.hiddenUsed (s : State) (ctx : Nat) : Nat :=
  ((s.tasks.filter fun e => e.2.ctx == ctx).map fun e => e.2.hiddenBytes).sum +
    ((s.roots.filter fun e => e.2.ctx == ctx && (e.2.joining.map (·.started)).getD false).map fun _ => Config.joinRecordBytes).sum +
    Config.coreImageBytes * (s.images.filter fun e => e.2.ctx == ctx).length

/-- The carve-out has room for so many bytes more (R272). -/
def State.hiddenRoom (s : State) (ctx n : Nat) : Bool := s.hiddenUsed ctx + n ≤ bits (s.ctx ctx).hids.toNat 0 32 * 65536

/-- The lines of a store set. -/
def storeLinesOf (m : AMap Byte) : List Nat := (m.map fun e => lineOf e.1).eraseDups

/-- The store-set spill area has no room for what the context's tasks would spill and one line more (R254, log 41). -/
def State.spillFull (s : State) (ctx : Nat) : Bool :=
  !s.hiddenRoom ctx (64 + 64 * ((s.tasks.filter fun e => e.2.ctx == ctx && e.2.det).map fun e => (storeLinesOf e.2.storeSet).length).sum)

/-- The entries of a table of `n` that memory lists something of; the others read as not valid (R274). -/
def State.listedEntries (s : State) (table n : Nat) : List Nat :=
  ((s.mem.filter fun e => table ≤ e.1 && e.1 < table + 16 * n).map fun e => (e.1 - table) / 16).eraseDups

/-- The pointers of a list of tables, each with the bits of the virtual address that lead to it. -/
def State.tablesBelow (s : State) (n : Nat) (l : List (Nat × Nat)) : List (Nat × Nat) :=
  l.flatMap fun t => (s.listedEntries t.2 n).filterMap fun i =>
    let e := s.pte t.2 i
    if bit e 0 && pointerOk e then some (t.1 * n + i, bits e 16 40 * 65536) else none

/-- The pages that a context's tables map, by their first virtual addresses (R273). -/
def State.mappedPages (s : State) (ctx : Nat) : List (Nat × Leaf) :=
  if !bit (s.ctx ctx).ctxpt.toNat 0 then []
  else
    let l3 := s.tablesBelow 4096 (s.tablesBelow 32 [(0, bits (s.ctx ctx).ctxpt.toNat 9 47 * 512)])
    let big := l3.flatMap fun t => (s.listedEntries t.2 4096).map fun i => (t.1 * 4096 + i) * 2 ^ 28
    let small := (s.tablesBelow 4096 l3).flatMap fun t => (s.listedEntries t.2 4096).map fun i => (t.1 * 4096 + i) * 65536
    (big ++ small).filterMap fun va =>
      match s.walk ctx va with
      | .leaf l => if va % l.size = 0 then some (va, l) else none
      | _ => none

/-- A line of this package's memory written by an agent that knows no virtual address, a peer or a multicast branch, for the digest
of every context that maps it on a NORMAL or WCOMB page (R266). -/
def State.noteFrame (s : State) (fpa : Nat) : State :=
  if fpaClass fpa ≠ 0 then s
  else
    let a := s.visible fpa
    s.ctxs.foldl (fun s c =>
      match (s.mappedPages c.1).find? fun p => p.2.soft && p.2.frame ≤ a && a < p.2.frame + p.2.size with
      | some p => s.noteLine c.1 (p.1 + (a - p.2.frame)) fpa
      | none => s) s

/-- A line written by a task enters its write-set summary (R264). -/
def State.noteWrite (s : State) (tid fpa : Nat) : State :=
  s.modTask tid fun t => { t with wset := addRange (lineOf fpa) (lineOf fpa + 1) t.wset }

/-- What a party's next access comes after (R245). -/
def State.seenOf (s : State) (tid pi : Nat) : Seen := ((s.party? tid pi).map (·.seen)).getD Seen.none

/-- The writes made since `s0` are a party's: they come after what it comes after, and its next access comes after them (R245). -/
def State.partyWrote (s s0 : State) (tid pi : Nat) : State :=
  (s.orderedBy s0 (s0.seenOf tid pi)).modParty tid pi fun p => { p with seen := p.seen.add s0.writes s.writes }

/-- A store's place in a contribution page (R328): the chunk's first address, its size, and the round it opens. -/
def State.roundOf (s : State) (t : Task) (va fpa : Nat) (l : Leaf) : Round :=
  let size := 64 * 2 ^ l.chunk
  let k := va % 65536 / size
  let twin := twinVa l (pageBase l.size va)
  let w := (s.slotWords t.die t.ctx l.slot).getD []
  { ctx := t.ctx, fpa := fpa / size * size, twin := twin + k * size, ctr := twin + 65536 + 8 * k, size := size, op := l.op
    format := l.format, ranks := groupSize w, bytes := [] }

/-- The storing die's logical rank in a contribution page's group. -/
def State.contribRank (s : State) (t : Task) (l : Leaf) : Nat :=
  ((s.slotWords t.die t.ctx l.slot).bind fun w => s.rankOf w t.die).getD 0

/-- A rank's contribution to a round covers the chunk (R329). -/
def Round.complete (r : Round) (rank : Nat) : Bool := (r.bytes.getD rank []).length == r.size

/-- A contribution store must wait (R330): its rank's part of the round is complete, or the Vat has no room. -/
def State.contribWaits (s : State) (t : Task) (va fpa : Nat) (l : Leaf) : Bool :=
  let new := s.roundOf t va fpa l
  let rounds := (s.die (fpaDie fpa)).rounds
  match rounds.find? fun r => r.fpa == new.fpa with
  | some r => r.complete (s.contribRank t l)
  | none => Config.vatRoundBytes < (rounds.map fun r => r.ranks * r.size).sum + new.ranks * new.size

/-- A store staged in the Vat of the page's die (R328, R329); a complete round becomes the Vat's own operation. -/
def State.contribute (s : State) (t : Task) (va fpa : Nat) (l : Leaf) (bs : List Byte) : State :=
  let d := s.die (fpaDie fpa)
  let new := s.roundOf t va fpa l
  let old := (d.rounds.find? fun r => r.fpa == new.fpa).getD new
  let rank := s.contribRank t l
  let r := { old with bytes := AMap.insert old.bytes rank (ByteMap.putBytes (old.bytes.getD rank []) fpa bs) }
  let s1 := s.putDie (fpaDie fpa) { d with rounds := r :: d.rounds.filter fun x => x.fpa != r.fpa }
  if ((List.range r.ranks).all r.complete) && !((List.range old.ranks).all old.complete) then
    { s1 with
      nextId := s1.nextId + 1
      ops := AMap.insert s1.ops s1.nextId (Op.start (.round r.fpa) .vat r.ctx (fpaDie fpa) 0 0 s1.allSeen) }
  else s1

/-- Bytes written into a troupe's scratch (R166, R285): `whole` if an engine writes a line of 64; a partial write to a line whose
check fails poisons it, with an event. -/
def State.writeScratch (s : State) (task o : Nat) (bs : List Byte) (whole poison : Bool) : State :=
  match s.task? task with
  | none => s
  | some t =>
    let ln := o / 64
    let all := whole && o % 64 == 0 && bs.length == 64
    let bad := !all && mem? ln t.scratchBad
    let s1 := s.putTask task { t with
      scratch := (List.range bs.length).foldl (fun m i => Cells.set m (o + i) (bs.getD i 0)) t.scratch
      scratchDirty := addNew t.scratchDirty ln
      scratchPoison := if poison || bad then addNew t.scratchPoison ln else if all then t.scratchPoison.filter (· != ln) else t.scratchPoison
      scratchBad := t.scratchBad.filter (· != ln) }
    if bad then s1.postPoison t.die (scratchAliasBase + t.slot * 2 ^ 18 + ln * 64) 0 t.ctx else s1

/-- One lane's store performed or sent on its way (R165 to R169, R277). Contribution pages are the Vat's (R328); a store to a
failed die's home is discarded with an event (R334). -/
def State.storeTarget (s : State) (tid pi : Nat) (x : Target) (bs : List Byte) : State :=
  match s.task? tid with
  | none => s
  | some t =>
    match x with
    | .scratch k o => s.writeScratch k o bs false false
    | .mem va fpa l =>
      if s.homeFailed fpa then s.postPoison t.die va 4 t.ctx
      else if l.contrib then s.contribute t va fpa l bs
      else if t.det && l.soft then
        ({ s with writes := s.writes + 1 }.putTask tid { t with
          storeSet := ByteMap.putBytes t.storeSet (l.byteOf va) bs
          storeTags := (List.range bs.length).foldl (fun m i => AMap.insert m (l.byteOf va + i) s.writes) t.storeTags
          storePages := AMap.insert t.storePages (l.byteOf va / 65536) (va / 65536) }).modParty tid pi fun p =>
            { p with known := (List.range bs.length).foldl (fun m i =>
                AMap.insert m (l.byteOf va + i) (s.ticks, bs.getD i 0)) p.known }
      else
        let s1 := if l.soft then s.noteWrite tid fpa else s
        let x : Store :=
          { bytes := (List.range bs.length).map fun i => (fpa + i, bs.getD i 0), va := va, ctx := t.ctx, id := s.writes, after := s.seenOf tid pi }
        let sent := fun (s2 : State) => { s2 with writes := s.writes + 1 }.modParty tid pi fun p => { p with seen := p.seen.add s.writes (s.writes + 1) }
        if l.soft && (isRemote fpa || l.typ == .wcomb) then
          sent (s1.satchelStore t va x (tid, pi))
        else if l.typ == .normal && l.home == .cached then
          sent (s1.putCore t.die t.core { (s1.core t.die t.core) with stores := (s1.core t.die t.core).stores ++ [x] })
        else if s.farLost t.die fpa va then
          s1.postEngineError t.die 0 1 t.ctx va t.frame
        else
          let s2 := (s1.writeHome fpa bs).partyWrote s1 tid pi
          if l.soft then s2.noteLine t.ctx va fpa else s2

/-- How many new Satchel entries a store needs (R168). -/
def State.satchelNeed (s : State) (t : Task) (ts : List (Nat × Target)) : Nat :=
  let lines := (ts.filterMap fun x =>
    match x.2 with
    | .mem _ fpa l => if !t.det && !l.contrib && l.soft && (isRemote fpa || l.typ == .wcomb) then some (lineOf fpa) else none
    | _ => none).eraseDups
  (lines.filter fun ln => !((s.core t.die t.core).satchel.any fun x => x.line == ln)).length

end Sys2Proof.Machine
end

