-- ==== Sys2Proof/Machine/FloatOps.lean ====
section
/-! DEFINITION. Floating-point, conversion and quantisation instructions that touch no memory (spec/07, R134 to R147,
R152 to R154). -/

namespace Sys2Proof.Machine

/-! ## Shared forms -/

/-- The rounding mode of the current path (R64, R135). -/
def Party.rnd (p : Party) : Nat := fmtRnd p.top.fmt

/-- A word function of one FP operation: its mode and operands to a pattern with flags. -/
abbrev FloatFn2 := Nat → Nat → Nat → FloatRes

/-- The result of a lane function written to d, its flags raised (R136). -/
def Party.setF (p : Party) (d : Nat) (r : Nat → FloatRes) : Party :=
  (p.setV d fun l => BitVec.ofNat 32 (r l).1).raise (orFlags p.exm fun l => (r l).2)

/-- d := f a b (R137). -/
def fpu2 (d a b : BitVec 7) (u : BitVec 1) (f : FloatFn2) : PartyFn := fun env p => do
  useRegs env p [.v d.toNat, useA a u, .v b.toNat]
  pure (p.setF d.toNat fun l => f p.rnd (p.opA a u l).toNat (p.vreg b.toNat l).toNat)

/-- d := f a b d (R138). -/
def fpu3 (d a b : BitVec 7) (u : BitVec 1) (f : Nat → Nat → Nat → Nat → FloatRes) : PartyFn := fun env p => do
  useRegs env p [.v d.toNat, useA a u, .v b.toNat]
  pure (p.setF d.toNat fun l => f p.rnd (p.opA a u l).toNat (p.vreg b.toNat l).toNat (p.vreg d.toNat l).toNat)

/-- d := f a (R140). -/
def fpu1 (d a : BitVec 7) (u : BitVec 1) (f : Nat → Nat → FloatRes) : PartyFn := fun env p => do
  useRegs env p [.v d.toNat, useA a u]
  pure (p.setF d.toNat fun l => f p.rnd (p.opA a u l).toNat)

/-- A class V result of a lane function (R48, R136). -/
def Party.floatResult (p : Party) (d : Nat) (r : Nat → FloatRes) : VResult :=
  { vwrites := [p.vwrite d fun l => if p.exm.getLsbD l then BitVec.ofNat 32 (r l).1 else 0], uwrites := []
    aflags := orFlags p.exm fun l => (r l).2, floating := true, wait := .ready }

/-- A long operation d := f a (R141, R142). -/
def fpuLong (d a : BitVec 7) (u : BitVec 1) (f : Nat → Nat → FloatRes) (env : Env) (p : Party) :
    Except Trap VResult := do
  useRegs env p [.v d.toNat, useA a u]
  pure (p.floatResult d.toNat fun l => f p.rnd (p.opA a u l).toNat)

/-- The format of a packed operation (R143). -/
def halfFormat (t : BitVec 1) : FloatFormat := if t = 0#1 then bf16 else fp16

/-- A packed result from its two elements (R143). -/
def packHalves (r : Nat → FloatRes) : FloatRes := ((r 0).1 + 65536 * (r 1).1, (r 0).2 ||| (r 1).2)

/-- Element `e` of a register as a 16-bit pattern. -/
def halfAt (x e : Nat) : Nat := bits x (16 * e) 16

/-- A packed operation of two operands (R143). -/
def half2 (d a b : BitVec 7) (t : BitVec 1) (f : FloatFormat → FloatFn2) : PartyFn :=
  fpu2 d a b 0#1 fun m x y => packHalves fun e => f (halfFormat t) m (halfAt x e) (halfAt y e)

/-- A packed long operation (R143). -/
def halfLong (d a : BitVec 7) (t : BitVec 1) (op : LongOp) (env : Env) (p : Party) : Except Trap VResult :=
  fpuLong d a 0#1 (fun m x => packHalves fun e => (halfFormat t).long16 m op (halfAt x e)) env p

/-! ## What the FP32 operations compute -/

/-- A NaN of either kind. -/
def isNan32 (x : Nat) : Bool := (fp32.val x).isNan

/-- FCSGN (R137). -/
def fcsgnW (a b : Nat) : FloatRes := (if isNan32 a then fp32.nan else bits a 0 31 + 2 ^ 31 * bits b 31 1, 0#5)

/-- The order of two numbers, -0 equal to +0 (R139). -/
def fpKey (x : Nat) : Int := if bit x 31 then -(bits x 0 31 : Int) else bits x 0 31

/-- FSETP's condition with its flags (R139). -/
def fpCond (c : BitVec 3) (a b : Nat) : Bool × BitVec 5 :=
  let x := fp32.val a
  let y := fp32.val b
  let nan := x.isNan || y.isNan
  let nv := if (x.sig || y.sig) || (nan && 2 ≤ c.toNat && c.toNat ≤ 5) then flagNV else 0#5
  let r :=
    match c.toNat with
    | 0 => !nan && fpKey a == fpKey b
    | 1 => nan || fpKey a != fpKey b
    | 2 => !nan && decide (fpKey a < fpKey b)
    | 3 => !nan && decide (fpKey a ≤ fpKey b)
    | 4 => !nan && decide (fpKey b < fpKey a)
    | 5 => !nan && decide (fpKey b ≤ fpKey a)
    | 6 => nan
    | _ => !nan
  (r, nv)

/-- FCLASS (R140). -/
def fclassW (a : Nat) : FloatRes :=
  (match fp32.val a with
    | .nan s => if s then 2 ^ 8 else 2 ^ 9
    | .inf n => if n then 2 ^ 0 else 2 ^ 7
    | .fin n d =>
      if d.m = 0 then (if n then 2 ^ 3 else 2 ^ 4)
      else if bits a 23 8 = 0 then (if n then 2 ^ 2 else 2 ^ 5)
      else if n then 2 ^ 1 else 2 ^ 6, 0#5)

/-- FRND (R140). -/
def frndW (mode a : Nat) : FloatRes :=
  match fp32.val a with
  | .nan s => fp32.nanRes s
  | .inf n => fp32.infRes n
  | .fin n d => ((fp32.round 0 n { m := (roundInt mode d).1, e := 0 }).1, 0#5)

/-- FLDEXP (R140): beyond 2^1000 either way the result no longer depends on the exponent. -/
def fldexpW (mode a b : Nat) : FloatRes :=
  match fp32.val a with
  | .nan s => fp32.nanRes s
  | .inf n => fp32.infRes n
  | .fin n d => fp32.round mode n { d with e := d.e + min (max (sxNat 32 b) (-1000)) 1000 }

/-- FGETX (R140). -/
def fgetxW (a : Nat) : FloatRes :=
  match fp32.val a with
  | .nan s => (0x7FFFFFFF, if s then flagNV else 0#5)
  | .inf _ => (0x7FFFFFFF, 0#5)
  | .fin _ d => if d.m = 0 then (0x80000000, flagDZ) else ((d.log2 % 2 ^ 32).toNat, 0#5)

/-- FFRAC (R140). -/
def ffracW (a : Nat) : FloatRes :=
  match fp32.val a with
  | .nan s => fp32.nanRes s
  | .inf _ => fp32.nanRes true
  | .fin n d => fp32.round 0 n (d.sub { m := (roundInt 1 d).1, e := 0 })

/-- FABS, FNEG and FSAT (R140). -/
def fabsW (a : Nat) : FloatRes := (if isNan32 a then fp32.nan else bits a 0 31, 0#5)
def fnegW (a : Nat) : FloatRes := (if isNan32 a then fp32.nan else a ^^^ 2 ^ 31, 0#5)
def fsatW (a : Nat) : FloatRes :=
  match fp32.val a with
  | .nan s => (0, if s then flagNV else 0#5)
  | _ => (if bit a 31 then 0 else min a 0x3F800000, 0#5)

/-! ## MAJ 0x40 and 0x41 (R137, R138) -/

def execFadd (d a b : BitVec 7) (u : BitVec 1) (s : State) : Out := s.runParty 1 (fpu2 d a b u fp32.add)
def execFsub (d a b : BitVec 7) (u : BitVec 1) (s : State) : Out := s.runParty 1 (fpu2 d a b u fp32.sub)
def execFmul (d a b : BitVec 7) (u : BitVec 1) (s : State) : Out := s.runParty 1 (fpu2 d a b u fp32.mul)
def execFmin (d a b : BitVec 7) (u : BitVec 1) (s : State) : Out :=
  s.runParty 1 (fpu2 d a b u fun _ x y => fp32.minMax true false x y)
def execFmax (d a b : BitVec 7) (u : BitVec 1) (s : State) : Out :=
  s.runParty 1 (fpu2 d a b u fun _ x y => fp32.minMax true true x y)
def execFminn (d a b : BitVec 7) (u : BitVec 1) (s : State) : Out :=
  s.runParty 1 (fpu2 d a b u fun _ x y => fp32.minMax false false x y)
def execFmaxn (d a b : BitVec 7) (u : BitVec 1) (s : State) : Out :=
  s.runParty 1 (fpu2 d a b u fun _ x y => fp32.minMax false true x y)
def execFcsgn (d a b : BitVec 7) (u : BitVec 1) (s : State) : Out :=
  s.runParty 1 (fpu2 d a b u fun _ x y => fcsgnW x y)
def execFfma (d a b : BitVec 7) (u : BitVec 1) (s : State) : Out :=
  s.runParty 1 (fpu3 d a b u fun m x y z => fp32.fma m false false x y z)
def execFfms (d a b : BitVec 7) (u : BitVec 1) (s : State) : Out :=
  s.runParty 1 (fpu3 d a b u fun m x y z => fp32.fma m false true x y z)
def execFnfma (d a b : BitVec 7) (u : BitVec 1) (s : State) : Out :=
  s.runParty 1 (fpu3 d a b u fun m x y z => fp32.fma m true true x y z)
def execFnfms (d a b : BitVec 7) (u : BitVec 1) (s : State) : Out :=
  s.runParty 1 (fpu3 d a b u fun m x y z => fp32.fma m true false x y z)

/-! ## MAJ 0x42 and 0x43 (R139, R140) -/

def execFsetp (d : BitVec 3) (a b : BitVec 7) (u : BitVec 1) (c : BitVec 3) (s : State) : Out :=
  s.runParty 1 fun env p => do
    useRegs env p [useA a u, .v b.toNat]
    let r := fun l => fpCond c (p.opA a u l).toNat (p.vreg b.toNat l).toNat
    pure ((p.setPred d.toNat fun l => (r l).1).raise (orFlags p.exm fun l => (r l).2))

def execFclass (d a : BitVec 7) (u : BitVec 1) (s : State) : Out := s.runParty 1 (fpu1 d a u fun _ x => fclassW x)
def execFrnd (d a : BitVec 7) (u : BitVec 1) (s : State) : Out := s.runParty 1 (fpu1 d a u frndW)
def execFldexp (d a b : BitVec 7) (u : BitVec 1) (s : State) : Out := s.runParty 1 (fpu2 d a b u fldexpW)
def execFgetx (d a : BitVec 7) (u : BitVec 1) (s : State) : Out := s.runParty 1 (fpu1 d a u fun _ x => fgetxW x)
def execFfrac (d a : BitVec 7) (u : BitVec 1) (s : State) : Out := s.runParty 1 (fpu1 d a u fun _ x => ffracW x)
def execFabs (d a : BitVec 7) (u : BitVec 1) (s : State) : Out := s.runParty 1 (fpu1 d a u fun _ x => fabsW x)
def execFneg (d a : BitVec 7) (u : BitVec 1) (s : State) : Out := s.runParty 1 (fpu1 d a u fun _ x => fnegW x)
def execFsat (d a : BitVec 7) (u : BitVec 1) (s : State) : Out := s.runParty 1 (fpu1 d a u fun _ x => fsatW x)

/-! ## MAJ 0x44 and 0x45: long operations (R141, R142) -/

def execRcp (d a : BitVec 7) (f u : BitVec 1) (s : State) : Out := s.runV 1 f (fpuLong d a u fun m x => fLong m .rcp x)
def execRsq (d a : BitVec 7) (f u : BitVec 1) (s : State) : Out := s.runV 1 f (fpuLong d a u fun m x => fLong m .rsq x)
def execSqrt (d a : BitVec 7) (f u : BitVec 1) (s : State) : Out :=
  s.runV 1 f (fpuLong d a u fun m x => fLong m .sqrt x)
def execEx2 (d a : BitVec 7) (f u : BitVec 1) (s : State) : Out := s.runV 1 f (fpuLong d a u fun m x => fLong m .ex2 x)
def execLg2 (d a : BitVec 7) (f u : BitVec 1) (s : State) : Out := s.runV 1 f (fpuLong d a u fun m x => fLong m .lg2 x)
def execSinpi (d a : BitVec 7) (f u : BitVec 1) (s : State) : Out :=
  s.runV 1 f (fpuLong d a u fun m x => fLong m .sinpi x)
def execCospi (d a : BitVec 7) (f u : BitVec 1) (s : State) : Out :=
  s.runV 1 f (fpuLong d a u fun m x => fLong m .cospi x)

def execFdiv (d a : BitVec 7) (f : BitVec 1) (b : BitVec 6) (u : BitVec 1) (s : State) : Out :=
  s.runV 1 f fun env p => do
    useRegs env p [.v d.toNat, useA a u, .v b.toNat]
    pure (p.floatResult d.toNat fun l => fp32.div p.rnd (p.opA a u l).toNat (p.vreg b.toNat l).toNat)

/-! ## MAJ 0x46 and 0x47: packed 16-bit operations (R143) -/

def execHadd2 (d a b : BitVec 7) (t : BitVec 1) (s : State) : Out :=
  s.runParty 1 (half2 d a b t fun g m x y => g.add m x y)
def execHsub2 (d a b : BitVec 7) (t : BitVec 1) (s : State) : Out :=
  s.runParty 1 (half2 d a b t fun g m x y => g.sub m x y)
def execHmul2 (d a b : BitVec 7) (t : BitVec 1) (s : State) : Out :=
  s.runParty 1 (half2 d a b t fun g m x y => g.mul m x y)
def execHfma2 (d a b : BitVec 7) (t : BitVec 1) (s : State) : Out :=
  s.runParty 1 (fpu3 d a b 0#1 fun m x y z =>
    packHalves fun e => (halfFormat t).fma m false false (halfAt x e) (halfAt y e) (halfAt z e))
def execHmin2 (d a b : BitVec 7) (t : BitVec 1) (s : State) : Out :=
  s.runParty 1 (half2 d a b t fun g _ x y => g.minMax true false x y)
def execHmax2 (d a b : BitVec 7) (t : BitVec 1) (s : State) : Out :=
  s.runParty 1 (half2 d a b t fun g _ x y => g.minMax true true x y)
def execHrcp (d a : BitVec 7) (f t : BitVec 1) (s : State) : Out := s.runV 1 f (halfLong d a t .rcp)
def execHrsq (d a : BitVec 7) (f t : BitVec 1) (s : State) : Out := s.runV 1 f (halfLong d a t .rsq)
def execHsqrt (d a : BitVec 7) (f t : BitVec 1) (s : State) : Out := s.runV 1 f (halfLong d a t .sqrt)
def execHex2 (d a : BitVec 7) (f t : BitVec 1) (s : State) : Out := s.runV 1 f (halfLong d a t .ex2)
def execHlg2 (d a : BitVec 7) (f t : BitVec 1) (s : State) : Out := s.runV 1 f (halfLong d a t .lg2)
def execHsinpi (d a : BitVec 7) (f t : BitVec 1) (s : State) : Out := s.runV 1 f (halfLong d a t .sinpi)
def execHcospi (d a : BitVec 7) (f t : BitVec 1) (s : State) : Out := s.runV 1 f (halfLong d a t .cospi)

/-! ## MAJ 0x48: CVT (R144 to R146) -/

def execCvt (d a : BitVec 7) (e : BitVec 4) (c : BitVec 3) (x : BitVec 1) (q : BitVec 2) (s : State) : Out :=
  s.runParty 1 fun env p => do
    useRegs env p [.v d.toNat, .v a.toNat]
    pure (p.setF d.toNat fun l =>
      cvtWord p.rnd e.toNat c.toNat q.toNat (cvtDstBits e) (cvtSrcBits c) (fmtE5inf p.top.fmt) (x == 1#1)
        (p.vreg a.toNat l) (p.vreg d.toNat l))

/-! ## MAJ 0x50 to 0x52, 0x55, 0x56 (R147, R153, R154) -/

/-- FMTSET's new `fmt` (R147). -/
def fmtSet (sel : Nat) (old new : Word) : Word :=
  let m := (if bit sel 0 then 0x3#32 else 0#32) ||| (if bit sel 1 then 0x4#32 else 0#32)
    ||| (if bit sel 2 then 0xFFFF0000#32 else 0#32)
  (old &&& ~~~m) ||| (new &&& m)

def execFmtset (sel : BitVec 3) (a : BitVec 7) (s : State) : Out :=
  s.runParty 1 fun env p => do
    need (sel != 0#3) (Trap.ill 0)
    useRegs env p [.u a.toNat]
    pure (p.modTop fun e => { e with fmt := fmtSet sel.toNat e.fmt (p.ureg a.toNat) })

def execQscale (d a : BitVec 7) (f : BitVec 3) (s : State) : Out :=
  s.runWide 1 fun env p => do
    useRegs env p [.u d.toNat, .v a.toNat]
    let xs := (List.range 32).map fun l => if p.exm.getLsbD l then (p.vreg a.toNat l).toNat else 0
    let r := qscale f.toNat xs
    pure ((p.setU d.toNat (BitVec.ofNat 32 (r.1 * 2 ^ 16 + r.2.1 * 2 ^ 8 + r.2.2))).raise
      (if xs.any fun x => (fp32.val x).sig then flagNV else 0#5))

/-- The registers of a position block (R151). -/
def usePos (b : Nat) : List RegUse := [.u b, .u (b + 1), .u (b + 2)]

/-- The metadata a position block gives (R151). -/
def posMeta (x : Word) : Meta := { scale := bits x.toNat 0 8, x := bits x.toNat 8 8 }

/-- Column of lane `l` (R151). -/
def posCol (c : Word) (l : Nat) : Nat := (c.toNat + l) % 2 ^ 32

/-- Quantise at a position block (R154). -/
def Party.quantiseAt (p : Party) (f b l : Nat) (x : FloatVal) : FloatRes :=
  quantiseVal f (fmtE5inf p.top.fmt) x (p.ureg b).toNat (posCol (p.ureg (b + 1)) l) (fmtKey p.top.fmt)
    (posMeta (p.ureg (b + 2)))

/-- Decode at a position block (R154). -/
def Party.decodeAt (p : Party) (f b l : Nat) (q : Nat) : FloatVal :=
  decodeCode f (q % (if f = 2 then 16 else 256)) (p.ureg b).toNat (posCol (p.ureg (b + 1)) l) (fmtKey p.top.fmt)
    (posMeta (p.ureg (b + 2)))

def execQcvt (d a b : BitVec 7) (f : BitVec 3) (s : State) : Out :=
  s.runParty 1 fun env p => do
    useRegs env p ([.v d.toNat, .v a.toNat] ++ usePos b.toNat)
    pure (p.setF d.toNat fun l => p.quantiseAt f.toNat b.toNat l (fp32.val (p.vreg a.toNat l).toNat))

def execDq (d a b : BitVec 7) (f : BitVec 3) (s : State) : Out :=
  s.runParty 1 fun env p => do
    useRegs env p ([.v d.toNat, .v a.toNat] ++ usePos b.toNat)
    pure (p.setF d.toNat fun l => decodeF32 (p.decodeAt f.toNat b.toNat l (p.vreg a.toNat l).toNat))

/-- REKEY quantises what Decode returns: the FP32 value, rounded where FP32 does not hold the decoded one (R152). Only Quantise's
flags are raised. Of its two blocks the first is the old one, the second the new (DEDUCED, log 94). -/
def execRekey (d a b : BitVec 7) (f : BitVec 3) (s : State) : Out :=
  s.runParty 1 fun env p => do
    useRegs env p ([.v d.toNat, .v a.toNat] ++ usePos b.toNat ++ usePos (b.toNat + 3))
    pure (p.setF d.toNat fun l => p.quantiseAt f.toNat (b.toNat + 3) l
      (fp32.val (decodeF32 (p.decodeAt f.toNat b.toNat l (p.vreg a.toNat l).toNat)).1))

end Sys2Proof.Machine
end

