-- ==== Sys2Proof/Machine/Memory.lean ====
section
/-! DEFINITION. Loads, stores, atomics, cache control and the page probe (R159 to R174, R178 to R181), and the quantised
store and load (R155, R156). -/

namespace Sys2Proof.Machine

/-! ## Requests -/

/-- A single-copy access of a word: its lane, its size, its address, and what its checks say. -/
structure Req where
  lane : Nat
  size : Nat
  ea : Nat
  look : Except Trap LaneLook

/-- An access at an address (R162). -/
def State.req (s : State) (env : Env) (p : Party) (a : Access) (lane size ea : Nat) : Req :=
  { lane := lane, size := size, ea := ea, look := s.checkLane env p a size lane ea }

/-- The same access in each active lane. -/
def State.reqs (s : State) (env : Env) (p : Party) (a : Access) (size : Nat) (ea : Nat → Nat) : List Req :=
  (lanesOf p.exm).map fun l => s.req env p a l size (ea l)

/-- An access to the troupe's scratch at an offset (R166). -/
def scratchReq (env : Env) (a : Access) (lane size o : Nat) : Req :=
  { lane := lane, size := size, ea := o
    look :=
      if o % size ≠ 0 then .error (Trap.aln lane a)
      else if env.desc.scratch < o + size then .error (BadPage.window.trap lane a)
      else .ok (.ok (.scratch env.tid o)) }

/-- w64(base + offset) as an address. -/
def ea64 (base : DWord) (off : Int) : Nat := (base + w64 off).toNat

/-- The offset of LD, ST and LDU (R160) and the register it uses. -/
def Party.offB (p : Party) (b : BitVec 7) (size : Nat) : Int :=
  if b.getLsbD 6 then ((b.toNat % 64 * size : Nat) : Int) else sx (p.ureg (b.toNat % 64))
def useOff (b : BitVec 7) : List RegUse := if b.getLsbD 6 then [] else [.u (b.toNat % 64)]

/-- The size of a width code (R161). -/
def widthSize (w : BitVec 3) : Nat :=
  match w.toNat with
  | 0 | 1 => 1
  | 2 | 3 => 2
  | 4 => 4
  | 5 => 8
  | _ => 16

/-- The registers of a width code (R161). -/
def useWidth (uni : Bool) (w : BitVec 3) (n : Nat) : RegUse :=
  match w.toNat with
  | 5 => if uni then .up n else .vp n
  | 6 => if uni then .uq n else .vq n
  | _ => if uni then .u n else .v n

/-- Register `i` of what a load delivers (R161). -/
def extend (w : BitVec 3) (bs : List Byte) (i : Nat) : Word :=
  match w.toNat with
  | 1 => w32 (sxNat 8 (natOfBytes bs))
  | 3 => w32 (sxNat 16 (natOfBytes bs))
  | _ => BitVec.ofNat 32 (natOfBytes ((bs.drop (4 * i)).take 4))

/-- How many registers a width code covers. -/
def widthRegs (w : BitVec 3) : Nat := if w = 5#3 then 2 else if w = 6#3 then 4 else 1

/-- A pending result that only writes vector registers. -/
def VResult.loads (vw : List (Nat × BitVec 32 × List Word)) (uw : List (Nat × Word)) : VResult :=
  { vwrites := vw, uwrites := uw, aflags := 0#5, floating := false, wait := .ready }

/-- The bytes of the `i`-th active lane's request by lane number. -/
def byLane (p : Party) (data : List (List Byte)) (l : Nat) : List Byte :=
  data.getD ((lanesOf p.exm).findIdx (· == l)) []

/-! ## Loads -/

/-- A class V load: its checks, its waits, then the values its requests read, all in one step (DESIGN CHOICE, log 96), and the pending result
(R162, R164). -/
def State.runLoad (s : State) (n : Nat) (fs : BitVec 1) (plan : Exec → Env → Except Trap (List Req))
    (res : Party → List (List Byte) → VResult) : Out :=
  match s.current with
  | none => .next s
  | some c =>
    if 255 ≤ c.party.cfCount (c.party.coverFlag fs) then .next s
    else
      match plan c (c.env s) with
      | .error tr => .next (s.takeTrap c.tid c.pi tr)
      | .ok rs =>
        match settle (rs.map fun r => (r.lane, r.look)) with
        | .error tr => .next (s.takeTrap c.tid c.pi tr)
        | .ok (.wait vas) => .next (s.waitWalks c.tid c.pi c.task.die c.task.ctx 0 vas)
        | .ok (.ok ts) =>
          if s.loadWaits c ts then .next s
          else
            match s.intOf c.task.die .read ts with
            | .error tr => .next (s.takeTrap c.tid c.pi tr)
            | .ok _ =>
              let data := (List.range rs.length).map fun i =>
                s.targetBytes c.task c.party.seen ((ts.map (·.2)).getD i (.scratch c.tid 0)) ((rs.map (·.size)).getD i 0) i
              let x := (res c.party data).pending s.nextId (c.party.coverFlag fs)
              .next ({ s with nextId := s.nextId + 1 }.modParty c.tid c.pi fun p => (p.addPending x).advance n)

/-- The vector registers a load of a width fills (R161). -/
def Party.loadWrites (p : Party) (d : Nat) (w : BitVec 3) (data : List (List Byte)) :
    List (Nat × BitVec 32 × List Word) :=
  (List.range (widthRegs w)).map fun i => p.vwrite (d + i) fun l => extend w (byLane p data l) i

def execLd (d a b : BitVec 7) (x : BitVec 1) (w : BitVec 3) (s : State) : Out :=
  s.runLoad 1 x (fun c env => do
      useRegs env c.party ([useWidth false w d.toNat, .vp a.toNat] ++ useOff b)
      pure (s.reqs env c.party .read (widthSize w) fun l => ea64 (c.party.vpair a.toNat l) (c.party.offB b (widthSize w))))
    fun p data => .loads (p.loadWrites d.toNat w data) []

def execLdi (d a : BitVec 7) (i : BitVec 10) (f : BitVec 1) (s : State) : Out :=
  s.runLoad 1 f (fun c env => do
      useRegs env c.party [.v d.toNat, .vp a.toNat]
      pure (s.reqs env c.party .read 4 fun l => ea64 (c.party.vpair a.toNat l) (4 * i.toInt)))
    fun p data => .loads (p.loadWrites d.toNat 4#3 data) []

def execLds (d a : BitVec 7) (f : BitVec 1) (b : BitVec 6) (w : BitVec 3) (s : State) : Out :=
  s.runLoad 1 f (fun c env => do
      useRegs env c.party [useWidth false w d.toNat, .v a.toNat, .u b.toNat]
      pure ((lanesOf c.party.exm).map fun l =>
        scratchReq env .read l (widthSize w) (c.party.vreg a.toNat l + c.party.ureg b.toNat).toNat))
    fun p data => .loads (p.loadWrites d.toNat w data) []

/-- The lane whose private window a uniform address lies in: the lowest active one, as SLEA.G takes it (log 11). -/
def Party.lowLane (p : Party) : Nat := (lanesOf p.exm).headD 0

/-- A request of the party as a whole: its faults name lane 0 (R339). -/
def State.uniReq (s : State) (env : Env) (p : Party) (a : Access) (size ea : Nat) : Req :=
  let r := s.req env p a p.lowLane size ea
  match r.look with
  | .error t => { r with lane := 0, look := .error { t with info := t.info - 16 * p.lowLane } }
  | _ => { r with lane := 0 }

def execLdu (d a b : BitVec 7) (x : BitVec 1) (w : BitVec 3) (s : State) : Out :=
  s.runLoad 1 x (fun c env => do
      useRegs env c.party ([useWidth true w d.toNat, .up a.toNat] ++ useOff b)
      pure [s.uniReq env c.party .read (widthSize w) (ea64 (c.party.upair a.toNat) (c.party.offB b (widthSize w)))])
    fun p data => .loads [] ((List.range (widthRegs w)).map fun i => p.uwrite (d.toNat + i) (extend w (data.headD []) i))

/-! ## Stores -/

/-- The oldest line of a core's Satchel leaves to make room (R168). -/
def State.drainOldest (s : State) (die core : Nat) : State :=
  match (s.core die core).satchel with
  | [] => s
  | x :: _ => s.drain die core fun l => l.line == x.line

/-- A store waits before it writes anything: for a failed die to be noticed or for a twin's publication (R331, R258). -/
def State.storeWaits (s : State) (ts : List (Nat × Target)) : Bool :=
  s.anyMute ts || ts.any fun x => match x.2 with | .mem _ fpa _ => s.twinPending fpa | _ => false

/-- A DET task's store of a line that its store set does not hold stalls: the caches need the room, as a free value says, and the
spill area is full (R254, log 41). -/
def State.spillStalls (s : State) (t : Task) (ts : List (Nat × Target)) : Bool :=
  t.det && s.spillFull t.ctx && Config.freeBit (freeIndex s.fresh (2 ^ 62)) && ts.any fun x =>
    match x.2 with
    | .mem va _ l => l.soft && !mem? (lineOf (l.byteOf va)) (storeLinesOf t.storeSet)
    | .scratch _ _ => false

/-- The entries of a core's atomic buffer: the steps of the DET tasks that run on it (R254). -/
def State.bufferUsed (s : State) (die core : Nat) : Nat :=
  (s.tasks.map fun e => if e.2.det && e.2.die == die && e.2.core == core && e.2.phase == .running then e.2.steps.length else 0).sum

/-- A DET task's atomic step stalls: its core's atomic buffer is full, and so is the spill area (R254, R272, log 41). -/
def State.bufferStalls (s : State) (t : Task) (ts : List (Nat × Target)) : Bool :=
  t.det && Config.atomicBufferEntries ≤ s.bufferUsed t.die t.core && s.spillFull t.ctx && ts.any fun x =>
    match x.2 with
    | .mem _ _ l => l.soft
    | .scratch _ _ => false

/-- A lane's contribution store is held (R330). -/
def State.laneWaits (s : State) (tid : Nat) (x : Target) : Bool :=
  match s.task? tid, x with
  | some t, .mem va fpa l => l.contrib && !s.homeFailed fpa && s.contribWaits t va fpa l
  | _, _ => false

/-- The stores of lanes, in lane order (R163), and those that are left where one is held: the lanes before it are done, and the store goes
on with it when its word issues again (R330). -/
def State.storeLanes (tid pi : Nat) : List (Target × Nat × Nat × List Byte) → State → State × List (Nat × Nat × List Byte)
  | [], s => (s, [])
  | x :: r, s =>
    if s.laneWaits tid x.1 then (s, (x :: r).map (·.2)) else State.storeLanes tid pi r (s.storeTarget tid pi x.1 x.2.2.2)

/-- The accesses of a store word: those it was left with, as it issued (R53), or its own. -/
def State.storePlan (s : State) (c : Exec) (plan : Exec → Env → Except Trap (List (Req × List Byte))) :
    Except Trap (List (Req × List Byte)) :=
  if c.party.storing.isEmpty then plan c (c.env s)
  else .ok (c.party.storing.map fun x => (s.req (c.env s) c.party .write x.1 x.2.2.length x.2.1, x.2.2))

/-- A store instruction: checks, waits, then every write in lane order (R162, R163, R165), in one step while nothing holds a line up
(DESIGN CHOICE, log 96). -/
def State.runStore (s : State) (n : Nat) (raise : Party → BitVec 5)
    (plan : Exec → Env → Except Trap (List (Req × List Byte))) : Out :=
  match s.current with
  | none => .next s
  | some c =>
    match s.storePlan c plan with
    | .error tr => .next (s.takeTrap c.tid c.pi tr)
    | .ok rs =>
      match settle (rs.map fun r => (r.1.lane, r.1.look)) with
      | .error tr => .next (s.takeTrap c.tid c.pi tr)
      | .ok (.wait vas) => .next (s.waitWalks c.tid c.pi c.task.die c.task.ctx 1 vas)
      | .ok (.ok ts) =>
        if s.storeWaits ts || s.spillStalls c.task ts then .next s
        else if s.satchelNeed c.task ts ≠ 0 ∧
            Config.satchelLines < s.satchelUsed c.task.die c.task.core + s.satchelNeed c.task ts then
          .next (s.drainOldest c.task.die c.task.core)
        else
          let r := State.storeLanes c.tid c.pi ((ts.map (·.2)).zip (rs.map fun r => (r.1.lane, r.1.ea, r.2))) s
          -- the flags that its values raise are raised as it issues (R53)
          .next (r.1.modParty c.tid c.pi fun p =>
            let p1 := if c.party.storing.isEmpty then p.raise (raise c.party) else p
            if r.2.isEmpty then { (p1.advance n) with storing := [] } else { p1 with storing := r.2 })

/-- The bytes a store of a width takes from a lane's registers (R161). -/
def Party.storeBytes (p : Party) (d : Nat) (w : BitVec 3) (l : Nat) : List Byte :=
  ((List.range (widthRegs w)).flatMap fun i => leBytes 4 (p.vreg (d + i) l).toNat).take (widthSize w)

/-- The requests of a store with the bytes of each lane. -/
def Party.withBytes (p : Party) (d : Nat) (w : BitVec 3) (rs : List Req) : List (Req × List Byte) :=
  rs.map fun r => (r, p.storeBytes d w r.lane)

def execSt (d a b : BitVec 7) (w : BitVec 3) (s : State) : Out :=
  s.runStore 1 (fun _ => 0#5) fun c env => do
    useRegs env c.party ([useWidth false w d.toNat, .vp a.toNat] ++ useOff b)
    pure (c.party.withBytes d.toNat w
      (s.reqs env c.party .write (widthSize w) fun l => ea64 (c.party.vpair a.toNat l) (c.party.offB b (widthSize w))))

def execSti (d a : BitVec 7) (i : BitVec 11) (s : State) : Out :=
  s.runStore 1 (fun _ => 0#5) fun c env => do
    useRegs env c.party [.v d.toNat, .vp a.toNat]
    pure (c.party.withBytes d.toNat 4#3
      (s.reqs env c.party .write 4 fun l => ea64 (c.party.vpair a.toNat l) (4 * i.toInt)))

def execSts (d a b : BitVec 7) (w : BitVec 3) (s : State) : Out :=
  s.runStore 1 (fun _ => 0#5) fun c env => do
    useRegs env c.party [useWidth false w d.toNat, .v a.toNat, .u b.toNat]
    pure (c.party.withBytes d.toNat w ((lanesOf c.party.exm).map fun l =>
      scratchReq env .write l (widthSize w) (c.party.vreg a.toNat l + c.party.ureg b.toNat).toNat))

/-! ## Views (R148, R149, R155, R156) -/

/-- A view block as its eight registers give it. -/
structure View where
  base : DWord
  row0 : Nat
  col0 : Nat
  pitch : Nat
  ctl : Word
  sbase : DWord
  deriving DecidableEq, Repr

/-- The view in eight words, and a party's view block. -/
def viewOf (w : List Word) : View :=
  { base := pairOf (w.getD 0 0) (w.getD 1 0), row0 := (w.getD 2 0).toNat, col0 := (w.getD 3 0).toNat
    pitch := (w.getD 4 0).toNat, ctl := w.getD 5 0, sbase := pairOf (w.getD 6 0) (w.getD 7 0) }

/-- TRANS, the reserved bits, and Key(view) under an `fmt` (R148, R149). -/
def View.trans (v : View) : Bool := bit v.ctl.toNat 0
def View.reserved (v : View) : Bool := bits v.ctl.toNat 2 14 == 0
def View.key (v : View) (fmt : Word) : Nat := if bit v.ctl.toNat 1 then fmtKey fmt else bits v.ctl.toNat 16 16

/-- Storage, Coords, CodeAddr and MetaAddr (R149). -/
def View.storage (v : View) (i j : Nat) : Nat × Nat := if v.trans then (j, i) else (i, j)
def View.coords (v : View) (x : Nat × Nat) : Nat × Nat := ((v.row0 + x.1) % 2 ^ 32, (v.col0 + x.2) % 2 ^ 32)
def View.codeAddr (v : View) (f : Nat) (x : Nat × Nat) : Nat :=
  (v.base.toNat + x.1 * v.pitch + (if f = 2 then x.2 / 2 else x.2)) % 2 ^ 64
def View.metaAddr (v : View) (x : Nat × Nat) : Nat :=
  (v.sbase.toNat + x.1 * (v.pitch / 8) + 2 * (x.2 / 32)) % 2 ^ 64

/-- E2M1X asks for a PITCH of whole blocks and an even SBASE (R149). -/
def View.aligned (v : View) (f : Nat) : Bool := f != 2 || (v.pitch % 16 == 0 && v.sbase.toNat % 2 == 0)

/-- QST's lanes: the element a lane quantises, with flags of active lanes only (R155). -/
def Party.qstCode (p : Party) (v : View) (f b d l : Nat) : FloatRes :=
  let x := v.storage (p.ureg b).toNat (posCol (p.ureg (b + 1)) l)
  let rc := v.coords x
  quantise f (fmtE5inf p.top.fmt) (if p.exm.getLsbD l then (p.vreg d l).toNat else 0) rc.1 rc.2 (v.key p.top.fmt)
    (posMeta (p.ureg (b + 2)))

/-- QST (R155): of the faults of its code and its metadata accesses, the code access's comes first (DESIGN CHOICE, log 95). -/
def execQst (d a b : BitVec 7) (f : BitVec 3) (s : State) : Out :=
  s.runStore 1 (fun p =>
      orFlags p.exm fun l => (p.qstCode (viewOf (p.ublock a.toNat 8)) f.toNat b.toNat d.toNat l).2) fun c env => do
    let p := c.party
    let v := viewOf (p.ublock a.toNat 8)
    let ill : Except Trap Unit := do
      need v.reserved (Trap.ill 1)
      need (f != 2#3 || !v.trans) (Trap.ill 3)
    checkRegs env p [.u (a.toNat + 5)] ill ([.v d.toNat, .ub a.toNat 8] ++ usePos b.toNat)
    let code := fun l => (p.qstCode v f.toNat b.toNat d.toNat l).1
    let row := (p.ureg b.toNat).toNat
    let col := (p.ureg (b.toNat + 1)).toNat
    if f = 2#3 then do
      need (v.aligned 2 && col % 32 == 0) (Trap.aln p.lowLane .write)
      let codes := (List.range 16).map fun i => BitVec.ofNat 8 (code (2 * i) % 16 + 16 * (code (2 * i + 1) % 16))
      let m := p.ureg (b.toNat + 2)
      pure [(s.req env p .write p.lowLane 16 (v.codeAddr 2 (row, col)), codes),
        (s.req env p .write p.lowLane 2 (v.metaAddr (row, col)), leBytes 2 m.toNat)]
    else
      pure ((lanesOf p.exm).map fun l =>
        (s.req env p .write l 1 (v.codeAddr f.toNat (v.storage row (posCol (p.ureg (b.toNat + 1)) l))),
          [BitVec.ofNat 8 (code l)]))

/-- DQLD's value in a lane from its code byte and metadata (R156). -/
def Party.dqldValue (p : Party) (v : View) (f b l code : Nat) (m : Nat) : FloatRes :=
  let x := v.storage (p.ureg b).toNat (posCol (p.ureg (b + 1)) l)
  let rc := v.coords x
  let q := if f = 2 then (if x.2 % 2 = 0 then code % 16 else code / 16) else code
  decodeF32 (decodeCode f q rc.1 rc.2 (v.key p.top.fmt) { scale := m % 256, x := m / 256 })

/-- DQLD (R156): of a lane's two accesses the code access's fault comes first (DESIGN CHOICE, log 95). -/
def execDqld (d a b : BitVec 7) (x : BitVec 1) (f : BitVec 3) (s : State) : Out :=
  s.runLoad 1 x (fun c env => do
      let p := c.party
      let v := viewOf (p.ublock a.toNat 8)
      checkRegs env p [.u (a.toNat + 5)] (need v.reserved (Trap.ill 1)) ([.v d.toNat, .ub a.toNat 8] ++ usePos b.toNat)
      need (v.aligned f.toNat) (Trap.aln p.lowLane .read)
      pure ((lanesOf p.exm).flatMap fun l =>
        let y := v.storage (p.ureg b.toNat).toNat (posCol (p.ureg (b.toNat + 1)) l)
        s.req env p .read l 1 (v.codeAddr f.toNat y) ::
          (if f = 2#3 then [s.req env p .read l 2 (v.metaAddr y)] else [])))
    fun p data =>
      let v := viewOf (p.ublock a.toNat 8)
      let k := if f = 2#3 then 2 else 1
      p.floatResult d.toNat fun l =>
        let i := (lanesOf p.exm).findIdx (· == l)
        p.dqldValue v f.toNat b.toNat l (natOfBytes (data.getD (k * i) []))
          (if f = 2#3 then natOfBytes (data.getD (2 * i + 1) []) else 0)

/-! ## Atomics (R171 to R174) -/

/-- The size of an atomic operation's operand. -/
def atomSize (op : Nat) : Nat := if 12 ≤ op then 8 else 4

/-- m ⊕ b of R171, `args` the lane's operand, or its comparand and new value. -/
def atomValue (op m : Nat) (args : List DWord) : Nat :=
  let b := ((args.getD 0 0).toNat)
  let x := BitVec.ofNat 32 m
  let y := BitVec.ofNat 32 b
  match op with
  | 0 => (m + b) % 2 ^ 32
  | 1 => (iminSW x y).toNat
  | 2 => (imaxSW x y).toNat
  | 3 => (iminZW x y).toNat
  | 4 => (imaxZW x y).toNat
  | 5 => (x &&& y).toNat
  | 6 => (x ||| y).toNat
  | 7 => (x ^^^ y).toNat
  | 8 => b
  | 9 => (fp32.add 0 m b).1
  | 10 => (fp32.minMax true true m b).1
  | 11 => if m = b then (args.getD 1 0).toNat else m
  | 12 => (m + b) % 2 ^ 64
  | _ => b

/-- The pre-sum of FADD's lanes (R172). -/
def faddSums : Nat → List (List DWord) → List Nat
  | _, [] => []
  | s, a :: r => s :: faddSums (fp32.add 0 s (a.getD 0 0).toNat).1 r

/-- The step of R172 on a value: each lane's old value, and the new value. -/
def atomFold (op : Nat) : Nat → List (List DWord) → List Nat × Nat
  | m, [] => ([], m)
  | m, a :: r =>
    let t := atomFold op (atomValue op m a) r
    (m :: t.1, t.2)
def atomStep (op m : Nat) (lanes : List (List DWord)) : List Nat × Nat :=
  if op = 9 then
    match lanes with
    | [] => ([], m)
    | a :: r =>
      let sums := faddSums (a.getD 0 0).toNat r
      let last := match r.getLast? with
        | none => (a.getD 0 0).toNat
        | some z => (fp32.add 0 (sums.getLastD 0) (z.getD 0 0).toNat).1
      (m :: sums.map fun x => (fp32.add 0 m x).1, (fp32.add 0 m last).1)
  else atomFold op m lanes

/-- What a DET task buffers for a step (R254): FADD's operand pre-summed, else every lane's operands. -/
def stepArgs (op : Nat) (lanes : List (List DWord)) : List DWord :=
  if op = 9 then
    match lanes with
    | [] => []
    | a :: r => [BitVec.ofNat 64 (r.foldl (fun x b => (fp32.add 0 x (b.getD 0 0).toNat).1) (a.getD 0 0).toNat)]
  else lanes.flatten

/-- The operands of a buffered step, lane by lane. -/
def argLanes : Nat → List DWord → List (List DWord)
  | 11, c :: n :: r => [c, n] :: argLanes 11 r
  | 11, _ => []
  | _, [] => []
  | k + 1, a :: r => [a] :: argLanes (k + 1) r
  | 0, a :: r => [a] :: argLanes 0 r

/-- A buffered step applied to a value (R239). -/
def AtomStep.apply (x : AtomStep) (m : Nat) : Nat := (atomStep x.op m (argLanes x.op x.args)).2

/-- Buffered steps applied to the eight bytes at a block of a page's frame (R174, R239). -/
def applySteps (steps : List AtomStep) (block : Nat) (v : Nat) : Nat :=
  steps.foldl (fun v x =>
    if x.fpa / 8 = block then
      let o := 8 * (x.fpa % 8)
      let n := 8 * atomSize x.op
      v - bits v o n * 2 ^ o + x.apply (bits v o n) * 2 ^ o
    else v) v

/-- The value a DET task's atomic finds at an address (R174). -/
def State.detValue (s : State) (t : Task) (seen : Seen) (va fpa : Nat) (l : Leaf) (n : Nat) : Nat :=
  let v := natOfBytes (s.targetBytes t seen (.mem (va / 8 * 8) (fpa / 8 * 8) l) 8 va)
  bits (applySteps t.steps (l.byteOf va / 8) v) (8 * (va % 8)) (8 * n)

/-- The lanes of an atomic at one address, with the operands of each. -/
structure AtomGroup where
  target : Target
  lanes : List (Nat × List DWord)

/-- What tells addresses apart: scratch bytes from virtual addresses. -/
def Target.key (x : Target) : Nat × Nat :=
  match x with
  | .scratch t o => (t + 1, o)
  | .mem va _ _ => (0, va)

/-- The groups of R172 in the order of their lowest lanes. -/
def atomGroups (ts : List (Nat × Target)) (args : Nat → List DWord) : List AtomGroup :=
  ((ts.map fun x => x.2.key).eraseDups).filterMap fun k =>
    match ts.filter fun x => x.2.key == k with
    | [] => none
    | x :: r => some { target := x.2, lanes := (x :: r).map fun y => (y.1, args y.1) }

/-- The value at a target's home. -/
def State.homeNat (s : State) (x : Target) (n : Nat) : Nat :=
  match x with
  | .scratch t o => natOfBytes ((List.range n).map fun i => ((s.task? t).map fun y => Cells.get y.scratch (o + i)).getD 0)
  | .mem _ fpa _ => s.mem.readNat fpa n

/-- A core's own bytes of a line go home before an atomic step on it (R245, R264). -/
def State.settleLine (s : State) (die core fpa : Nat) : State :=
  (s.writeBack die core fun x => lineOf x.fpa == lineOf fpa).drain die core fun l => l.line == lineOf fpa

/-- A step sent on its way is a new write of its party (R245, R256). -/
def State.sendStep (s : State) (tid pi : Nat) (f : Flit) : State :=
  { s with writes := s.writes + 1 }.sendFlit { f with write := s.writes, after := s.seenOf tid pi } |>.modParty tid pi fun p =>
    { p with seen := p.seen.add s.writes (s.writes + 1) }

/-- A group's step: performed at its home at once, buffered by a DET task, or sent off the package (R172 to R174): the
old values by lane, and the flit that will bring them otherwise. An ATOM's step is sure to be performed once it has issued. -/
def State.atomGroup (s : State) (tid pi op : Nat) (pend : Option Nat) (g : AtomGroup) :
    List (Nat × DWord) × List Nat × State :=
  match s.task? tid with
  | none => ([], [], s)
  | some t =>
    let args := g.lanes.map (·.2)
    let n := atomSize op
    let olds := fun m => ((g.lanes.map (·.1)).zip (atomStep op m args).1).map fun x => (x.1, BitVec.ofNat 64 x.2)
    match g.target with
    | .scratch k o =>
      let m := s.homeNat g.target n
      (olds m, [], s.writeScratch k o (leBytes n (atomStep op m args).2) false false)
    | .mem va fpa l =>
      if t.det && l.soft then
        let m := s.detValue t (s.seenOf tid pi) va fpa l n
        let x : AtomStep :=
          { va := BitVec.ofNat 64 va, fpa := l.byteOf va, op := op, args := stepArgs op args, party := pi, seq := t.atomSeq,
            lane := (g.lanes.map (·.1)).headD 0 }
        (olds m, [], s.putTask tid { t with steps := t.steps ++ [x] })
      else
        let s0 := s.settleLine t.die t.core fpa
        let s0 := if l.soft then s0.noteWrite tid fpa else s0
        if s0.homeFailed fpa then ([], [], s0.postPoison t.die va 4 t.ctx)
        else if isRemote fpa && l.soft then
          if s0.reachable t.die fpa then
            ([], [s0.nextId], s0.sendStep tid pi
              { fpa := fpa, va := va, frame := t.frame, work := .atom op g.lanes pend, die := t.die, core := t.core, ctx := t.ctx
                who := [(tid, pi)], write := 0, after := Seen.none, sure := pend.isSome, custody := false, performed := false, failed := false, olds := [] })
          else ([], [], s0.postEngineError t.die 0 1 t.ctx va t.frame)
        else if pend.isNone && s0.farLost t.die fpa va then ([], [], s0.postEngineError t.die 0 1 t.ctx va t.frame)
        else
          let m := s0.mem.readNat fpa n
          let s1 := (s0.writeHome fpa (leBytes n (atomStep op m args).2)).partyWrote s0 tid pi
          (olds m, [], if l.soft then s1.noteLine t.ctx va fpa else s1)

/-- All groups of an instruction, one after another. -/
def State.atomAll (s : State) (tid pi op : Nat) (pend : Option Nat) (gs : List AtomGroup) :
    List (Nat × DWord) × List Nat × State :=
  gs.foldl (fun acc g =>
    let r := acc.2.2.atomGroup tid pi op pend g
    (acc.1 ++ r.1, acc.2.1 ++ r.2.1, r.2.2)) ([], [], s)

/-- The operands of ATOM and ARED in a lane (R171). -/
def Party.atomArgs (p : Party) (op b l : Nat) : List DWord :=
  if op = 11 then [(p.vreg b l).setWidth 64, (p.vreg (b + 1) l).setWidth 64]
  else if 12 ≤ op then [p.vpair b l]
  else [(p.vreg b l).setWidth 64]

/-- A pair where the operation takes one (R171). -/
def useAtomB (op b : Nat) : RegUse := if 11 ≤ op then .vp b else .v b
def useAtomD (op d : Nat) : RegUse := if 12 ≤ op then .vp d else .v d

/-- The pending result of an ATOM (R173): the old values it has, and the flits it waits for. -/
def Party.atomResult (p : Party) (op d : Nat) (olds : List (Nat × DWord)) (flits : List Nat) : VResult :=
  let v := fun l => ((olds.find? fun x => x.1 == l).map (·.2)).getD 0
  { vwrites := p.vwrite d (fun l => loWord (v l)) :: (if 12 ≤ op then [p.vwrite (d + 1) fun l => hiWord (v l)] else [])
    uwrites := [], aflags := 0#5, floating := false, wait := if flits.isEmpty then .ready else .flits flits }

/-- An atomic instruction: checks, waits, its steps, and what becomes of the party (R162, R172). -/
def State.runAtom (s : State) (op b : Nat) (ea : Party → Nat → Nat) (use : List RegUse) (load : Bool)
    (fin : State → Exec → List (Nat × DWord) → List Nat → State) : Out :=
  match s.current with
  | none => .next s
  | some c =>
    match useRegs (c.env s) c.party use with
    | .error tr => .next (s.takeTrap c.tid c.pi tr)
    | .ok _ =>
      let rs := s.reqs (c.env s) c.party .atomic (atomSize op) (ea c.party)
      match settle (rs.map fun r => (r.lane, r.look)) with
      | .error tr => .next (s.takeTrap c.tid c.pi tr)
      | .ok (.wait vas) => .next (s.waitWalks c.tid c.pi c.task.die c.task.ctx 2 vas)
      | .ok (.ok ts) =>
        if s.storeWaits ts || s.bufferStalls c.task ts then .next s
        else
          match if load then s.intOf c.task.die .atomic ts else .ok () with
          | .error tr => .next (s.takeTrap c.tid c.pi tr)
          | .ok _ =>
            let gs := atomGroups ts (c.party.atomArgs op b)
            let s0 := if load then { s with nextId := s.nextId + 1 } else s
            let r := s0.atomAll c.tid c.pi op (if load then some s.nextId else none) gs
            let s1 := r.2.2.modTask c.tid fun t => { t with atomSeq := t.atomSeq + 1 }
            .next (fin s1 c r.1 r.2.1)

/-- ATOM (R171 to R173), class V: the party goes on at once, and the flag covers the answer of a step that leaves the package. -/
def execAtom (d a : BitVec 7) (f : BitVec 1) (b : BitVec 6) (o : BitVec 4) (s : State) : Out :=
  match s.current with
  | none => .next s
  | some c =>
    if 255 ≤ c.party.cfCount (c.party.coverFlag f) then .next s
    else
      s.runAtom o.toNat b.toNat (fun p l => (p.vpair a.toNat l).toNat)
        [useAtomD o.toNat d.toNat, .vp a.toNat, useAtomB o.toNat b.toNat] true
        fun s1 c olds flits => s1.modParty c.tid c.pi fun p =>
          (p.addPending ((p.atomResult o.toNat d.toNat olds flits).pending s.nextId (p.coverFlag f))).advance 1

def execAred (a b : BitVec 7) (o : BitVec 4) (s : State) : Out :=
  s.runAtom o.toNat b.toNat (fun p l => (p.vpair a.toNat l).toNat) [.vp a.toNat, useAtomB o.toNat b.toNat] false
    fun s1 c _ _ => s1.retire c 1

/-! ## Cache control (R178 to R180) -/

/-- A span of fabric physical addresses with its leaf. -/
structure Span where
  lo : Nat
  hi : Nat
  leaf : Leaf

/-- A page of a cache operation's range: scratch, a span, or a page to wait for. -/
inductive RangeLook where
  | none
  | span (x : Span)
  | miss (va : Nat)

/-- A page of a range that has no translation: only PGF stops CWB and CINV.W (R178). -/
def rangeBad (b : BadPage) (a : Access) : Except Trap RangeLook :=
  if b.prt && a == .read then .ok .none else .error (b.trap 0 a)

/-- One 64 KiB piece of a range. -/
def State.rangePage (s : State) (env : Env) (p : Party) (a : Access) (lo hi : Nat) : Except Trap RangeLook :=
  match s.placeLane env p.lowLane lo with
  | .error b => rangeBad b a
  | .ok (.scratch _ _) => .ok .none
  | .ok (.va va) =>
    match s.lookRange p.cancelled env.die env.core (.range env.tid env.pi) env.ctx va with
    | .bad b => rangeBad b a
    | .hit l fpa => .ok (.span { lo := fpa, hi := fpa + (hi - lo), leaf := l })
    | .miss page _ => if mem? page p.cancelled then .error (Trap.notMapped 0 a) else .ok (.miss va)

/-- The pieces of [lo, hi), each inside one 64 KiB page. -/
def pieces (lo hi : Nat) : List (Nat × Nat) :=
  if hi ≤ lo then []
  else (List.range ((hi - 1) / 65536 - lo / 65536 + 1)).map fun i =>
    (max lo ((lo / 65536 + i) * 65536), min hi ((lo / 65536 + i + 1) * 65536))

/-- A byte lies in a span that L1 may hold. -/
def inSpans (l : List Span) (a : Nat) : Bool := l.any fun x => x.leaf.cacheable && x.lo ≤ a && a < x.hi

/-- A cache operation over a range: its pages first, then its work, which says whether the party goes on (R178, R179). -/
def State.runRange (s : State) (a : Access) (use : Env → Party → Except Trap (Nat × Nat))
    (page : Span → Except Trap Unit) (work : State → Exec → List Span → State × Bool) : Out :=
  match s.current with
  | none => .next s
  | some c =>
    match use (c.env s) c.party with
    | .error tr => .next (s.takeTrap c.tid c.pi tr)
    | .ok (base, len) =>
      let lo := base / 64 * 64
      let hi := if len = 0 then lo else (base + len + 63) / 64 * 64
      match (pieces lo hi).mapM fun x => s.rangePage (c.env s) c.party a x.1 x.2 with
      | .error tr => .next (s.takeTrap c.tid c.pi tr)
      | .ok looks =>
        match looks.filterMap fun x => match x with | .miss va => some va | _ => none with
        | va :: _ => .next (s.waitWalksAs (.range c.tid c.pi) c.tid c.pi c.task.die c.task.ctx a.code [va])
        | [] =>
          let spans := looks.filterMap fun x => match x with | .span y => some y | _ => none
          match spans.forM page with
          | .error tr => .next (s.takeTrap c.tid c.pi tr)
          | .ok _ =>
            let r := work s c spans
            .next (if r.2 then r.1.retire c 1 else r.1)

/-- The range of CWB and CINV (R178). -/
def useRange (a b : BitVec 7) (env : Env) (p : Party) : Except Trap (Nat × Nat) := do
  useRegs env p [.up a.toNat, .u b.toNat]
  pure ((p.upair a.toNat).toNat, (p.ureg b.toNat).toNat)

/-- A line lies in one of the spans, whether or not L1 may hold it. -/
def lineIn (l : List Span) (ln : Nat) : Bool := l.any fun y => y.lo ≤ ln * 64 && ln * 64 < y.hi

/-- The lines of the spans that L1 may hold copies of. -/
def copiedRanges (l : List Span) : List (Nat × Nat) :=
  (l.filter fun x => x.leaf.cacheable).map fun x => (x.lo / 64, x.hi / 64)

/-- The lines of the spans. -/
def spanRanges (l : List Span) : List (Nat × Nat) := l.map fun x => (x.lo / 64, x.hi / 64)

/-- Writes home what the issuing core holds of the spans (R178). -/
def State.cleanSpans (s : State) (c : Exec) (l : List Span) : State :=
  (s.writeBack c.task.die c.task.core fun x => inSpans l x.fpa).drain c.task.die c.task.core fun x => lineIn l x.line

/-- All that the issuing core has written in the spans is at its home: nothing is dirty, none is held back, and no store is on
its way (R178, R363). -/
def State.spansHome (s : State) (c : Exec) (l : List Span) : Bool :=
  let k := s.core c.task.die c.task.core
  !(k.stores.any fun x => inSpans l x.fpa) && !(k.satchel.any fun x => lineIn l x.line) &&
    !(s.flits.any fun f => lineIn l (lineOf f.2.fpa))

/-- The spans once all is home: whoever reads there afterwards finds it (R178, R261). -/
def State.spansDone (s : State) (c : Exec) (l : List Span) : State × Bool :=
  if s.spansHome c l then (s.raiseHome (spanRanges l), true) else (s, false)

def execCwb (a b : BitVec 7) (s : State) : Out :=
  s.runRange .read (useRange a b) (fun _ => .ok ()) fun s c l =>
    (s.cleanSpans c l).spansDone c l

def execCinvW (a b : BitVec 7) (s : State) : Out :=
  s.runRange .read (useRange a b) (fun _ => .ok ()) fun s c l =>
    ((s.cleanSpans c l).invalidate c.task.die c.task.core (copiedRanges l)).spansDone c l

/-- A byte of a dirty store goes home on its own. -/
def State.keepByte (s : State) (x : Store) (e : Nat × Byte) : State := s.settleStore { x with bytes := [e] }

/-- CINV.D's work (R179): of each byte that is dirty in the range, a free value says whether it has been evicted home before; the rest
are discarded, and D counts their lines. The copies go. -/
def State.discard (s : State) (c : Exec) (d : Nat) (l : List Span) : State :=
  let die := c.task.die
  let own := s.core die c.task.core
  let mine := own.stores.filter fun x => inSpans l x.fpa
  let saved := fun (a : Nat) => Config.freeBit (freeIndex s.fresh a)
  let s1 := (mine.flatMap fun x => (x.bytes.filter fun e => saved e.1).map fun e => (x, e)).foldl (fun s y => s.keepByte y.1 y.2) s
  let n := (mapLines ((storesBytes mine).filter fun e => !saved e.1)).length
  ((s1.putCore die c.task.core { own with stores := own.stores.filter fun x => !inSpans l x.fpa }).invalidate die c.task.core
    (copiedRanges l)).modParty c.tid c.pi fun p => p.setU d (BitVec.ofNat 32 (min n 0xFFFFFFFF))

def execCinvD (d a b : BitVec 7) (s : State) : Out :=
  s.runRange .write (fun env p => do
      need (!env.det) (Trap.ill 4)
      useRegs env p [.u d.toNat, .up a.toNat, .u b.toNat]
      need ((p.upair a.toNat).toNat % 64 == 0 && (p.ureg b.toNat).toNat % 64 == 0) (Trap.aln 0 .write)
      pure ((p.upair a.toNat).toNat, (p.ureg b.toNat).toNat))
    (fun x => do
      need x.leaf.soft (BadPage.type.trap 0 .write)
      need x.leaf.w (BadPage.perm.trap 0 .write))
    fun s c l => (s.discard c d.toNat l, true)

/-- PREF (R180): it never faults and changes no value that a load returns. A copy of a line may come into L1 and leave it at any
time (R246, R277), so this model has nothing more to record of it (log 73). -/
def execPref (a : BitVec 7) (_l : BitVec 1) (s : State) : Out :=
  s.runParty 1 fun env p => do
    useRegs env p [.vp a.toNat]
    pure p

/-! ## CPROBE (R181) -/

/-- The probe's low register. -/
def probeLow (wrapped shadow : Bool) (typ home hdie kind hopsB hopsA : Nat) : Word :=
  BitVec.ofNat 32 (2 ^ 23 * b2n wrapped + 2 ^ 22 * b2n shadow + 2 ^ 20 * typ + 2 ^ 18 * home + 2 ^ 15 * hdie + 2 ^ 12 * kind
    + 16 * hopsB + hopsA)

/-- What the probe says of scratch on a die (R181). -/
def State.probeScratch (s : State) (d h : Nat) : Word × Word :=
  let n := s.hops d h
  (probeLow s.wrapped false 0 0 h 4 n.2 n.1, 0)

/-- What the probe says of a translated address, for a reader on die `d` (R181). -/
def State.probePage (s : State) (d : Nat) (l : Leaf) (fpa : Nat) : Word × Word :=
  let at_ := fun (h kind peer : Nat) (n : Nat × Nat) =>
    (probeLow s.wrapped l.shadow l.typ.code l.home.code h kind n.2 n.1, BitVec.ofNat 32 peer)
  let here := ((homeOf fpa).die?).getD d
  match fpaClass fpa with
  | 0 => at_ here (if here = d then 0 else 1) 0 (s.hops d here)
  | 1 =>
    match s.exitDie d (fpaPkg fpa) with
    | some e => at_ e 2 (fpaPkg fpa) (s.hops d e)
    | none => at_ d 2 (fpaPkg fpa) (15, 15)
  | 2 =>
    let h := fpaNode fpa / 4
    at_ h 3 (fpaNode fpa) (if s.nodeUp (fpaNode fpa) then s.hops d h else (15, 15))
  | _ =>
    if bits fpa 50 4 = 2 then at_ d 5 0 (0, 0)
    else at_ here 4 0 (s.hops d here)

/-- CPROBE (R181), class V. While a wrap is pending it waits, as R336's and R337's words have it (DEDUCED, log 104). -/
def execCprobe (d a : BitVec 7) (f : BitVec 1) (s : State) : Out :=
  match s.current with
  | none => .next s
  | some c =>
    if 255 ≤ c.party.cfCount (c.party.coverFlag f) || s.wrapNext.isSome then .next s
    else
      let env := c.env s
      let done := fun (r : Word × Word) =>
        let x := (VResult.loads [] [c.party.uwrite d.toNat r.1, c.party.uwrite (d.toNat + 1) r.2]).pending s.nextId
          (c.party.coverFlag f)
        Host.Outcome.next ({ s with nextId := s.nextId + 1 }.modParty c.tid c.pi fun p => (p.addPending x).advance 1)
      match useRegs env c.party [.up d.toNat, .up a.toNat] with
      | .error tr => .next (s.takeTrap c.tid c.pi tr)
      | .ok _ =>
        match s.placeLane env c.party.lowLane (c.party.upair a.toNat).toNat with
        | .error b => .next (s.takeTrap c.tid c.pi (b.trap 0 .read))
        | .ok (.scratch t _) => done (s.probeScratch c.task.die (((s.task? t).map (·.die)).getD 0))
        | .ok (.va va) =>
          match s.lookWord c.party.cancelled env.die env.core env.ctx va with
          | .bad b => .next (s.takeTrap c.tid c.pi (b.trap 0 .read))
          | .miss page _ =>
            if mem? page c.party.cancelled then .next (s.takeTrap c.tid c.pi (Trap.notMapped 0 .read))
            else .next (s.waitWalks c.tid c.pi c.task.die c.task.ctx 0 [va])
          | .hit l fpa => done (s.probePage c.task.die l fpa)

end Sys2Proof.Machine
end

