-- ==== Sys2Proof/Machine/Control.lean ====
section
/-! DEFINITION. Clauses and control transfers (R44 to R51, R87 to R94), traps raised and returned from by words (R95 to
R97), pre-emption points and marks (R98, R99). -/

namespace Sys2Proof.Machine

/-! ## Code words -/

/-- Words of code: read, a page to wait for, a home that does not answer yet, or the cause of a fetch that fails (R282). -/
inductive CodeLook where
  | words (ws : List Word)
  | wait (va : Nat)
  | stall
  | bad (t : Trap)
  deriving DecidableEq, Repr

/-- The word of a target that a fetch has been granted (R44, R287). -/
def State.fetchWord (s : State) (c : Exec) (x : Target) (a : Nat) : CodeLook :=
  match s.targetFault c.task.die .fetch x a with
  | some b => .bad (Trap.int 0 .fetch b)
  | none => .words [BitVec.ofNat 32 (natOfBytes (s.targetBytes c.task c.party.seen x 4 a))]

/-- The word at a code address as a party fetches it (R44, R282, R287); a window is that of the lowest active lane
(log 11). -/
def State.codeWord (s : State) (c : Exec) (a : Nat) : CodeLook :=
  match s.placeLane (c.env s) c.party.lowLane a with
  | .error b => .bad (b.trap 0 .fetch)
  | .ok (.scratch t o) => s.fetchWord c (.scratch t o) a
  | .ok (.va va) =>
    match s.lookWord c.party.cancelled c.task.die c.task.core c.task.ctx va with
    | .bad b => .bad (b.trap 0 .fetch)
    | .miss page _ => if mem? page c.party.cancelled then .bad (Trap.notMapped 0 .fetch) else .wait va
    | .hit l fpa =>
      match s.permit l fpa .fetch with
      | .error b => .bad (b.trap 0 .fetch)
      | .ok _ =>
        if s.loadWaits c [(0, .mem va fpa l)] then .stall else s.fetchWord c (.mem va fpa l) a

/-- `n` words from an address up, the first that cannot be read deciding. -/
def State.codeWords (s : State) (c : Exec) : Nat → Nat → CodeLook
  | _, 0 => .words []
  | a, n + 1 =>
    match s.codeWord c a with
    | .words w =>
      match s.codeWords c (a + 4) n with
      | .words ws => .words (w ++ ws)
      | r => r
    | r => r

/-- A fetch's cause reports a header's address (R338). -/
def Trap.at (t : Trap) (a : DWord) : Trap := { t with addr := some a }

/-- What a word that must be a header raises where it is none (R44, R51). -/
def headerTrap (w : Word) (a : DWord) : Option Trap :=
  if w = 0#32 then some (Trap.zwf.at a) else if w.toNat / 2 ^ 25 ≠ 1 then some (Trap.cls 0 a) else none

/-- What keeps a transfer from a target (R51): its word's page is waited for, or it is no header. A target that cannot be read is
left to the start of its clause (log 14). -/
def State.land (s : State) (c : Exec) (x : DWord) : Option State :=
  match s.codeWord c x.toNat with
  | .bad _ => none
  | .wait va => some (s.waitWalks c.tid c.pi c.task.die c.task.ctx 3 [va])
  | .stall => some s
  | .words ws => (headerTrap (ws.headD 0) x).map (s.takeTrap c.tid c.pi)

/-- A word that transfers control, by what it makes of its party and the target it goes to, if that one is checked now: the check
comes before any effect (R51). -/
def State.runTransfer (s : State) (f : Env → Party → Except Trap (Party × Option DWord)) : Out :=
  match s.current with
  | none => .next s
  | some c =>
    match f (c.env s) c.party with
    | .error tr => .next (s.takeTrap c.tid c.pi tr)
    | .ok (p, x) => .next ((x.bind (s.land c)).getD (s.putParty c.tid c.pi p))

/-! ## Clause checks (R51) -/

/-- The flag-select bit of a class V instruction (R52, R78). -/
def flagSelect : Instr → Option (BitVec 1)
  | .ld _ _ _ x _ | .ldu _ _ _ x _ | .dqld _ _ _ x _ => some x
  | .ldi _ _ _ f | .lds _ _ f _ _ | .atom _ _ f _ _ => some f
  | .rcp _ _ f _ | .rsq _ _ f _ | .sqrt _ _ f _ | .ex2 _ _ f _ | .lg2 _ _ f _ | .sinpi _ _ f _ | .cospi _ _ f _ => some f
  | .fdiv _ _ f _ _ => some f
  | .hrcp _ _ f _ | .hrsq _ _ f _ | .hsqrt _ _ f _ | .hex2 _ _ f _ | .hlg2 _ _ f _ | .hsinpi _ _ f _ | .hcospi _ _ f _ =>
    some f
  | .cprobe _ _ f | .paccRda _ _ _ f | .bstat _ f | .cstat _ _ f | .npoll _ _ f => some f
  | _ => none

/-- A major opcode whose words transfer control (R50). -/
def transfers (maj : Nat) : Bool := mem? maj [0x02, 0x03, 0x04, 0x05, 0x06, 0x07, 0x08, 0x0A, 0x0D]

/-- The flag-select bit of a class V word whose other fields hold what they may not, by framing (R51, R78). -/
def framedFlag (w : Word) : Option (BitVec 1) :=
  let maj := w.toNat / 2 ^ 25
  let sub := w.toNat % 8
  if mem? maj [0x44, 0x45, 0x47, 0x5C, 0x5E] then some (field w 10 1)
  else if mem? maj [0x54, 0x58, 0x5D, 0x72, 0x75] || ((maj == 0x61 || maj == 0x6A) && sub == 4) || (maj == 0x15 && sub == 2) then
    some (field w 3 1)
  else none

/-- The flag-select bit of the instruction at the head of a clause's words; an unassigned word is of no class. -/
def wordFlag (ws : List Word) : Option (BitVec 1) :=
  match decode ws with
  | .ok (i, _) => flagSelect i
  | .error .reserved => framedFlag (ws.headD 0)
  | .error _ => none

/-- The rows of R51's table, 2, 3, 4 and 6, that a clause's words break, read by framing; `fuel` bounds the words. -/
def clauseRows (seta setb : Nat) : Nat → List Word → List Nat
  | 0, _ => []
  | _, [] => []
  | n + 1, w :: ws =>
    let maj := w.toNat / 2 ^ 25
    let tr := trailersOf maj
    let rest := ws.drop tr
    let v := ((wordFlag (w :: ws)).map fun f => if f = 0#1 then seta else setb).getD 0
    (if maj = 1 then [4] else []) ++ (if ws.length < tr then [3] else [])
      ++ (if transfers maj && !rest.isEmpty then [2] else []) ++ (if v = 15 then [6] else [])
      ++ clauseRows seta setb n rest

/-- The first row of R51's table that a clause breaks. -/
def clauseRow (seta setb : Nat) (ws : List Word) : Option Nat :=
  let flag := fun x => x == 12 || x == 13 || x == 14
  minOf? ((if flag seta || flag setb then [5] else []) ++ clauseRows seta setb ws.length ws)

/-- The header's wait is met (R48). -/
def Party.waitMet (p : Party) (w : BitVec 12) : Bool := (List.range 12).all fun i => !w.getLsbD i || p.cfCount i == 0

/-- The path inside a clause that starts at its PC. -/
def Entry.openClause (e : Entry) (seta setb : Nat) (ws : List Word) : Entry :=
  { e with pc := e.pc + 4, go := false, tried := false, told := false, clause := some { header := e.pc, seta := seta, setb := setb, words := ws } }

/-- CLH (R47, R48, R51, R86): the party waits, then the clause is read and checked, then its words begin. YLD is a hint. -/
def execClh (w : BitVec 12) (a b l : BitVec 4) (_y : BitVec 1) (s : State) : Out :=
  match s.current with
  | none => .next s
  | some c =>
    if !c.party.waitMet w then .next s
    else
      let h := c.party.top.pc
      match s.codeWords c (h.toNat + 4) (l.toNat + 1) with
      | .bad t => .next (s.takeTrap c.tid c.pi (t.at h))
      | .wait va => .next (s.waitWalks c.tid c.pi c.task.die c.task.ctx 3 [va])
      | .stall => .next s
      | .words ws =>
        match clauseRow a.toNat b.toNat ws with
        | some r => .next (s.takeTrap c.tid c.pi (Trap.cls r h))
        | none => .next (s.modParty c.tid c.pi fun p => p.modTop fun e => e.openClause a.toNat b.toNat ws)

/-- A word that is no assigned instruction (R83, R339): reason 0 for an unassigned code, 1 for a bit that must be zero;
the all-zero word raises ZWF (R44). -/
def illOf (w : Word) : Trap :=
  if w = 0#32 then Trap.zwf
  else
    match decode [w, 0, 0, 0] with
    | .error .unassigned => Trap.ill 0
    | _ => Trap.ill 1

def execUnassignedEncoding (w : BitVec 32) (s : State) : Out := s.runJump fun _ _ => .error (illOf w)

/-! ## Branches (R88 to R91) -/

/-- A target `n` words from the word at the PC. -/
def Party.target (p : Party) (n : Int) : DWord := p.top.pc + w64 (4 * n)

/-- BRA's decision (R88). -/
def Party.braTaken (p : Party) (n : Bool) (k : Nat) : Except Trap Bool :=
  if 8 ≤ k then .ok (p.upredCond n (k - 8))
  else
    let t := p.predLanes n k p.exm
    if t ≠ 0#32 ∧ t ≠ p.exm then .error (Trap.ubd k (b2n n)) else .ok (t != 0#32)

def execBra (n : BitVec 1) (p : BitVec 4) (o : BitVec 20) (s : State) : Out :=
  s.runTransfer fun _ q => do
    let t ← q.braTaken (n == 1#1) p.toNat
    pure (if t then (q.jump (q.target o.toInt), some (q.target o.toInt)) else (q.jump q.top.fallThrough, none))

/-- The carve-out has room for what a party's stack spills once it has become `p` (R226, R272). -/
def State.spillRoom (s : State) (c : Exec) (p : Party) : Bool :=
  p.spilled ≤ c.party.spilled || s.hiddenRoom c.task.ctx (p.spilled - c.party.spilled)

/-- The party splits, once the word at the join has been seen to be a header (R87, R89) and what its stack spills has room (R272). -/
def State.splitAt (s : State) (c : Exec) (paths : List (DWord × BitVec 32)) (join : DWord) : State :=
  (s.land c join).getD (if s.spillRoom c (c.party.split paths join) then s.putParty c.tid c.pi (c.party.split paths join) else s)

def execBrd (n : BitVec 1) (p : BitVec 4) (o : BitVec 20) (t : BitVec 32) (s : State) : Out :=
  match s.current with
  | none => .next s
  | some c =>
    let q := c.party
    let yes := q.predLanes (n == 1#1) p.toNat q.exm
    let no := q.exm &&& ~~~yes
    let tgt := q.target o.toInt
    let ft := q.top.fallThrough
    if no = 0#32 then .next ((s.land c tgt).getD (s.putParty c.tid c.pi (q.jump tgt)))
    else if yes = 0#32 ∨ tgt = ft then .next (s.putParty c.tid c.pi (q.jump ft))
    else .next ((s.land c tgt).getD (s.splitAt c [(tgt, yes), (ft, no)] (q.target (sxNat 20 t.toNat))))

/-- The distinct targets of the active lanes with their masks (R90). -/
def groupTargets (mask : BitVec 32) (tgt : Nat → DWord) : List (DWord × BitVec 32) :=
  (((lanesOf mask).map tgt).eraseDups).map fun a => (a, maskOf fun l => mask.getLsbD l && tgt l == a)

/-- JTAB's checks before any read (R90, R211), and its requests. -/
def State.jtabPlan (s : State) (env : Env) (p : Party) (a b n : Nat) : Except Trap (List Req) := do
  useRegs env p [.v a, .up b]
  need ((p.upair b).toNat % 8 == 0) (Trap.aln p.lowLane .read)
  match (lanesOf p.exm).find? fun l => n ≤ (p.vreg a l).toNat with
  | some l => .error (Trap.jtx l)
  | none => pure (s.reqs env p .read 8 fun l => ea64 (p.upair b) (8 * (p.vreg a l).toNat))

def execJtab (a b : BitVec 7) (t : BitVec 32) (s : State) : Out :=
  match s.current with
  | none => .next s
  | some c =>
    match s.jtabPlan (c.env s) c.party a.toNat b.toNat (bits t.toNat 20 12 + 1) with
    | .error tr => .next (s.takeTrap c.tid c.pi tr)
    | .ok rs =>
      match settle (rs.map fun r => (r.lane, r.look)) with
      | .error tr => .next (s.takeTrap c.tid c.pi tr)
      | .ok (.wait vas) => .next (s.waitWalks c.tid c.pi c.task.die c.task.ctx 0 vas)
      | .ok (.ok ts) =>
        if s.loadWaits c ts then .next s
        else
          match s.intOf c.task.die .read ts with
          | .error tr => .next (s.takeTrap c.tid c.pi tr)
          | .ok _ =>
            let data := ts.map fun x => s.targetBytes c.task c.party.seen x.2 8 x.1
            let tgt := fun l => BitVec.ofNat 64 (natOfBytes (byLane c.party data l))
            match (lanesOf c.party.exm).find? fun l => (tgt l).toNat % 4 != 0 with
            | some l => .next (s.takeTrap c.tid c.pi (Trap.jtx (l + 32)))
            | none =>
              match groupTargets c.party.exm tgt with
              | [(x, _)] => .next (s.putParty c.tid c.pi (c.party.jump x))
              | paths => .next (s.splitAt c paths (c.party.target (sxNat 20 t.toNat)))

/-- The checks of a register's target (R51, R91): its low bits, then its form. -/
def checkTarget (w x : DWord) : Except Trap Unit := do
  need (x.toNat % 4 == 0) (Trap.cls 1 w)
  need (canonical x.toNat) (BadPage.noncanon.trap 0 .fetch)

def execJmpi (a : BitVec 7) (s : State) : Out :=
  s.runTransfer fun env p => do
    useRegs env p [.up a.toNat]
    checkTarget p.top.pc (p.upair a.toNat)
    pure (p.jump (p.upair a.toNat), some (p.upair a.toNat))

def execCall (n : BitVec 1) (p : BitVec 3) (o : BitVec 20) (s : State) : Out :=
  s.runTransfer fun _ q =>
    if q.upredCond (n == 1#1) p.toNat then do
      checkTarget q.top.pc (q.target o.toInt)
      pure ({ q with lnk := q.top.pc + 4 }.jump (q.target o.toInt), some (q.target o.toInt))
    else .ok (q.jump q.top.fallThrough, none)

def execRet (s : State) : Out :=
  s.runTransfer fun _ p => do
    checkTarget p.top.pc p.lnk
    pure (p.jump p.lnk, some p.lnk)

/-- EXIT (R92): the active lanes leave every entry of the stack. -/
def execExit (s : State) : Out := s.runJump fun _ p => .ok (p.dropLanes p.exm)

/-- YIELD (R93): the clause ends, and the party is held off. -/
def execYield (s : State) : Out :=
  s.runJump fun _ p => .ok { (p.jump p.top.fallThrough) with hold := .yield }

/-- The hold-off has passed (R93). -/
def execYieldHoldoffExpire (task party : Nat) (s : State) : Out :=
  .next (s.modParty task party fun p => if p.hold = .yield then { p with hold := .free } else p)

/-- WBASE (R94). -/
def execWbase (m r : BitVec 1) (i : BitVec 11) (s : State) : Out :=
  s.runParty 1 fun env p =>
    let old := if r = 1#1 then p.swb else p.vwb
    p.setWindow env (r == 1#1) ((if m = 1#1 then old else 0) + w32 (16 * i.toInt))

/-! ## Traps by words (R95 to R97) -/

/-- The party past a word, where it takes a trap whose `xpc` is the next word's (R95, R96). -/
def State.trapAfter (s : State) (c : Exec) (cause info : Nat) : State :=
  (s.retire c 1).takeTrap c.tid c.pi { cause := cause, info := info, addr := none }

def execTrapi (i : BitVec 11) (s : State) : Out :=
  match s.current with
  | none => .next s
  | some c => .next (s.trapAfter c 0x21 i.toNat)

def execTfence (s : State) : Out :=
  match s.current with
  | none => .next s
  | some c =>
    if c.party.pend.any (·.floating) then .next s
    else
      let e := c.party.aflags &&& c.party.tmask.setWidth 5
      if e ≠ 0#5 ∧ !c.party.masked then .next (s.trapAfter c 0x20 e.toNat) else .next (s.retire c 1)

/-- TRET (R97): a return to any word but the interrupted clause's is a transfer to a header; an xpc that is no multiple of 4 is CLS there at the
clause's start, as row 2 of R51 does not name TRET (DESIGN CHOICE, log 90). -/
def execTret (s : State) : Out :=
  s.runTransfer fun _ p => do
    let q ← p.trapReturn
    pure (q, if q.top.clause.isSome then none else some q.top.pc)

/-! ## Pre-emption points and marks (R98, R99) -/

/-- A set bit of a liveness mask covers something: piece `i` of `unit` begins below the limit. -/
def liveOk (m : Word) (unit lim : Nat) : Bool := (List.range 32).all fun i => !m.getLsbD i || unit * i < lim

/-- A request to switch the party's core out is pending in LIVE or BOTH mode (R98, R349). -/
def State.holdsAtPpt (s : State) (c : Exec) : Bool :=
  !(s.core c.task.die c.task.core).requests.isEmpty && 2 ≤ (s.core c.task.die c.task.core).mode && !c.party.masked

def execPpt (tv tu tc : BitVec 32) (s : State) : Out :=
  match s.current with
  | none => .next s
  | some c =>
    if !(liveOk tv 16 c.task.desc.vregs && liveOk tu 16 c.task.desc.uregs && liveOk tc 8192 c.task.desc.scratch) then
      .next (s.takeTrap c.tid c.pi (Trap.ill 3))
    else if s.holdsAtPpt c then .next (s.modParty c.tid c.pi fun p => { p with hold := .ppt tv tu tc })
    else .next ((s.modParty c.tid c.pi fun p => { p with hold := .free }).retire c 4)

/-- MARK posts a TYPE 0x01 record to its own die (R99, R344). -/
def execMark (i : BitVec 11) (s : State) : Out :=
  match s.current with
  | none => .next s
  | some c =>
    .next ((s.postEvent c.task.die 0x01 0
      (payloadOf [(16, 2, i.toNat), (18, 2, c.task.core), (20, 2, c.task.ctx)])).retire c 1)

end Sys2Proof.Machine
end

