-- ==== Sys2Proof/Machine/Queues.lean ====
section
/-! DEFINITION. A host queue's errors (R18, R19, R394) and its Guestbook's completions (R35, R36). -/

namespace Sys2Proof.Machine

/-- The machine with a queue changed. -/
def State.modQueue (s : State) (q : Nat) (f : Queue → Queue) : State := s.putQueue q (f (s.queue q))

/-- A queue-error record (R394): the error that arose, and the sequence number of the head packet. -/
def State.postQueueError (s : State) (q err seq : Nat) : State :=
  s.postEvent s.frontDie 0x0D 0 (payloadOf [(16, 2, q), (18, 1, err), (20, 4, seq)])

/-- A queue error (R18, R19, R394): it takes a parsing queue into ERROR, and leaves ERR as it is in one already there. What
has been fetched is fetched afresh after RESUME; an unmet fence stays in force. -/
def State.raiseError (s : State) (q err : Nat) : State :=
  let x := s.queue q
  match x.state with
  | .running | .fence | .refetch =>
    (s.putQueue q { x with
      state := .error, err := err, fetched := none, fails := 0, resumed := false
      waiting := if x.fence.isSome then x.waiting else [] }).postQueueError q err x.head
  | .error => s.postQueueError q err x.head
  | .stopped | .draining => s

/-- DRAINING ends when nothing is in flight (R18). -/
def Queue.settle (x : Queue) : Queue := if x.state = .draining ∧ x.inflight = 0 then { x with state := .stopped } else x

/-- The address of a Guestbook record (R35). -/
def Queue.record (x : Queue) (seq : Nat) : Nat := x.gb + 32 * (seq % 2 ^ x.logsz)

/-- The completion of an accepted packet (R36): TDONE, then COMPLETION. What a die that does not answer would take waits (R331). -/
def State.completeRec (s : State) (q seq code : Nat) : State :=
  let x := s.queue q
  let a := x.record seq
  if s.mute a then { s with lateRecs := s.lateRecs ++ [(q, seq, code)] }
  else
    let s1 := s.atHome s.frontDie x.ctx a a 0 fun s =>
      (s.writeHome (a + 24) (leBytes 8 s.time.toNat)).writeHome (a + 15) (leBytes 1 code)
    s1.putQueue q ({ x with inflight := x.inflight - 1 }).settle

end Sys2Proof.Machine
end

