-- ==== Sys2Proof/Machine/Tasks.lean ====
section
/-! DEFINITION. Tasks: their frames (R220, R221), the join of a frame's children (R239, R250 to R255), step boundaries and
digests (R266), and the end of tasks and root ranges (R92, R212, R221). -/

namespace Sys2Proof.Machine

/-! ## Frames (R220, R221) -/

/-- The FLAGS of a frame, laid out as DFLAGS (R217). -/
def frameFlags (det nd ord : Bool) (stage : Nat) : Nat := 2 * b2n det + 4 * b2n nd + 8 * b2n ord + 16 * stage

/-- The 64 bytes of a frame. -/
def frameBytes (parent : DWord) (pending flags status : Nat) (cidx wrt cont cctr : DWord) (cadd nfail : Nat) (fcidx : DWord) :
    List Byte :=
  leBytes 8 parent.toNat ++ leBytes 4 pending ++ leBytes 1 flags ++ leBytes 1 status ++ leBytes 2 0 ++ leBytes 8 cidx.toNat
    ++ leBytes 8 wrt.toNat ++ leBytes 8 cont.toNat ++ leBytes 8 cctr.toNat ++ leBytes 4 cadd ++ leBytes 4 nfail
    ++ leBytes 8 fcidx.toNat

/-- FCIDX while no child has failed (R220). -/
def noFailed : DWord := 0xFFFFFFFFFFFFFFFF#64

/-- The address of a parent's frame. -/
def State.parentFrame (s : State) (p : Parent) : DWord :=
  match p with
  | .task i => ((s.task? i).map (·.frame)).getD 0
  | .root i => ((AMap.get? s.roots i).map fun (r : Root) => r.frame).getD 0

/-- The image of a task's frame with a STATUS (R220). -/
def State.frameImage (s : State) (t : Task) (status : Nat) : List Byte :=
  frameBytes (s.parentFrame t.parent) t.pendingKids (frameFlags t.det t.nd t.ord t.stage) status t.cidx t.wrt
    (if status = 2 ∨ status = 5 then t.cont else 0) 0 0 t.nfail t.fcidx

/-- An address translated by `look` for an agent that no R, W or X bit stops: a frame's writer (R221, R272). -/
def State.checkAgent (s : State) (ctx a : Nat) (look : Nat → Look) : Look :=
  match s.placeShared ctx a with
  | .error b => .bad b
  | .ok (.scratch _ _) => .bad .perm
  | .ok (.va va) =>
    match look va with
    | .hit l fpa => if s.inCarveOut fpa then .bad .hidden else if inControlPage fpa then .bad .perm else .hit l fpa
    | r => r

/-- The translation of such an agent of a die, and where an address lies for it. -/
def State.lookAgent (s : State) (die : Nat) (w : Waiter) (ctx a : Nat) : Look := s.checkAgent ctx a (s.lookFor die w ctx)
def State.peekAgent (s : State) (ctx a : Nat) : Look := s.checkAgent ctx a (s.peek ctx)

/-- Where in a task's frame a write goes, and its bytes (R220, R221). -/
def State.frameWriteBytes (s : State) (t : Task) (w : FrameWrite) : Nat × List Byte :=
  match w with
  | .image status => (0, s.frameImage t status)
  | .counts => (52, leBytes 4 t.nfail ++ leBytes 8 t.fcidx.toNat)

/-- A write to a task's frame: a miss, or a home that does not answer, makes the task wait with it; a cancelled miss or another fault
fails the task (R221, R331). -/
def State.writeFrame (s : State) (tid : Nat) (w : FrameWrite) : State :=
  match s.task? tid with
  | none => s
  | some t =>
    let waits := fun (s : State) => s.modTask tid fun t => { t with frameWait := some w }
    let s0 := s.putTask tid { t with frameWait := none }
    match s.lookAgent t.die (.image tid) t.ctx t.frame.toNat with
    | .hit _ fpa =>
      if s.mute fpa then waits s
      else
        let x := s.frameWriteBytes t w
        (s0.atHome t.die t.ctx t.frame.toNat fpa t.frame fun s => s.writeHome (fpa + x.1) x.2).invalidate t.die t.core (lineRange fpa)
    | .miss _ _ => waits (s0.agentWalk t.die t.ctx t.frame.toNat 1 (.image tid))
    | .bad b => s0.failTask tid (b.trap 0 .write).cause (b.trap 0 .write).info 0 false

/-- Writes a task's frame image (R221). -/
def State.writeImage (s : State) (tid status : Nat) : State := s.writeFrame tid (.image status)

/-- A write to the task's frame has not been made yet (R221). -/
def Task.imageWait (t : Task) : Bool := t.frameWait.isSome

/-- The die whose memory holds a frame: its merge unit performs the frame's join (R255). -/
def State.frameDie (s : State) (ctx : Nat) (frame : DWord) (d : Nat) : Nat :=
  match s.peekAgent ctx frame.toNat with
  | .hit _ fpa => if fpaClass fpa = 0 then fpaDie fpa else d
  | _ => d

/-! ## The join (R239) -/

/-- Puts a child among children of rising logical index. -/
def insertKid (k : KidResult) : List KidResult → List KidResult
  | [] => [k]
  | x :: r => if k.cidx.toNat < x.cidx.toNat then k :: x :: r else x :: insertKid k r

/-- Children by rising logical index. -/
def sortKids (l : List KidResult) : List KidResult := l.foldr insertKid []

/-- The merged store sets: the highest logical index wins each byte (R239). -/
def mergeStores (l : List KidResult) : AMap Byte :=
  (sortKids l).foldl (fun m k => k.storeSet.foldl (fun m e => AMap.insert m e.1 e.2) m) []

/-- The order of a child's steps: party, program order, lowest lane (R239). -/
def AtomStep.before (x y : AtomStep) : Bool :=
  x.party < y.party || (x.party == y.party && (x.seq < y.seq || (x.seq == y.seq && x.lane < y.lane)))

/-- Puts a step in its place. -/
def insertStep (x : AtomStep) : List AtomStep → List AtomStep
  | [] => [x]
  | y :: r => if x.before y then x :: y :: r else y :: insertStep x r

/-- The children's steps in the order of R239. -/
def mergeSteps (l : List KidResult) : List AtomStep :=
  (sortKids l).flatMap fun k => k.steps.foldl (fun a x => insertStep x a) []

/-- Which store wrote each of the merged bytes. -/
def mergeTags (l : List KidResult) : AMap Nat :=
  (sortKids l).foldl (fun m k => k.tags.foldl (fun m e => AMap.insert m e.1 e.2) m) []

/-- What comes before the completion of children (R245). -/
def kidsSeen (l : List KidResult) : Seen := l.foldl (fun a k => a.join k.seen) Seen.none

/-- The bytes of a line by the stores that wrote them (R246). -/
def byTag (tags : AMap Nat) (m : AMap Byte) : List (AMap Byte) :=
  ((m.map fun e => AMap.get? tags e.1).eraseDups).map fun t => m.filter fun e => AMap.get? tags e.1 == t

/-- The join record of finished children, with nothing done yet (R239, R255). -/
def joinOf (l : List KidResult) : Join :=
  { lines := (mapLines (mergeStores l)).map fun x => byTag (mergeTags l) x.2, steps := mergeSteps l
    pages := (sortKids l).foldl (fun m k => k.pages.foldl (fun m e => AMap.insert m e.1 e.2) m) []
    summary := [], started := false, blocked := false, seen := kidsSeen l }

/-- Nothing is left to write or to apply. -/
def Join.empty (j : Join) : Bool := j.lines.isEmpty && j.steps.isEmpty

/-- The virtual address through which a byte of a frame was stored to. -/
def Join.va (j : Join) (a : Nat) : Nat := AMap.getD j.pages (a / 65536) (a / 65536) * 65536 + a % 65536

/-- The next write or step of a join: the virtual address it goes to, what it does at the home, and the record once it is
done (R255). -/
def Join.next (j : Join) : Option (Nat × (Nat → State → State) × Join) :=
  match j.lines, j.steps with
  | m :: r, _ =>
    some (j.va (((m.flatten).head?.map (·.1)).getD 0),
      fun fpa s => m.foldl (fun s x => s.writeSome s.allSeen (x.map fun e => (fpa / 64 * 64 + e.1 % 64, e.2))) s, { j with lines := r })
  | [], x :: r =>
    some (x.va.toNat,
      fun fpa s => s.writeHome fpa (leBytes (atomSize x.op) (x.apply (s.mem.readNat fpa (atomSize x.op)))), { j with steps := r })
  | [], [] => none

/-- A join's write waits: for a failed die to be noticed, for a twin's publication, or for this package's own earlier writes to
the line (R331, R258, R239). -/
def State.joinHeld (s : State) (fpa : Nat) : Bool :=
  s.mute fpa || s.twinPending fpa ||
    (isRemote fpa && s.flits.any fun f => lineOf f.2.fpa == lineOf fpa && !f.2.performed && !f.2.failed)

/-- What one turn of a merge unit comes to. -/
inductive JoinSays where
  | done
  | went (s : State) (j : Join)
  | wait
  | miss (va : Nat)
  | bad (b : BadPage)

/-- One line or one step of a join, at its home (R239, R251, R255). -/
def State.joinPiece (s : State) (die : Nat) (w : Waiter) (ctx : Nat) (frame : DWord) (j : Join) : JoinSays :=
  match j.next with
  | none => .done
  | some (va, act, rest) =>
    match s.lookAgent die w ctx va with
    | .miss _ _ => .miss va
    | .bad b => .bad b
    | .hit _ fpa =>
      if s.joinHeld fpa then .wait
      else
        let s1 := s.atHome die ctx va fpa frame (act fpa)
        .went ((s1.orderedBy s j.seen).noteLine ctx va fpa)
          { rest with summary := addRange (lineOf fpa) (lineOf fpa + 1) j.summary, seen := j.seen.add s.writes s1.writes }

/-- A summary of at most eight ranges: the two with the smallest gap merge until eight remain (R264); `fuel` bounds the
merges. -/
def smallestGap : List (Nat × Nat) → Nat
  | (_, b) :: (a, c) :: r => if r.isEmpty then a - b else min (a - b) (smallestGap ((a, c) :: r))
  | _ => 0
def mergeGap (g : Nat) : List (Nat × Nat) → List (Nat × Nat)
  | (a, b) :: (c, d) :: r => if c - b = g then (a, d) :: r else (a, b) :: mergeGap g ((c, d) :: r)
  | l => l
def summarise : Nat → List (Nat × Nat) → List (Nat × Nat)
  | 0, l => l
  | n + 1, l => if l.length ≤ 8 then l else summarise n (mergeGap (smallestGap l) l)

/-- NFAIL and FCIDX of joined children (R220). -/
def failCount (l : List KidResult) : Nat × DWord :=
  match (sortKids l).filter (·.failed) with
  | [] => (0, noFailed)
  | x :: r => (r.length + 1, x.cidx)

/-- The newer of two writings of each byte. -/
def joinKnown (a b : AMap (Nat × Byte)) : AMap (Nat × Byte) :=
  b.foldl (fun m e => match AMap.get? m e.1 with | some x => if x.1 < e.2.1 then AMap.insert m e.1 e.2 else m | none => AMap.insert m e.1 e.2) a

/-- Each party among `l` knows what any of them knows: an edge joins them (R103, R110, R245). -/
def Task.share (t : Task) (l : List Nat) : Task :=
  let all := l.foldl (fun m i => joinKnown m ((t.parties[i]?.map (·.known)).getD [])) []
  let seen := l.foldl (fun a i => a.join ((t.parties[i]?.map (·.seen)).getD Seen.none)) Seen.none
  { t with parties := l.foldl (fun ps i => modifyNth ps i fun p => { p with known := all, seen := seen }) t.parties }

/-- A DET task's join: the merged bytes and steps become its own (R250), in the order of R239, and every party's. -/
def Task.absorb (t : Task) (now : Nat) : Task :=
  let xs := mergeSteps t.kids
  let m := mergeStores t.kids
  { t with
    storeSet := m.foldl (fun m e => AMap.insert m e.1 e.2) t.storeSet
    storeTags := (mergeTags t.kids).foldl (fun m e => AMap.insert m e.1 e.2) t.storeTags
    storePages := (joinOf t.kids).pages.foldl (fun m e => AMap.insert m e.1 e.2) t.storePages
    parties := t.parties.map fun p => { p with known := joinKnown p.known (m.map fun e => (e.1, (now, e.2))) }
    steps := t.steps ++ (List.range xs.length).map fun i =>
      { (xs.getD i { va := 0, fpa := 0, op := 0, args := [], party := 0, seq := 0, lane := 0 }) with party := 0, seq := t.atomSeq, lane := i }
    atomSeq := t.atomSeq + 1 }

/-- An edge to every party of a task (R245). -/
def Task.edge (t : Task) (x : Seen) : Task := { t with parties := t.parties.map fun p => { p with seen := p.seen.join x } }

/-- The task with its children joined: their summaries, the merge summary and the counts of failures (R92, R220, R264), and the
completion's edge (R245). -/
def Task.joined (t : Task) (summary : List (Nat × Nat)) (seen : Seen) : Task :=
  let f := failCount t.kids
  { t.edge (seen.join (kidsSeen t.kids)) with
    kids := [], joinWait := false, joining := some { (joinOf []) with summary := summary }, nfail := f.1, fcidx := f.2
    wset := unionRanges (t.kids.foldl (fun a k => unionRanges a k.summary) t.wset) summary }

/-- The end of a task's join: NFAIL and FCIDX stand in its frame (R220), and the copies that the summaries name are gone (R264). -/
def State.endJoin (s : State) (tid : Nat) (t : Task) (summary : List (Nat × Nat)) (seen : Seen) : State :=
  let t1 := t.joined (summarise summary.length summary) seen
  ((s.putTask tid t1).writeFrame tid .counts).invalidate t.die t.core t1.wset

/-- The join of a task's finished children (R239). A DET task takes them into its own sets at once (R250); a throughput task's
merge unit begins on the homes, a line or a step at a time (R251, R255). -/
def State.join (s : State) (tid : Nat) : State :=
  match s.task? tid with
  | none => s
  | some t =>
    if t.det then s.endJoin tid (t.absorb s.ticks) [] Seen.none
    else if (joinOf t.kids).empty then s.endJoin tid t [] Seen.none
    else s.putTask tid { t with joinWait := true, joining := some (joinOf t.kids) }

/-- A join that cannot go on: the lines and steps already done stay, and the task fails (R221, R255, R284). -/
def State.failJoin (s : State) (tid cause info : Nat) : State :=
  (s.modTask tid fun t => { t with kids := [], joinWait := false, joining := none }).failTask tid cause info 0 false

/-! ## Step boundaries and digests (R266) -/

/-- One line's share of a digest. -/
def foldLine (a c : Nat) : Nat :=
  let h1 := (a * 0x9E3779B97F4A7C15 + c * 0xC2B2AE3D27D4EB4F) % 2 ^ 64
  let h2 := h1 ^^^ (h1 / 2 ^ 29)
  let h3 := h2 * 0xBF58476D1CE4E5B9 % 2 ^ 64
  h3 ^^^ (h3 / 2 ^ 32)

/-- The check value a line folds with (R266, R285), of a shadow page that of the visible frame (R278). -/
def State.lineCheck (s : State) (line : Nat) : Nat :=
  let ln := lineOf (s.visible (line * 64))
  if s.isPoisoned ln then 0xFFFFFFFF else crc32c (s.mem.readBytes (ln * 64) 64)

/-- A step boundary of a context: the lines written since the last one fold, and the count and the value become DIGEST's (R266). A line
whose writes have not come home is folded when they have (log 45). -/
def State.boundary (s : State) (ctx : Nat) : State :=
  let c := s.ctx ctx
  let d := c.lines.foldl (fun d x => (d + foldLine (x.1 % 2 ^ 51) (s.lineCheck x.2)) % 2 ^ 64) 0
  let k := c.boundaries + 1
  s.putCtx ctx { c with
    boundaries := k, digest := BitVec.ofNat 64 d, lines := []
    localDigests := if c.enable then AMap.insert c.localDigests k (BitVec.ofNat 64 d) else c.localDigests }

/-- Compares the pair of digests for a boundary once both are there (R267). -/
def State.compareDigests (s : State) (ctx k : Nat) : State :=
  let c := s.ctx ctx
  match AMap.get? c.localDigests k, AMap.get? c.partnerDigests k with
  | some x, some y =>
    let s1 := s.putCtx ctx { c with
      localDigests := AMap.erase c.localDigests k, partnerDigests := AMap.erase c.partnerDigests k,
      mismatch := c.mismatch || x != y }
    if x = y then s1
    else s1.postEvent 0 0x05 0 (payloadOf [(16, 8, k), (24, 8, x.toNat), (32, 8, y.toNat), (40, 2, ctx)])
  | _, _ => s

/-- The completion of an AWAIT: a boundary, when the task is a root task (R266). -/
def State.awaitBoundary (s : State) (t : Task) : State :=
  match t.parent with
  | .root _ => (s.boundary t.ctx).compareDigests t.ctx ((s.ctx t.ctx).boundaries + 1)
  | .task _ => s

/-! ## Parked troupes (R104, R105, R224) -/

/-- The troupe waits at AWAIT, or at AWAITP. -/
def Task.awaits (t : Task) (id : Nat) : Bool := t.barriers.any fun b => b.id == id

/-- A root task's AWAIT of a context that has met a mismatch stays held (R267). -/
def State.holdsRoot (s : State) (t : Task) : Bool :=
  match t.parent with
  | .root _ => (s.ctx t.ctx).mismatch
  | .task _ => false

/-- A parked troupe's resumption enters its die's queue (R224): it is an edge among the troupe's parties (R245). -/
def State.queueResume (s : State) (tid : Nat) (t : Task) : State :=
  let d := s.die t.die
  (s.putTask tid { (t.share (List.range t.parties.length)) with phase := .resuming, held := false, joining := none }).putDie t.die
    { d with resumes := d.resumes ++ [.troupe tid] }

/-! ## Parties at a barrier go on (R104, R110) -/

/-- A barrier in use. -/
def Task.barrier? (t : Task) (id : Nat) : Option Barrier := t.barriers.find? fun b => b.id == id

/-- The task without a barrier. -/
def Task.dropBarrier (t : Task) (id : Nat) : Task := { t with barriers := t.barriers.filter fun b => b.id != id }

/-- The parties of a barrier go on. -/
def State.releaseBarrier (s : State) (tid id : Nat) (l : List Nat) : State :=
  l.foldl (fun s i => s.modParty tid i fun p => { (p.advance 1) with hold := .free }) (s.modTask tid fun t => t.dropBarrier id)

/-- The parties that wait at AWAIT or AWAITP go on (R104): an AWAIT starts the spawn numbers of every party anew. -/
def State.releaseAwait (s : State) (tid id : Nat) : State :=
  match s.task? tid with
  | none => s
  | some t =>
    let l := ((t.barrier? id).map (·.arrived)).getD []
    let s1 := s.releaseBarrier tid id l
    if id = 16 then
      s1.modTask tid fun t => { t with joining := none, parties := t.parties.map fun p => { p with spawnSeq := 0 } }
    else s1

/-- The write-back of an edge's source: the core's dirty lines go home and the troupe's Satchel lines leave (R245, R264). -/
def State.source (s : State) (tid : Nat) (t : Task) : State :=
  (s.writeBack t.die t.core fun _ => true).drainTask t.die t.core tid

/-- A value for CONT (R220): a nonzero one that no access can use as an address, since it is not canonical (log 40). -/
def contValue (fresh : Nat) : DWord := BitVec.ofNat 64 (2 ^ 63 + (Config.freeDWord fresh).toNat % 2 ^ 56)

/-- The troupe parks: its writes go home, its image is written, and the core is free of it (R104, R221, R224). While the carve-out
has no room for its continuation image, it waits where it is (R272). -/
def State.park (s : State) (tid : Nat) : State :=
  match s.task? tid with
  | none => s
  | some t =>
    if !s.hiddenRoom t.ctx t.desc.imageBytes then s else
    (((s.source tid t).modTask tid fun t => { t with phase := .parked, cont := contValue s.fresh })).writeImage tid 2

/-- A complete AWAIT whose children are joined (R104): the boundary, then the troupe goes on where it runs, or its resumption is
queued where it is parked; a root task of a context that has met a mismatch is held, and parks as soon as its image has room (R267,
R272). -/
def State.afterJoin (s : State) (tid : Nat) : State :=
  match s.task? tid with
  | none => s
  | some t =>
    if t.failed || !t.awaits 16 || t.imageWait || !(t.phase == .running || t.phase == .parked) then s
    else if t.held then (if t.phase = .running then s.park tid else s)
    else
      let s1 := s.awaitBoundary t
      if s1.holdsRoot t then
        ((if t.phase = .running then s1.park tid else s1).modTask tid fun t => { t with held := true }).putCtx t.ctx
          { (s1.ctx t.ctx) with held := true }
      else if t.phase = .running then s1.releaseAwait tid 16
      else s1.queueResume tid t

/-- The children of a complete AWAIT have all completed (R104): they are joined, once, and the AWAIT goes on. -/
def State.joinAndGo (s : State) (tid : Nat) : State :=
  match s.task? tid with
  | none => s
  | some t =>
    if t.joinWait then s
    else if t.joining.isSome then s.afterJoin tid
    else
      let s1 := s.join tid
      match s1.task? tid with
      | none => s1
      | some t1 => if t1.joinWait || t1.failed then s1 else s1.afterJoin tid

/-- A troupe parked at AWAIT whose children have all completed (R104). -/
def State.settleAwait (s : State) (tid : Nat) : State :=
  match s.task? tid with
  | none => s
  | some t =>
    if t.failed || t.phase != .parked || t.held || t.imageWait || !t.awaits 16 || t.pendingKids != 0 then s else s.joinAndGo tid

/-- What the finished children of a parent have left. -/
def State.kidsOf (s : State) (p : Parent) : List KidResult :=
  match p with
  | .task i => ((s.task? i).map (·.kids)).getD []
  | .root i => ((AMap.get? s.roots i).map fun (r : Root) => r.kids).getD []

/-- The finished predecessor of a child of an ORD range (R105). -/
def State.predecessor (s : State) (t : Task) : Option KidResult := (s.kidsOf t.parent).find? fun k => k.cidx == t.cidx - 1

/-- The first child of an ORD range waits for no one. -/
def Task.firstChild (t : Task) : Bool := t.cidx.toNat % 2 ^ 32 == 0

/-- An AWAITP joins no child: NFAIL and FCIDX say so (R220, log 92). -/
def Task.noKids (t : Task) : Task := { t with nfail := 0, fcidx := noFailed }

/-- What the edge from its predecessor makes visible to a child (R105): its store set with what it had received itself, and the
lines it has written or has been told of, which enter the child's own summary and so reach the next one (R264). -/
def Task.receive (t : Task) (k : KidResult) : Task :=
  { t.noKids with
    parties := (t.edge k.seen).parties
    received := (if k.failed then [] else k.storeSet).foldl (fun m e => AMap.insert m e.1 e.2) k.received
    wset := unionRanges t.wset k.summary }

/-- A troupe parked at AWAITP whose predecessor has completed resumes (R105). -/
def State.settleAwaitp (s : State) (tid : Nat) : State :=
  match s.task? tid with
  | none => s
  | some t =>
    if t.failed || t.phase != .parked || t.imageWait || !t.awaits 17 then s
    else
      match s.predecessor t with
      | none => s
      | some k => s.queueResume tid (t.receive k)

/-! ## The end of a root range (R221, R395) -/

/-- The machine with a root range stored. -/
def State.putRoot (s : State) (id : Nat) (r : Root) : State := { s with roots := s.roots.insert id r }

/-- The image of a root frame (R221). -/
def Root.image (r : Root) (status : Nat) : List Byte :=
  frameBytes 0 r.pending r.flags status 0 r.wrt 0 r.ctr r.add r.nfail r.fcidx

/-- A counter's 64-bit add at its home (R25, R31). -/
def State.bump (s : State) (fpa add : Nat) : State :=
  s.writeHome fpa (leBytes 8 ((s.mem.readNat fpa 8 + add) % 2 ^ 64))

/-- A root range ends, and its launch with it: COMPLETION in the same step as its last write (R36, R212). -/
def State.endRoot (s : State) (id : Nat) (r : Root) (code : Nat) : State :=
  let s1 := ({ s with roots := AMap.erase s.roots id }).completeRec r.queue r.seq code
  if code = 2 then s1.raiseError r.queue 4 else s1

/-- What the front end's write or counter add finds at a translated address (R34, R221, R395): what no fault queue can mend is a
bad page, an access that can have no effect at its home among it (R364). -/
def State.checkFront (s : State) (a : Nat) (acc : Access) (x : Look) : Look :=
  match x with
  | .hit l fpa =>
    match s.permit l fpa acc with
    | .error b => .bad b
    | .ok _ => if l.contrib || s.farLost s.frontDie fpa a then .bad .perm else .hit l fpa
  | r => r

/-- The translation of an address for a root range's last writes. -/
def State.lookRoot (s : State) (id : Nat) (ctx a : Nat) (acc : Access) : Look :=
  s.checkFront a acc (s.lookAgent s.frontDie (.root id false) ctx a)

/-- A root range whose join is done (R221): its failures are counted with those it had. -/
def Root.joinedBy (r : Root) : Root :=
  let f := failCount r.kids
  { r with
    kids := [], joining := none, joined := true, nfail := r.nfail + f.1
    fcidx := if f.1 = 0 ∨ r.fcidx.toNat < f.2.toNat then r.fcidx else f.2 }

/-- The last of a root range (R221, R395): CADD is added to its counter unless a root task failed, and the range ends. -/
def State.finishCounter (s : State) (id : Nat) (r : Root) : State :=
  if r.nfail ≠ 0 then s.endRoot id r 2
  else if r.ctr = 0#64 then s.endRoot id r 1
  else
    match s.lookRoot id r.ctx r.ctr.toNat .atomic with
    | .miss _ _ => s.agentWalk s.frontDie r.ctx r.ctr.toNat 2 (.root id false)
    | .bad _ => s.endRoot id r 2
    | .hit _ cf => if s.mute cf then s else (s.atHome s.frontDie r.ctx r.ctr.toNat cf r.frame fun s => s.bump cf r.add).endRoot id r 1

/-- The root frame's completion (R221), then the counter; each access is met once, and waits for its own translation (R34). -/
def State.finishFrame (s : State) (id : Nat) (r : Root) : State :=
  if r.written then s.finishCounter id r
  else
    match s.lookRoot id r.ctx r.frame.toNat .write with
    | .miss _ _ => s.agentWalk s.frontDie r.ctx r.frame.toNat 1 (.root id false)
    | .bad _ => s.endRoot id r 2
    | .hit _ ff =>
      if s.mute ff then s else
      let r1 := { r with written := true }
      ((s.atHome s.frontDie r.ctx r.frame.toNat ff r.frame fun s => s.writeHome ff (r.image (if r.nfail = 0 then 3 else 4))).putRoot id
        r1).finishCounter id r1

/-- The completion of a root range none of whose tasks is pending (R221): the join of its root tasks, the frame, the counter. -/
def State.finishRoot (s : State) (id : Nat) : State :=
  match AMap.get? s.roots id with
  | none => s
  | some r =>
    if r.pending ≠ 0 || r.joining.isSome then s
    else if r.joined then s.finishFrame id r
    else if (joinOf r.kids).empty then (s.putRoot id r.joinedBy).finishFrame id r.joinedBy
    else s.putRoot id { r with joining := some (joinOf r.kids) }

/-! ## The merge unit's turns (R255) -/

/-- A join goes on: its context is not switched off, the fault queue does not hold it, and its record has a place in the carve-out or finds
one (R255, R272, R346). -/
def State.joinGoes (s : State) (ctx : Nat) (j : Join) : Bool :=
  !j.blocked && !(s.ctx ctx).suspend && (j.started || s.hiddenRoom ctx Config.joinRecordBytes)

/-- A task's join goes on by one line or step; a merge unit on a failed die does nothing (R331). -/
def State.mergeTask (s : State) (tid : Nat) (t : Task) (j0 : Join) : State :=
  let die := s.frameDie t.ctx t.frame t.die
  let j := { j0 with started := true }
  if (s.die die).failed then s else
  match s.joinPiece die (.join tid) t.ctx t.frame j with
  | .done => (s.endJoin tid t j.summary j.seen).afterJoin tid
  | .went s1 j1 => s1.modTask tid fun t => { t with joining := some j1 }
  | .wait => s
  | .miss va => (s.agentWalk die t.ctx va 1 (.join tid)).modTask tid fun t => { t with joining := some { j with blocked := true } }
  | .bad b => s.failJoin tid (b.trap 0 .write).cause (b.trap 0 .write).info

/-- A root range's join goes on by one line or step; a range whose merge unit is lost with its die fails (R331, R356). -/
def State.mergeRoot (s : State) (id : Nat) (r : Root) (j0 : Join) : State :=
  let die := s.frameDie r.ctx r.frame s.frontDie
  let j := { j0 with started := true }
  if (s.die die).failed then (if (s.die die).detected then s.endRoot id r 2 else s) else
  match s.joinPiece die (.root id true) r.ctx r.frame j with
  | .done => (s.putRoot id r.joinedBy).finishFrame id r.joinedBy
  | .went s1 j1 => s1.putRoot id { r with joining := some j1 }
  | .wait => s
  | .miss va => (s.agentWalk die r.ctx va 1 (.root id true)).putRoot id { r with joining := some { j with blocked := true } }
  | .bad _ => s.endRoot id r 2

/-- A merge unit's turn on a frame (R255). -/
def State.merge (s : State) (p : Parent) : State :=
  match p with
  | .task i =>
    (match s.task? i with
    | some t =>
      (match t.joining with
      | some j => if t.joinWait && s.joinGoes t.ctx j then s.mergeTask i t j else s
      | none => s)
    | none => s)
  | .root i =>
    match AMap.get? s.roots i with
    | some r =>
      (match r.joining with
      | some j => if s.joinGoes r.ctx j then s.mergeRoot i r j else s
      | none => s)
    | none => s

/-- The joins that can go on. -/
def State.merges (s : State) : List Parent :=
  ((s.tasks.filter fun e => e.2.joinWait && (e.2.joining.map (s.joinGoes e.2.ctx)).getD false).map fun e => .task e.1) ++
    ((s.roots.filter fun e => (e.2.joining.map (s.joinGoes e.2.ctx)).getD false).map fun e => .root e.1)

/-! ## The end of a task (R92, R212) -/

/-- An engine operation of a task is in progress (R257). -/
def State.taskOps (s : State) (tid : Nat) : Bool := s.ops.any fun o => o.2.source == .party tid

/-- All that a task's completion waits for but its stores' deliveries (R92, R212). -/
def State.taskEnded (s : State) (tid : Nat) (t : Task) : Bool :=
  (t.failed || t.parties.all (·.ended)) && t.pendingKids == 0 && !s.taskOps tid && !t.imageWait && !t.joinWait

/-- What a completed task passes to its parent (R92, R255). -/
def Task.result (t : Task) : KidResult :=
  { cidx := t.cidx, failed := t.failed, det := t.det, storeSet := if t.failed then [] else t.storeSet, tags := t.storeTags, pages := t.storePages
    received := t.received, steps := if t.failed then [] else t.steps, summary := summarise t.wset.length t.wset
    seen := t.parties.foldl (fun a p => a.join p.seen) t.opSeen }

/-- The parent counts a completed child and receives what it leaves (R92). -/
def State.deliver (s : State) (p : Parent) (k : KidResult) : State :=
  match p with
  | .task i => s.modTask i fun t => { t with kids := t.kids ++ [k], pendingKids := t.pendingKids - 1 }
  | .root i =>
    { s with roots := s.roots.modify i fun r => { r with kids := r.kids ++ [k], pending := r.pending - 1 } }

/-- Every parked child of a parent whose predecessor is done (R105). -/
def State.releaseOrdered (s : State) (p : Parent) : State :=
  (s.tasks.filter fun e => e.2.parent == p).foldl (fun s e => s.settleAwaitp e.1) s

/-- What a parent does when a child has completed: its AWAIT, or its range's end (R92, R104, R221). -/
def State.settleParent (s : State) (p : Parent) : State :=
  match p with
  | .task i => (s.releaseOrdered p).settleAwait i
  | .root i => (s.releaseOrdered p).finishRoot i

/-- The task leaves the machine: its frame and its slot are free again (R92, R221, R269). -/
def State.removeTask (s : State) (tid : Nat) (die : Nat) : State :=
  let d := s.die die
  { s with tasks := s.tasks.erase tid }.putDie die { d with resumes := d.resumes.filter fun r => r != Resumption.troupe tid }

/-- What a core holds of its tasks' stores that has not left it: their homes do not answer yet (R331). -/
def State.coreHolds (s : State) (die core tid : Nat) : Bool :=
  !(s.core die core).stores.isEmpty || (s.core die core).satchel.any fun l => l.parties.any fun x => x.1 == tid

/-- TASK_COMPLETE (R92), on a die that works (R331): the Satchel drains, the stores' deliveries are awaited, the children are joined, the frame is
written, the parent is served, and the frame and the slot return. -/
def execTaskComplete (task : Nat) (s : State) : Out :=
  match s.task? task with
  | none => .next s
  | some t =>
    if !s.taskEnded task t || (s.die t.die).failed then .next s
    else
      let s1 := s.source task t
      if s1.taskFlits task ≠ [] || s1.coreHolds t.die t.core task then .next s1
      else if t.kids ≠ [] then .next (s1.join task)
      else
        let s2 := if t.imageLost then s1 else s1.writeImage task (if t.failed then 4 else 3)
        match s2.task? task with
        | none => .next s2
        | some t2 =>
          if t2.imageWait || t2.failed != t.failed then .next s2
          else .next (((s2.removeTask task t.die).deliver t.parent t2.result).settleParent t.parent)

end Sys2Proof.Machine
end

