-- ==== Sys2Proof/Machine/Spawn.lean ====
section
/-! DEFINITION. Spawning (R100 to R103), waiting for children and counters (R104 to R106), batches (R107 to R109),
barriers, signals and the Satchel (R110 to R113). -/

namespace Sys2Proof.Machine

/-! ## Descriptors (R217, R218) -/

/-- A write range of ten bytes: its first byte's address and its lines. -/
def rangeOf (bs : List Byte) (i : Nat) : DWord × Nat :=
  let x := fieldOf bs (24 + 10 * i) 10
  (w64 (sxNat 57 (bits x 0 51 * 64)), bits x 51 29)

/-- The descriptor's fields. -/
def descriptorOf (bs : List Byte) : Descriptor :=
  let flags := fieldOf bs 23 1
  { entry := BitVec.ofNat 64 (fieldOf bs 0 8), trap := BitVec.ofNat 64 (fieldOf bs 8 8), scratch := fieldOf bs 16 4,
    parties := fieldOf bs 20 1, vregs := 16 * (bits (fieldOf bs 21 1) 0 5 + 1), uregs := 16 * (bits (fieldOf bs 22 1) 0 5 + 1),
    stage := bits flags 4 4, ord := bit flags 3, nd := bit flags 2, det := bit flags 1,
    ranges := ((List.range 4).map (rangeOf bs)).filter fun r => r.2 != 0 }

/-- The troupe fits on an empty core (R222). -/
def Descriptor.fits (d : Descriptor) : Bool := (d.parties + 3) / 4 * d.vregs ≤ 1024 && d.scratch ≤ 262144

/-- A descriptor's reserved bits are zero (R217). -/
def descriptorReserved (bs : List Byte) : Bool :=
  bits (fieldOf bs 21 1) 5 3 == 0 && bits (fieldOf bs 22 1) 5 3 == 0 && bits (fieldOf bs 23 1) 0 1 == 0

/-- What R218 asks of a descriptor. -/
def descriptorOk (bs : List Byte) : Bool :=
  let d := descriptorOf bs
  descriptorReserved bs && 1 ≤ d.parties && d.parties ≤ 32 && d.scratch % 64 == 0 && d.entry.toNat % 4 == 0 && d.trap.toNat % 4 == 0
    && !(d.det && d.nd) && d.fits

/-! ## SPAWN and SPAWNR (R100 to R103) -/

/-- How a spawn's children are to run: DET, ND, ORD, STAGE, and the die they are placed on. -/
structure SpawnPlan where
  det : Bool
  nd : Bool
  ord : Bool
  stage : Nat
  die : Option Nat
  deriving DecidableEq, Repr

/-- The control word's own faults (R101). -/
def checkControl (det range : Bool) (ctl : Nat) : Except Trap Unit := do
  need (bits ctl 12 20 == 0) (Trap.ill 1)
  need (!(bit ctl 4 && bit ctl 7 && !range)) (Trap.ill 3)
  need (!(bit ctl 4 && bit ctl 6 && (bit ctl 5 || det))) (Trap.ill 3)

/-- The flags of the children (R101, R218): the control word's under OVR, else the descriptor's and the task's stage; the
child of a DET task is DET. -/
def spawnPlan (t : Task) (d : Descriptor) (range : Bool) (ctl : Nat) : SpawnPlan :=
  let det := (if bit ctl 4 then bit ctl 5 else d.det) || t.det
  { det := det, nd := (if bit ctl 4 then bit ctl 6 else d.nd) && !det
    ord := range && (if bit ctl 4 then bit ctl 7 else d.ord)
    stage := if bit ctl 4 then bits ctl 8 4 else t.stage
    die := if bit ctl 3 then some (bits ctl 0 3) else none }

/-- A task's own bytes as its engine operations see them from their issue on (R249, R257). -/
def Task.ownBytes (t : Task) : AMap Byte := t.storeSet.foldl (fun m e => AMap.insert m e.1 e.2) t.received

/-- The bytes that a DET party's spawn carries to its children (R103): what the task has received, and what is ordered before the
spawn of what its parties have written. -/
def Task.carried (t : Task) (p : Party) : AMap Byte := p.known.foldl (fun m e => AMap.insert m e.1 e.2.2) t.received

/-- A root range's item belongs before another's that was accepted later (R26). -/
def Item.earlier (x y : Item) : Bool :=
  match x.parent, y.parent with
  | .root a, .root b => x.prio == y.prio && decide (a < b)
  | _, _ => false

/-- Puts an item after those of at least its priority (R235), but before those of root ranges that were accepted after its own (R26). -/
def insertItem (x : Item) : List Item → List Item
  | [] => [x]
  | y :: r => if y.prio < x.prio || x.earlier y then x :: y :: r else y :: insertItem x r

/-- An item placed: the bottom of the spawning core's deque, or the named die's queue (R235). -/
def State.place (s : State) (die core : Nat) (dest : Option Nat) (x : Item) : State :=
  match dest with
  | none =>
    let c := s.core die core
    s.putCore die core { c with deque := c.deque ++ [x] }
  | some d => s.putDie d { (s.die d) with queue := insertItem x (s.die d).queue }

/-- CDG of a spawn that names a failed die (R101, R339). -/
def State.cdgSpawn (s : State) : Trap := Trap.cdg (s.deadMask.toNat + 2 ^ 14)

/-- The number of children and the children. -/
def Kids.count : Kids → Nat
  | .lanes l => l.length
  | .range _ _ n _ => n

/-- A party's spawns and a task's children are within their limits (R101, R102). -/
def spawnRoom (c : Exec) (n : Nat) : Except Trap Unit :=
  need (c.party.spawnSeq < 2 ^ 27 - 1 && c.task.pendingKids + n < 2 ^ 32) (Trap.ill 3)

/-- What R218 says of a descriptor's bytes. -/
def checkDescriptor (bs : List Byte) : Except Trap Unit := need (descriptorOk bs) (Trap.ill (if descriptorReserved bs then 3 else 1))

/-- The cause that a spawn's own checks raise is taken; an RBX of the word's other registers comes after the ILL of a descriptor that breaks
R218, which is read first where its pair is there (R84). -/
def State.spawnTrap (s : State) (c : Exec) (a : Nat) (tr : Trap) : State :=
  if tr.cause ≠ 4 || !regsIn (c.env s) c.party [.up a] then s.takeTrap c.tid c.pi tr
  else
    let r := s.uniReq (c.env s) c.party .read 64 (c.party.upair a).toNat
    match settle [(r.lane, r.look)] with
    | .error _ => s.takeTrap c.tid c.pi tr
    | .ok (.wait vas) => s.waitWalks c.tid c.pi c.task.die c.task.ctx 0 vas
    | .ok (.ok ts) =>
      if s.loadWaits c ts then s
      else
        match s.intOf c.task.die .read ts, checkDescriptor (ts.flatMap fun x => s.targetBytes c.task c.party.seen x.2 64 0) with
        | .ok _, .error ill => s.takeTrap c.tid c.pi ill
        | _, _ => s.takeTrap c.tid c.pi tr

/-- A spawn once its words' own checks have passed (R102): the descriptor that pair `a` names is read and checked, the children
are counted before any can complete, and the item is placed. -/
def State.runSpawn (s : State) (a : Nat) (use : Exec → Env → Except Trap (Kids × Nat)) (range : Bool) : Out :=
  match s.current with
  | none => .next s
  | some c =>
    match use c (c.env s) with
    | .error tr => .next (s.spawnTrap c a tr)
    | .ok (kids, ctl) =>
      let addr := c.party.upair a
      let r := s.uniReq (c.env s) c.party .read 64 addr.toNat
      match settle [(r.lane, r.look)] with
      | .error tr => .next (s.takeTrap c.tid c.pi tr)
      | .ok (.wait vas) => .next (s.waitWalks c.tid c.pi c.task.die c.task.ctx 0 vas)
      | .ok (.ok ts) =>
        if s.loadWaits c ts then .next s
        else
          match s.intOf c.task.die .read ts with
          | .error tr => .next (s.takeTrap c.tid c.pi tr)
          | .ok _ =>
            let bs := ts.flatMap fun x => s.targetBytes c.task c.party.seen x.2 64 0
            match checkDescriptor bs with
            | .error tr => .next (s.takeTrap c.tid c.pi tr)
            | .ok _ =>
              let d := descriptorOf bs
              let plan := spawnPlan c.task d range ctl
              if plan.die.any fun x => (s.die x).detected then .next (s.takeTrap c.tid c.pi s.cdgSpawn)
              else
                let item : Item :=
                  { kids := kids, desc := d, wrt := addr, fmt := c.party.top.fmt, parent := .task c.tid, party := c.pi,
                    seq := c.party.spawnSeq, ctx := c.task.ctx, prio := c.task.prio, det := plan.det, nd := plan.nd,
                    ord := plan.ord, stage := plan.stage, base := if c.task.det then c.task.carried c.party else []
                    seen := c.party.seen, told := false }
                let s1 := (s.source c.tid c.task).modTask c.tid fun t => { t with pendingKids := t.pendingKids + kids.count }
                let s2 := (s1.modParty c.tid c.pi fun p => { p with spawnSeq := p.spawnSeq + 1 }).retire c 1
                .next (if kids.count = 0 then s2 else s2.place c.task.die c.task.core plan.die item)

/-- SPAWN (R102). -/
def execSpawn (d a b : BitVec 7) (c : BitVec 1) (s : State) : Out :=
  s.runSpawn a.toNat (fun x env => do
      let p := x.party
      let use : List RegUse := if c = 1#1 then [.u d.toNat] else []
      let ctl := if c = 1#1 then (p.ureg d.toNat).toNat else 0
      spawnRoom x (lanesOf p.exm).length
      checkRegs env p use (checkControl env.det false ctl) (use ++ [.up a.toNat, .vp b.toNat])
      pure (.lanes ((lanesOf p.exm).map fun l => (l, p.vpair b.toNat l)), ctl)) false

/-- SPAWNR (R102). -/
def execSpawnr (d a b : BitVec 7) (c : BitVec 1) (s : State) : Out :=
  s.runSpawn a.toNat (fun x env => do
      let p := x.party
      let ctl := if c = 1#1 then (p.ureg (d.toNat + 1)).toNat else 0
      let ill : Except Trap Unit := do
        checkControl env.det true ctl
        need ((p.ureg d.toNat).toNat ≤ 2 ^ 24) (Trap.ill 3)
        spawnRoom x (p.ureg d.toNat).toNat
      spawnRoom x 0
      checkRegs env p [.up d.toNat] ill [.up d.toNat, .up a.toNat, .up b.toNat]
      pure (.range 0 1 (p.ureg d.toNat).toNat (p.upair b.toNat), ctl)) true

/-! ## Barriers among the parties of a troupe (R104, R105, R110) -/

/-- The task with a barrier stored. -/
def Task.putBarrier (t : Task) (b : Barrier) : Task := { t.dropBarrier b.id with barriers := (t.dropBarrier b.id).barriers ++ [b] }

/-- A party that is there and has not ended. -/
def Task.live (t : Task) (i : Nat) : Bool := (t.parties[i]?.map fun p => !p.ended).getD false

/-- BMK in every party waiting at a barrier, which is then free (R104, R110). -/
def State.failBarrier (s : State) (tid id : Nat) (l : List Nat) (kind reason : Nat) : State :=
  l.foldl (fun s i => s.takeTrap tid i (Trap.bmk (if id < 16 then id else 0) kind reason))
    (s.modTask tid fun t => t.dropBarrier id)

/-- What a barrier's arrivals come to. -/
inductive BarrierSays where
  | wait
  | fail (reason : Nat)
  | done
  deriving DecidableEq, Repr

/-- BAR completes when every named party has arrived; one that cannot arrive any more fails it (R110, R233). -/
def Task.barSays (t : Task) (b : Barrier) : BarrierSays :=
  let named := (List.range 32).filter fun i => b.mask.getLsbD i
  if named.any fun i => !t.live i && !mem? i b.arrived then .fail 2
  else if named.all fun i => mem? i b.arrived then .done
  else .wait

/-- AWAIT and AWAITP complete when every named live party has arrived; then no live party may be unnamed (R104). -/
def Task.awaitSays (t : Task) (b : Barrier) : BarrierSays :=
  let live := (List.range t.parties.length).filter t.live
  if live.any fun i => b.mask.getLsbD i && !mem? i b.arrived then .wait
  else if live.any fun i => !b.mask.getLsbD i then .fail 2
  else .done

/-- A party arrives: its mask must name it and agree with the others' (R104, R110). -/
def State.arrive (s : State) (tid pi id kind : Nat) (mask : Word) (hold : Hold) : State :=
  match s.task? tid with
  | none => s
  | some t =>
    let old := (t.barrier? id).getD { id := id, mask := mask, arrived := [] }
    let l := addNew old.arrived pi
    if !mask.getLsbD pi then s.failBarrier tid id l kind 1
    else if old.mask ≠ mask then s.failBarrier tid id l kind 0
    else (s.putTask tid (t.putBarrier { old with arrived := l })).modParty tid pi fun p => { p with hold := hold }

/-- BAR once a party has arrived or is looked at again (R110). -/
def State.settleBar (s : State) (tid id : Nat) : State :=
  match s.task? tid with
  | none => s
  | some t =>
    match t.barrier? id with
    | none => s
    | some b =>
      match t.barSays b with
      | .wait => s
      | .fail r => s.failBarrier tid id b.arrived 0 r
      | .done => (s.putTask tid (t.share b.arrived)).releaseBarrier tid id b.arrived

def execBar (a : BitVec 7) (i : BitVec 4) (s : State) : Out :=
  match s.current with
  | none => .next s
  | some c =>
    if c.party.hold = .bar i.toNat then .next (s.settleBar c.tid i.toNat)
    else
      s.runWideExec fun s1 c1 => do
        useRegs (c1.env s1) c1.party [.u a.toNat]
        pure ((s1.arrive c1.tid c1.pi i.toNat 0 (c1.party.ureg a.toNat) (.bar i.toNat)).settleBar c1.tid i.toNat)

/-! ## AWAIT and AWAITP (R104, R105) -/

/-- The copies that a task's summary names leave its core's L1 (R264). -/
def State.dropSummary (s : State) (die core : Nat) (l : List (Nat × Nat)) : State := s.invalidate die core l

/-- A complete AWAIT (R104): with no child pending the task's own writes go home, the children are joined and the troupe goes on;
else it parks. -/
def State.awaitReached (s : State) (tid : Nat) (t : Task) : State :=
  if t.pendingKids ≠ 0 then s.park tid else (s.source tid t).joinAndGo tid

/-- A complete AWAITP (R105): the first child goes on, another once its predecessor has completed; else the troupe parks. -/
def State.awaitpReached (s : State) (tid : Nat) (t : Task) : State :=
  if t.firstChild then (s.putTask tid t.noKids).releaseAwait tid 17
  else
    match s.predecessor t with
    | none => s.park tid
    | some k => ((s.putTask tid (t.receive k)).dropSummary t.die t.core k.summary).releaseAwait tid 17

/-- AWAIT or AWAITP once a party has arrived or is looked at again. -/
def State.settleAwaiting (s : State) (tid id : Nat) : State :=
  match s.task? tid with
  | none => s
  | some t =>
    match t.barrier? id with
    | none => s
    | some b =>
      if t.phase ≠ .running || t.frameWait.isSome then s
      else
        match t.awaitSays b with
        | .wait => s
        | .fail r => s.failBarrier tid id b.arrived (id - 15) r
        | .done => if id = 16 then s.awaitReached tid t else s.awaitpReached tid t

def execAwait (a : BitVec 7) (s : State) : Out :=
  match s.current with
  | none => .next s
  | some c =>
    if c.party.hold = .await then .next (s.settleAwaiting c.tid 16)
    else
      s.runWideExec fun s1 c1 => do
        useRegs (c1.env s1) c1.party [.u a.toNat]
        pure ((s1.arrive c1.tid c1.pi 16 1 (c1.party.ureg a.toNat) .await).settleAwaiting c1.tid 16)

def execAwaitp (a : BitVec 7) (s : State) : Out :=
  match s.current with
  | none => .next s
  | some c =>
    if c.party.hold = .await then .next (s.settleAwaiting c.tid 17)
    else
      s.runWideExec fun s1 c1 => do
        need c1.task.ord (Trap.ill 4)
        useRegs (c1.env s1) c1.party [.u a.toNat]
        pure ((s1.arrive c1.tid c1.pi 17 2 (c1.party.ureg a.toNat) .await).settleAwaiting c1.tid 17)

/-! ## AWAITC (R106) -/

/-- What the updates of a counter carry (R106, R245): each itself, and what its writer ordered before it. An update of a scratch byte
leaves no record here: it carries all that has come home (DEDUCED, log 101). -/
def State.updatesSeen (s : State) (x : Target) : Seen :=
  match x with
  | .scratch _ _ => s.allSeen
  | .mem _ fpa _ =>
    (s.past.filter fun w => w.old.any fun e => fpa ≤ e.1 && e.1 < fpa + 8).foldl (fun a w => (a.join w.after).add w.id (w.id + 1)) Seen.none

/-- The counter edge: the waiting party goes on past its AWAITC, its core's copies dropped (R245, R264). -/
def State.counterEdge (s : State) (tid pi : Nat) (t : Task) (x : Target) : State :=
  (s.flash t.die t.core).modParty tid pi fun p => { (p.advance 1) with hold := .free, seen := p.seen.join (s.updatesSeen x) }

/-- AWAITC's test (R106): the access as a load's, then the counter against the threshold; below it the party waits. -/
def State.testCounter (s : State) (c : Exec) (addr thr : DWord) : State :=
  let r := s.uniReq (c.env s) c.party .read 8 addr.toNat
  match settle [(r.lane, r.look)] with
  | .error tr => s.takeTrap c.tid c.pi tr
  | .ok (.wait vas) => s.waitWalks c.tid c.pi c.task.die c.task.ctx 0 vas
  | .ok (.ok ts) =>
    if s.loadWaits c ts then s
    else
      match ts with
      | [(_, x)] =>
        match s.intOf c.task.die .read [(0, x)] with
        | .error tr => s.takeTrap c.tid c.pi tr
        | .ok _ =>
          let s1 := match x with | .mem _ fpa _ => s.settleLine c.task.die c.task.core fpa | .scratch _ _ => s
          if thr.toNat ≤ s1.homeNat x 8 then s1.counterEdge c.tid c.pi c.task x
          else s1.modParty c.tid c.pi fun p => { p with hold := .awaitc addr thr }
      | _ => s

def execAwaitc (a b : BitVec 7) (s : State) : Out :=
  match s.current with
  | none => .next s
  | some c =>
    match c.party.hold with
    | .awaitc addr thr => .next (s.testCounter c addr thr)
    | _ =>
      match useRegs (c.env s) c.party [.up a.toNat, .up b.toNat] with
      | .error tr => .next (s.takeTrap c.tid c.pi tr)
      | .ok _ => .next (s.testCounter c (c.party.upair a.toNat) (c.party.upair b.toNat))

/-- A party as an executing one. -/
def State.execOf (s : State) (tid pi : Nat) : Option Exec := { s with cur := some (tid, pi) }.current

/-- A waiting party's counter tested again (R106); a party whose troupe is not resident tests when it is back. -/
def State.pollCounter (s : State) (tid pi : Nat) : State :=
  match s.execOf tid pi with
  | none => s
  | some c =>
    if c.task.phase ≠ .running || c.task.failed || c.task.frameWait.isSome then s
    else
      match c.party.hold with
      | .awaitc addr thr => s.testCounter c addr thr
      | _ => s

def execAwaitcPoll (task party : Nat) (s : State) : Out := .next (s.pollCounter task party)

/-- WAKE_NOTICE (R367): the home's notice makes the party test its counter. -/
def execWakeNotice (task party : Nat) (s : State) : Out := .next (s.pollCounter task party)

/-! ## Batches (R107 to R109) -/

/-- BCLOSE (R107): it stalls while sixteen closed batches are outstanding. -/
def execBclose (d : BitVec 7) (s : State) : Out :=
  match s.current with
  | none => .next s
  | some c =>
    match useRegs (c.env s) c.party [.u d.toNat] with
    | .error tr => .next (s.takeTrap c.tid c.pi tr)
    | .ok _ =>
      if Config.maxBatches ≤ c.party.closed.length then .next s
      else
        .next (s.modParty c.tid c.pi fun p =>
          let b := p.openBatch
          let p1 := { p with
            openBatch := { no := b.no + 1, ops := [], used := false, err := false, seen := Seen.none }
            closed := if b.ops.isEmpty then p.closed else p.closed ++ [b]
            finished := if b.ops.isEmpty && b.used then p.finished ++ [(b.no, b.seen)] else p.finished
            batchErr := p.batchErr || (b.ops.isEmpty && b.err) }
          (p1.setU d.toNat b.no).advance 1)

/-- A batch's number is at or below `n`, modulo 2^32 (R108). -/
def atOrBelow (no n : Word) : Bool := decide ((n - no).toNat < 2 ^ 31)
def Batch.upTo (b : Batch) (n : Word) : Bool := atOrBelow b.no n

/-- The core still holds Satchel lines of a party: what their home is or what it waits for keeps them there (R258, R331). -/
def State.satchelHolds (s : State) (die core : Nat) (w : Nat × Nat) : Bool :=
  (s.core die core).satchel.any fun l => l.parties.any fun x => x == w

/-- A party's stores are not all at their homes (R108, R111). -/
def State.undrained (s : State) (c : Exec) : Bool :=
  s.undelivered (c.tid, c.pi) || s.satchelHolds c.task.die c.task.core (c.tid, c.pi)

/-- The party past a BWAIT: the batches that it awaited come before its next access (R108, R245). -/
def Party.awaited (p : Party) (n : Word) : Party :=
  { (p.advance 1) with
    hold := .free
    seen := (p.finished.filter fun x => atOrBelow x.1 n).foldl (fun a x => a.join x.2) p.seen
    finished := p.finished.filter fun x => !atOrBelow x.1 n }

/-- BWAIT's test (R108): the batches done and the stores delivered, the party goes on; else it waits. -/
def State.testBatches (s : State) (c : Exec) (n : Word) : State :=
  let s1 := s.drainTask c.task.die c.task.core c.tid
  if c.party.closed.any (·.upTo n) || s1.undrained c then
    s1.modParty c.tid c.pi fun p => { p with hold := .bwait n }
  else (s1.flash c.task.die c.task.core).modParty c.tid c.pi fun p => p.awaited n

def execBwait (a : BitVec 7) (s : State) : Out :=
  match s.current with
  | none => .next s
  | some c =>
    match c.party.hold with
    | .bwait n => .next (s.testBatches c n)
    | _ =>
      match useRegs (c.env s) c.party [.u a.toNat] with
      | .error tr => .next (s.takeTrap c.tid c.pi tr)
      | .ok _ => .next (s.testBatches c (c.party.ureg a.toNat))

/-- BSTAT's two words (R109). -/
def Party.batchStatus (p : Party) : Word × Word :=
  ((p.closed.head?.map (·.no)).getD p.openBatch.no - 1,
    BitVec.ofNat 32 (16 * p.closed.length + 2 * b2n p.openBatch.used + b2n p.batchErr))

/-- BSTAT (R109), class V; reading ERR clears it. -/
def execBstat (d : BitVec 7) (f : BitVec 1) (s : State) : Out :=
  match s.current with
  | none => .next s
  | some c =>
    if 255 ≤ c.party.cfCount (c.party.coverFlag f) then .next s
    else
      match useRegs (c.env s) c.party [.up d.toNat] with
      | .error tr => .next (s.takeTrap c.tid c.pi tr)
      | .ok _ =>
        let r := c.party.batchStatus
        let x := (VResult.loads [] [c.party.uwrite d.toNat r.1, c.party.uwrite (d.toNat + 1) r.2]).pending s.nextId
          (c.party.coverFlag f)
        .next ({ s with nextId := s.nextId + 1 }.modParty c.tid c.pi fun p =>
          ({ p with batchErr := false }.addPending x).advance 1)

/-! ## PBAR (R111) -/

/-- The key of a group barrier's arrivals. -/
def GroupBar.at (b : GroupBar) (ctx slot die : Nat) : Bool := b.ctx == ctx && b.slot == slot && b.die == die

/-- The arrivals of a rank's parties at a slot. -/
def State.groupBar (s : State) (ctx slot die expect : Nat) : GroupBar :=
  (s.groupBars.find? fun b => b.at ctx slot die).getD
    { ctx := ctx, slot := slot, die := die, expect := expect, waiting := [] }

/-- The machine without a rank's arrivals, or with new ones. -/
def State.dropGroupBar (s : State) (ctx slot die : Nat) : State :=
  { s with groupBars := s.groupBars.filter fun b => !b.at ctx slot die }
def State.putGroupBar (s : State) (b : GroupBar) : State :=
  { s.dropGroupBar b.ctx b.slot b.die with groupBars := (s.dropGroupBar b.ctx b.slot b.die).groupBars ++ [b] }

/-- The group that a die defines at a slot has a rank on a die marked failed: one of this package, or one that another package has told of
(R111, R198, R334). -/
def State.groupDead (s : State) (die ctx slot : Nat) (w : List Word) : Bool :=
  s.slotDead die ctx slot w || (groupDies w s.pkg).any fun d => (s.die d).detected

/-- PBAR's control word (R111): its reserved bits, EXPECT and SLOT. -/
def pbarWord (x : Word) : Except Trap (Nat × Nat) := do
  need (bits x.toNat 24 8 == 0 && bits x.toNat 6 2 == 0) (Trap.ill 1)
  need (bits x.toNat 8 16 != 0) (Trap.ill 3)
  pure (bits x.toNat 8 16, bits x.toNat 0 6)

/-- BMK in the parties of a rank that have arrived at a slot, and in the one that arrives (R111). -/
def State.failGroup (s : State) (c : Exec) (slot reason : Nat) : State :=
  ((s.groupBar c.task.ctx slot c.task.die 0).waiting ++ [(c.tid, c.pi)]).foldl
    (fun s w => s.takeTrap w.1 w.2 (Trap.bmk slot 3 reason)) (s.dropGroupBar c.task.ctx slot c.task.die)

/-- A party's arrival at a PBAR (R111): its Satchel first, then the arrival, or BMK in the parties of its rank. -/
def State.arriveGroup (s : State) (c : Exec) (expect slot : Nat) : State :=
  let s1 := s.source c.tid c.task
  if s1.undrained c then s1
  else
    let b := s1.groupBar c.task.ctx slot c.task.die expect
    if b.expect ≠ expect then s1.failGroup c slot 0
    else
      (s1.putGroupBar { b with waiting := b.waiting ++ [(c.tid, c.pi)] }).modParty c.tid c.pi fun p => { p with hold := .pbar slot }

/-- Parties that wait at group barriers take CDG (R111, R334). -/
def State.cdgBars (s : State) (pick : GroupBar → Bool) : State :=
  (s.groupBars.filter pick).foldl (fun s b => b.waiting.foldl (fun s w => s.takeTrap w.1 w.2 (Trap.cdg (s.deadMask.toNat + 2 ^ 8 * b.slot))) s)
    { s with groupBars := s.groupBars.filter fun b => !pick b }

/-- PBAR (R111): once its party has arrived, its operand is not looked at again (R53). -/
def execPbar (a : BitVec 7) (s : State) : Out :=
  match s.current with
  | none => .next s
  | some c =>
    match c.party.hold with
    | .pbar _ => .next s
    | _ =>
      s.runWideExec fun s1 c => do
        useRegs (c.env s1) c.party [.u a.toNat]
        let (expect, slot) ← pbarWord (c.party.ureg a.toNat)
        match s1.slotWords c.task.die c.task.ctx slot with
        | none => pure (s1.failGroup c slot 3)
        | some w =>
          need (!s1.groupDead c.task.die c.task.ctx slot w) (Trap.cdg (s1.deadMask.toNat + 2 ^ 8 * slot))
          pure (s1.arriveGroup c expect slot)

/-- A rank has arrived once EXPECT of its parties have, or more before the release, which then goes with it (R111; DESIGN CHOICE, log 93). -/
def State.rankArrived (s : State) (ctx slot die : Nat) : Bool :=
  s.groupBars.any fun b => b.at ctx slot die && b.expect ≤ b.waiting.length

/-- Every rank that is on this package of the group which a die's slot defines has arrived (R111, R196). -/
def State.groupArrived (s : State) (ctx slot die : Nat) : Bool :=
  match s.slotWords die ctx slot with
  | none => false
  | some w => (groupDies w s.pkg).all fun e => s.rankArrived ctx slot e

/-- A party released from a PBAR, after `seen` (R245): its core's copies go, and what its task's other parties wrote before is its too
(R103, R264). -/
def State.releaseGroup (s : State) (l : List (Nat × Nat)) (seen : Seen) : State :=
  l.foldl (fun s w =>
    match s.task? w.1 with
    | none => s
    | some t =>
      ((s.flash t.die t.core).putTask w.1 (t.share ((l.filter fun x => x.1 == w.1).map (·.2)))).modParty w.1 w.2 fun p =>
        { (p.advance 1) with hold := .free, seen := p.seen.join seen }) s

/-- The group that a die defines at a slot has ranks on other packages. -/
def State.groupBeyond (s : State) (ctx slot die : Nat) : Bool := ((s.slotWords die ctx slot).map groupSpans).getD false

/-- The arrivals at a slot of a group all of whose ranks of this package have arrived. -/
def State.wholeBars (s : State) (ctx slot : Nat) (beyond : Bool) : List GroupBar :=
  s.groupBars.filter fun b => b.ctx == ctx && b.slot == slot && s.groupArrived ctx slot b.die && s.groupBeyond ctx slot b.die == beyond

/-- The arrivals that one release lets go (R111): those of every group that this package holds whole, or of the one group with ranks
elsewhere whose first arrivals stand first (DESIGN CHOICE, log 100). -/
def State.releasedBars (s : State) (ctx slot : Nat) (beyond : Bool) : List GroupBar :=
  let l := s.wholeBars ctx slot beyond
  if !beyond then l
  else
    match l with
    | [] => []
    | b :: _ => l.filter fun x => mem? x.die (groupDies ((s.slotWords b.die ctx slot).getD []) s.pkg)

/-- What every participant has seen; those of other packages stand for everything that has come home by now (R111, R245). -/
def State.barsSeen (s : State) (l : List GroupBar) (beyond : Bool) : Seen :=
  (l.flatMap fun (b : GroupBar) => b.waiting).foldl (fun a w => a.join (s.seenOf w.1 w.2)) (if beyond then s.allSeen else Seen.none)

/-- A release of a slot's barriers: every participant goes on, after what all of them did (R111). -/
def State.releaseBars (s : State) (ctx slot : Nat) (beyond : Bool) : State :=
  let l := s.releasedBars ctx slot beyond
  let rest := s.groupBars.filter fun b => !l.any fun x => x == b
  ({ s with groupBars := rest }).releaseGroup (l.flatMap fun (b : GroupBar) => b.waiting) (s.barsSeen l beyond)

/-- PBAR_RELEASE (R111): the fabric group's release of the group with ranks on other packages whose ranks here have arrived; where there
is none, the groups of this package alone are released, which the machine also does by a turn of its own. -/
def execPbarRelease (ctx slot : Nat) (s : State) : Out :=
  .next (s.releaseBars ctx slot !(s.wholeBars ctx slot true).isEmpty)

/-! ## SIGNAL and FLUSHWC (R112, R113) -/

/-- SIGNAL's add, at its home at once, or sent to a remote NORMAL or WCOMB one; as issued in every mode (R112, R252, R362). -/
def State.signalAdd (s : State) (c : Exec) (x : Target) (add : Word) : State :=
  match x with
  | .scratch t o => s.writeScratch t o (leBytes 8 ((s.homeNat x 8 + add.toNat) % 2 ^ 64)) false false
  | .mem va fpa l =>
    let s1 := if l.soft then s.noteWrite c.tid fpa else s
    if isRemote fpa && l.soft && s.reachable c.task.die fpa then
      s1.sendStep c.tid c.pi
        { fpa := fpa, va := va, frame := c.task.frame, work := .atom 12 [(0, [add.setWidth 64])] none, die := c.task.die
          core := c.task.core, ctx := c.task.ctx, who := [(c.tid, c.pi)], write := 0, after := Seen.none, sure := false
          custody := false, performed := false, failed := false, olds := [] }
    else
      s1.atHome c.task.die c.task.ctx va fpa c.task.frame fun s =>
        let s2 := s.settleLine c.task.die c.task.core fpa
        let s3 := (s2.bump fpa add.toNat).partyWrote s2 c.tid c.pi
        if l.soft then s3.noteLine c.task.ctx va fpa else s3

def execSignal (a b : BitVec 7) (s : State) : Out :=
  match s.current with
  | none => .next s
  | some c =>
    match useRegs (c.env s) c.party [.up a.toNat, .u b.toNat] with
    | .error tr => .next (s.takeTrap c.tid c.pi tr)
    | .ok _ =>
      let r := s.uniReq { (c.env s) with det := false } c.party .atomic 8 (c.party.upair a.toNat).toNat
      match settle [(r.lane, r.look)] with
      | .error tr => .next (s.takeTrap c.tid c.pi tr)
      | .ok (.wait vas) => .next (s.waitWalks c.tid c.pi c.task.die c.task.ctx 2 vas)
      | .ok (.ok ts) =>
        if s.storeWaits ts then .next s
        else
          let s1 := s.source c.tid c.task
          if s1.undelivered (c.tid, c.pi) || s1.coreHolds c.task.die c.task.core c.tid then .next s1
          else .next ((ts.foldl (fun s x => s.signalAdd c x.2 (c.party.ureg b.toNat)) s1).retire c 1)

/-- FLUSHWC (R113): the party's Satchel lines leave, and it stalls until each is in custody. -/
def execFlushwc (s : State) : Out :=
  match s.current with
  | none => .next s
  | some c =>
    let s1 := s.drainParty c.task.die c.task.core (c.tid, c.pi)
    .next (if s1.uncustodied (c.tid, c.pi) || s1.satchelHolds c.task.die c.task.core (c.tid, c.pi) then s1 else s1.retire c 1)

end Sys2Proof.Machine
end

