-- ==== Sys2Proof/Machine/Sched.lean ====
section
/-! DEFINITION. The scheduler: what a core admits (R222), what it takes (R235 to R237), starts and resumptions (R223,
R224, R236), and pre-emption (R345 to R353). -/

namespace Sys2Proof.Machine

/-! ## Room on a core (R222) -/

/-- The tasks resident on a core. -/
def State.residents (s : State) (die core : Nat) : List (Nat × Task) :=
  s.tasks.filter fun e => e.2.phase == .running && e.2.die == die && e.2.core == core

/-- How many of `n` parties placed from quadrant `q0` on lie in quadrant `q`. -/
def quadShare (q0 n q : Nat) : Nat := ((List.range n).filter fun p => (q0 + p) % 4 == q).length

/-- The parties, vector registers and uniform registers in use in a quadrant. -/
def quadUse (l : List (Nat × Task)) (q : Nat) : Nat × Nat × Nat :=
  l.foldl (fun u e =>
    let n := quadShare e.2.quad e.2.desc.parties q
    (u.1 + n, u.2.1 + n * e.2.desc.vregs, u.2.2 + n * e.2.desc.uregs)) (0, 0, 0)

/-- The quadrant with the most free vector registers, lowest number first (R222). -/
def freestQuad (l : List (Nat × Task)) : Nat :=
  (List.range 4).foldl (fun b q => if (quadUse l q).2.1 < (quadUse l b).2.1 then q else b) 0

/-- The troupe of a descriptor is admitted beside others from a first quadrant on (R222). -/
def admits (l : List (Nat × Task)) (d : Descriptor) (q0 : Nat) : Bool :=
  ((List.range 4).all fun q =>
    let u := quadUse l q
    let n := quadShare q0 d.parties q
    u.1 + n ≤ 16 && u.2.1 + n * d.vregs ≤ 1024 && u.2.2 + n * d.uregs ≤ 8192)
    && (l.map fun e => e.2.desc.scratch).sum + d.scratch ≤ 262144

/-- A core of the package takes work of a context (R215, R236, R346): it runs no other context's troupes, and the context is not
suspended. -/
def State.takes (s : State) (die core ctx : Nat) : Bool :=
  die < 8 && core < 96 && (s.residents die core).all (fun e => e.2.ctx == ctx) && !(s.ctx ctx).suspend && !(s.die die).failed

/-- A core admits a troupe of a context (R222, R236). -/
def State.admitsOn (s : State) (die core ctx : Nat) (d : Descriptor) : Bool :=
  s.takes die core ctx && admits (s.residents die core) d (freestQuad (s.residents die core))

/-! ## Frames and alias slots (R102, R269, R272) -/

/-- The tasks of a context, each with a frame and a slot. -/
def State.ctxTasks (s : State) (ctx : Nat) : List (Nat × Task) := s.tasks.filter fun e => e.2.ctx == ctx

/-- Frame `i` of a context's pool (R272). -/
def Ctx.frameAt (c : Ctx) (i : Nat) : DWord := w64 (sxNat 57 (bits c.fpool.toNat 16 41 * 65536)) + BitVec.ofNat 64 (64 * i)

/-- One of `n` things, looked for from a free starting point, that none of the `used` marks (R102, R269). -/
def pickFree (n start : Nat) (used : List Nat) : Option Nat :=
  if n = 0 then none
  else ((List.range (used.length + 1)).map fun i => (start + i) % n).find? fun i => !mem? i used && i < n

/-- A free frame of a context's pool. -/
def State.freeFrame (s : State) (ctx : Nat) : Option DWord :=
  let c := s.ctx ctx
  let used := (s.ctxTasks ctx).map fun e => ((e.2.frame - c.frameAt 0).toNat) / 64
  (pickFree (bits c.fpn.toNat 0 24) (Config.freeNat s.fresh) used).map c.frameAt

/-- A free alias slot of a context. -/
def State.freeSlot (s : State) (ctx : Nat) : Option Nat :=
  pickFree (bits (s.ctx ctx).asl.toNat 0 18) (Config.freeNat s.fresh) ((s.ctxTasks ctx).map (·.2.slot))

/-! ## Unstarted children (R235 to R237) -/

/-- `cidx` (R216). -/
def cidxOf (party seq idx : Nat) : DWord := BitVec.ofNat 64 (party * 2 ^ 59 + seq * 2 ^ 32 + idx)

/-- An item's lowest unstarted child: its index, its argument, and the children left. -/
def Kids.next : Kids → Option (Nat × DWord × Kids)
  | .lanes [] => none
  | .lanes ((l, a) :: r) => some (l, a, .lanes r)
  | .range _ _ 0 _ => none
  | .range i st (n + 1) a => some (i, a, .range (i + st) st n a)

/-- An item's lowest unstarted logical index. -/
def Item.lowest (x : Item) : Option DWord := x.kids.next.map fun k => cidxOf x.party x.seq k.1

/-- Where an item stands: a core's deque or a die's queue, and its place in it. -/
inductive Spot where
  | deque (die core i : Nat)
  | queue (die i : Nat)
  deriving DecidableEq, Repr

/-- Every item with its place. -/
def State.items (s : State) : List (Spot × Item) :=
  (s.cores.flatMap fun c => (List.range c.2.deque.length).filterMap fun i =>
    c.2.deque[i]?.map fun x => (Spot.deque (c.1 / 96) (c.1 % 96) i, x)) ++
  (s.dies.flatMap fun d => (List.range d.2.queue.length).filterMap fun i =>
    d.2.queue[i]?.map fun x => (Spot.queue d.1 i, x))

/-- The item with a frame's lowest unstarted child (R237). -/
def State.lowestOf (s : State) (p : Parent) : Option (Spot × Item) :=
  (s.items.filter fun x => x.2.parent == p).foldl (fun best x =>
    match best, x.2.lowest with
    | _, none => best
    | none, some _ => some x
    | some b, some k => if k.toNat < ((b.2.lowest).getD 0).toNat then some x else best) none

/-- The die a spot lies on. -/
def Spot.die : Spot → Nat
  | .deque d _ _ => d
  | .queue d _ => d

/-- The machine with the item at a spot replaced, or removed. -/
def State.putSpot (s : State) (x : Spot) (y : Option Item) : State :=
  let change := fun (l : List Item) (i : Nat) => l.take i ++ y.toList ++ l.drop (i + 1)
  match x with
  | .deque d c i => s.putCore d c { (s.core d c) with deque := change (s.core d c).deque i }
  | .queue d i => s.putDie d { (s.die d) with queue := change (s.die d).queue i }

/-- A root range of a context that has met a mismatch starts no further task (R267). -/
def State.rootHeld (s : State) (x : Item) : Bool :=
  match x.parent with
  | .root _ => (s.ctx x.ctx).mismatch
  | .task _ => false

/-- A core can start the lowest unstarted child of an item's frame (R222, R236, R237). -/
def State.canStart (s : State) (die core : Nat) (x : Item) : Option (Spot × Item) :=
  match s.lowestOf x.parent with
  | none => none
  | some y =>
    if y.1.die = die && s.admitsOn die core y.2.ctx y.2.desc && (s.freeFrame y.2.ctx).isSome && (s.freeSlot y.2.ctx).isSome
      && !s.rootHeld y.2 then some y
    else none

/-- The clusters of a die by distance on the ring from one (R236). -/
def clusterOrder (c : Nat) : List Nat :=
  (List.range 13).flatMap fun k => ((List.range 24).filter fun x => min ((x + 24 - c) % 24) ((c + 24 - x) % 24) == k)

/-- The cores to steal from, in order: after one's own in its cluster, wrapping; then cluster by cluster, in ascending number
(R236). -/
def stealOrder (core : Nat) : List Nat :=
  ((List.range 3).map fun i => clusterOf core * 4 + (core + 1 + i) % 4) ++
    ((clusterOrder (clusterOf core)).filter (· != clusterOf core)).flatMap fun x =>
      (List.range 4).map fun i => x * 4 + i

/-- The work a core takes in steps 2 to 5 of R236. -/
def State.pickWork (s : State) (die core : Nat) : Option (Spot × Item) :=
  let own := (s.core die core).deque.getLast?
  let steals := (stealOrder core).filterMap fun c => (s.core die c).deque.head?
  (own.toList ++ (s.die die).queue ++ steals).findSome? fun x => s.canStart die core x

/-! ## TASK_START (R223, R236) -/

/-- A party at its task's start (R59, R62, R87, R223); its accesses come after `seen` (R103). -/
def Party.start (d : Descriptor) (arg : DWord) (fmt : Word) (seen : Seen) : Party :=
  { stack := [{ pc := d.entry, mask := 0xFFFFFFFF#32, rpc := none, fmt := fmt, clause := none, stopped := none, go := false, tried := false, told := false }]
    v := [], u := Cells.set (Cells.set [] 0 (loWord arg)) 1 (hiWord arg), preds := List.replicate 8 0#32, q := 0x80#8
    vwb := 0, swb := 0, ix := List.replicate 4 0#9, lnk := 0, gang := 0, gangMask := 0, aflags := 0, tmask := 0, tcause := 0, xpc := 0
    cf := List.replicate 12 0, pend := [], ts := none, hold := .free, spawnSeq := 0
    openBatch := { no := 0, ops := [], used := false, err := false, seen := Seen.none }, closed := [], batchErr := false, storing := [], known := []
    seen := seen, finished := []
    vdirty := 0xFFFFFFFF#32, udirty := 0xFFFFFFFF#32, cancelled := [], ended := false }

/-- A started task. -/
def Item.task (x : Item) (cidx arg frame : DWord) (slot die core quad : Nat) : Task :=
  { desc := x.desc, wrt := x.wrt, ctx := x.ctx, prio := x.prio, die := die, core := core, quad := quad, det := x.det
    nd := x.nd, ord := x.ord, stage := x.stage, parent := x.parent, cidx := cidx, frame := frame, slot := slot
    phase := .running, failed := false, pendingKids := 0, nfail := 0, fcidx := noFailed, cont := 0
    parties := List.replicate x.desc.parties (Party.start x.desc arg x.fmt x.seen), scratch := [], scratchDirty := [], scratchPoison := [], scratchBad := [], barriers := []
    latches := [], storeSet := [], storeTags := [], storePages := [], received := x.base, steps := [], atomSeq := 0, kids := [], wset := [], opSeen := Seen.none, tiles := [], tilesSaved := false
    joinWait := false, joining := none, frameWait := none, imageLost := false, held := false }

/-- The finished or unfinished children's lowest unfinished index of a frame: its head (R238), running or not. -/
def State.headOf (s : State) (p : Parent) : Option DWord :=
  (((s.tasks.filter fun e => e.2.parent == p).map (·.2.cidx)) ++
    (s.items.filter fun x => x.2.parent == p).filterMap (·.2.lowest)).foldl (fun b k =>
      match b with
      | none => some k
      | some x => if k.toNat < x.toNat then some k else some x) none

/-- The frame's task is parked at AWAIT or AWAITP (R238). -/
def State.parentParked (s : State) (p : Parent) : Bool :=
  match p with
  | .task i => ((s.task? i).map fun t => t.phase == .parked).getD false
  | .root _ => false

/-- An unstarted task of a die that no core of it admits (R345). -/
def State.stranded (s : State) (die : Nat) (x : Spot × Item) : Bool :=
  x.1.die == die && !(s.ctx x.2.ctx).suspend && (List.range 96).all fun c => !s.admitsOn die c x.2.ctx x.2.desc

/-- The unstarted head of a parked frame that no core of its die admits (R238). -/
def State.strandedHead (s : State) (p : Parent) : Option (Spot × Item) :=
  if !s.parentParked p then none
  else (s.lowestOf p).filter fun x => s.headOf p == x.2.lowest && s.stranded x.1.die x

/-- A request stands while its cause does (R345): the core still runs what it is to be rid of, and the waiting task, or the
unstarted head of its tasks' frame, is still there and admitted nowhere. -/
def State.causeHolds (s : State) (die core : Nat) (c : Cause) : Bool :=
  let l := s.residents die core
  match c with
  | .suspend => l.any fun e => (s.ctx e.2.ctx).suspend
  | .priority p => !l.isEmpty && s.items.any fun x => p ≤ x.2.prio && s.stranded die x
  | .progress p =>
    match s.strandedHead p with
    | some x => x.1.die == die && l.any fun e => e.2.parent == p && ((x.2.lowest).getD 0).toNat < e.2.cidx.toNat
    | none => false

/-- A core without the requests whose causes have gone; with none left it drops what it had been prepared for (R345). -/
def State.withdrawCore (s : State) (die core : Nat) : State :=
  let c := s.core die core
  let l := c.requests.filter (s.causeHolds die core)
  if l.length = c.requests.length then s
  else s.putCore die core { c with requests := l, expired := c.expired && !l.isEmpty, fill := if l.isEmpty then none else c.fill }

/-- Withdraws the requests of a die whose causes have gone (R345). -/
def State.withdraw (s : State) (die : Nat) : State := (List.range 96).foldl (fun s c => s.withdrawCore die c) s

/-! ## TROUPE_RESUME (R224) -/

/-- The troupe must stay on its cluster (R224): a gang, a Press operation, or a bound tile. -/
def State.bound (s : State) (tid : Nat) (t : Task) : Bool :=
  (t.parties.any fun p => !p.ended && p.gang.getLsbD 31) || !t.tiles.isEmpty ||
    s.ops.any fun o => o.2.source == .party tid && match o.2.kind with | .press .. => true | _ => false

/-- A core can take a resumption (R222, R224, R236). -/
def State.canResume (s : State) (die core tid : Nat) : Bool :=
  match s.task? tid with
  | none => false
  | some t =>
    t.phase == .resuming && !t.imageWait && s.admitsOn die core t.ctx t.desc &&
      (!s.bound tid t || clusterOf t.core == clusterOf core)

/-- A core can take a switched-out image (R224, R351, R352): it is empty, on its cluster where that is required, its shadow bank is
not being spilled, and all that the image's context has stored from its old core is in custody. -/
def State.canRestore (s : State) (die core id : Nat) : Bool :=
  match AMap.get? s.images id with
  | none => false
  | some i =>
    i.ready && i.die == die && (s.core die core).spill.isNone &&
      !(s.flits.any fun f => !f.2.custody && f.2.ctx == i.ctx && f.2.die == i.die && f.2.core == i.core) &&
      i.tasks.all fun t =>
        match s.task? t with
        | none => true
        | some x => !x.imageWait && (!s.bound t x || clusterOf x.core == clusterOf core)

/-- The context of an image. -/
def State.imageCtx (s : State) (id : Nat) : Nat := ((AMap.get? s.images id).map fun (i : Image) => i.ctx).getD 0

/-- A core can take a resumption from its die's queue (R236). -/
def State.canTake (s : State) (die core : Nat) (r : Resumption) : Bool :=
  match r with
  | .troupe t => s.canResume die core t
  | .image id => (s.residents die core).isEmpty && s.takes die core (s.imageCtx id) && s.canRestore die core id

/-- The priority of a resumption: its troupe's, or the highest among the image's. -/
def State.prioOf (s : State) (r : Resumption) : Nat :=
  let prio := fun t => ((s.task? t).map (·.prio)).getD 0
  match r with
  | .troupe t => prio t
  | .image id => maxOf 0 (((AMap.get? s.images id).map fun (i : Image) => i.tasks.map prio).getD [])

/-- The first of the highest priority among resumptions (R236). -/
def State.bestResume (s : State) (l : List Resumption) : Option Resumption :=
  l.foldl (fun best t =>
    match best with
    | none => some t
    | some b => if s.prioOf b < s.prioOf t then some t else some b) none

/-- The resumption that a core takes: the one of highest priority that it can take, the earliest first among equals (R236). -/
def State.pickResume (s : State) (die core : Nat) : Option Resumption := s.bestResume ((s.die die).resumes.filter (s.canTake die core))

/-- TROUPE_RESUME (R104, R105, R224, R264): the core drops the copies that the summaries name, or all of them where the
troupe comes from another core, and the parties go on past their AWAIT. -/
def execTroupeResume (die core : Nat) (s : State) : Out :=
  match s.pickResume die core with
  | some (.troupe tid) =>
    (match s.task? tid with
    | none => .next s
    | some t =>
      let d := s.die die
      let s1 := s.putDie die { d with resumes := d.resumes.filter fun r => r != Resumption.troupe tid }
      let s2 := if t.core = core && t.awaits 16 then s1.dropSummary die core t.wset else s1.flash die core
      let s3 := s2.putTask tid { t with phase := .running, core := core, quad := freestQuad (s.residents die core), cont := 0 }
      .next (((s3.writeImage tid 1).releaseAwait tid (if t.awaits 16 then 16 else 17)).withdraw die))
  | _ => .next s

/-! ## Waits that the Innkeeper reports (R102, R254) -/

/-- An unstarted task of a context waits on a die for a frame, which a core would otherwise admit, and has not been reported (R102);
whether an alias slot is free as well is not asked (log 89). -/
def State.wantsFrame (s : State) (die ctx : Nat) (x : Spot × Item) : Bool :=
  x.1.die == die && x.2.ctx == ctx && !x.2.told && s.lowestOf x.2.parent == some x && !s.rootHeld x.2 && (s.freeFrame ctx).isNone &&
    (List.range 96).any fun c => s.admitsOn die c ctx x.2.desc

/-- FRAME_POOL_WAIT_EXPIRE (R102, R344): a task of the context has waited on this die for a frame; one record for each. -/
def execFramePoolWaitExpire (die ctx : Nat) (s : State) : Out :=
  match s.items.find? (s.wantsFrame die ctx) with
  | none => .next s
  | some x =>
    .next ((s.putSpot x.1 (some { x.2 with told := true })).postEvent die 0x08 0
      (payloadOf [(16, 2, ctx), (24, 8, (s.parentFrame x.2.parent).toNat)]))

/-- A party stands at a store. -/
def Party.atStore (p : Party) : Bool :=
  match p.top.clause.map fun c => decode c.words with
  | some (.ok (.st .., _)) | some (.ok (.sti .., _)) | some (.ok (.qst .., _)) => true
  | _ => false

/-- STORE_SET_WAIT_EXPIRE (R254, R344): a store of a DET task has stalled for spill room; one record for each stall. -/
def execStoreSetWaitExpire (task party : Nat) (s : State) : Out :=
  match s.task? task with
  | none => .next s
  | some t =>
    match t.parties[party]? with
    | none => .next s
    | some p =>
      if t.det && !p.ended && p.top.tried && !p.top.told && p.atStore && s.spillFull t.ctx then
        .next ((s.putParty task party (p.modTop fun e => { e with told := true })).postEvent t.die 0x09 0
          (payloadOf [(16, 2, t.ctx), (24, 8, (s.parentFrame t.parent).toNat)]))
      else .next s

/-! ## Pre-emption requests (R238, R345) -/

/-- A core runs a parked frame's head while another candidate runs a higher-indexed sibling (R238). -/
def State.sparesHead (s : State) (die : Nat) (cands : List Nat) (c : Nat) : Bool :=
  (s.residents die c).all fun e =>
    !(s.parentParked e.2.parent && s.headOf e.2.parent == some e.2.cidx &&
      cands.any fun c' => c' != c && (s.residents die c').any fun x =>
        x.2.parent == e.2.parent && e.2.cidx.toNat < x.2.cidx.toNat)

/-- The context that a core runs. -/
def State.coreCtx (s : State) (die core : Nat) : Nat := (((s.residents die core).head?).map (·.2.ctx)).getD 0

/-- Asks a core to switch out (R345), in the mode its context has now, beside what asks it already (R208). -/
def State.request (s : State) (die core : Nat) (c : Cause) : State :=
  let k := s.core die core
  s.putCore die core { k with
    requests := if k.requests.any fun x => x == c then k.requests else k.requests ++ [c]
    mode := (s.ctx (s.coreCtx die core)).mode }

/-- The highest resident priority of a core. -/
def State.topPrio (s : State) (die core : Nat) : Nat := maxOf 0 ((s.residents die core).map (·.2.prio))

/-- A task of a die waits unstarted at a priority that no core admits (R345). -/
def State.waitingPrio (s : State) (die : Nat) : Option Nat :=
  let l := (s.items.filter (s.stranded die)).map (·.2.prio)
  if l.isEmpty then none else some (maxOf 0 l)

/-- PRIORITY_WAIT_EXPIRE (R345): the core whose highest resident priority is lowest is requested. -/
def execPriorityWaitExpire (die : Nat) (s : State) : Out :=
  match s.waitingPrio die with
  | none => .next s
  | some p =>
    let cands := (List.range 96).filter fun c => !(s.residents die c).isEmpty && s.topPrio die c < p
    let ok := cands.filter (s.sparesHead die cands)
    match ok.foldl (fun (b : Option Nat) c =>
        match b with
        | none => some c
        | some x => if s.topPrio die c < s.topPrio die x then some c else some x) none with
    | none => .next s
    | some c => .next (s.request die c (.priority p))

/-- PROGRESS_SWITCH_EXPIRE (R238): the head of the parked task's frame is unstarted and no core of its die admits it; the
highest-indexed running sibling whose core would admit it once switched out is asked to go, by the rule for heads (R345). -/
def execProgressSwitchExpire (task : Nat) (s : State) : Out :=
  match s.strandedHead (.task task) with
  | none => .next s
  | some (spot, x) =>
    let sibs := s.tasks.filter fun e => e.2.parent == .task task && e.2.phase == .running && e.2.die == spot.die
      && ((x.lowest).getD 0).toNat < e.2.cidx.toNat
    let cands := (sibs.map fun e => e.2.core).eraseDups
    match (sibs.filter fun e => s.sparesHead spot.die cands e.2.core).foldl (fun b e =>
        match b with
        | none => some e.2
        | some y => if y.cidx.toNat < e.2.cidx.toNat then some e.2 else some y) none with
    | none => .next s
    | some y => .next (s.request spot.die y.core (.progress (.task task)))

/-- The cores that run a context. -/
def State.residentCores (s : State) (ctx : Nat) : List (Nat × Nat) :=
  ((s.tasks.filter fun e => e.2.ctx == ctx && e.2.phase == .running).map fun e => (e.2.die, e.2.core)).eraseDups

/-- CTXSW.SUSPEND (R346): every core running the context is requested, and no new task of it starts. -/
def execCtxswSuspend (ctx : Nat) (s : State) : Out :=
  if 4096 ≤ ctx then .next s
  else
    let s1 := s.putCtx ctx { (s.ctx ctx) with suspend := true }
    .next ((s1.residentCores ctx).foldl (fun s c => s.request c.1 c.2 .suspend) s1)

/-- CTXSW.RESUME (R346): the context's work is released, its images become resumptions, a request not yet carried out is
withdrawn. -/
def execCtxswResume (ctx : Nat) (s : State) : Out :=
  if 4096 ≤ ctx then .next s
  else
    let s1 := s.putCtx ctx { (s.ctx ctx) with suspend := false }
    let s2 := (List.range 8).foldl State.withdraw s1
    let waits := fun (e : Nat × Image) => e.2.ctx == ctx && e.2.ready && !((s2.die e.2.die).resumes.any fun r => r == Resumption.image e.1)
    .next ((s2.images.filter waits).foldl
      (fun s e => s.putDie e.2.die { (s.die e.2.die) with resumes := (s.die e.2.die).resumes ++ [.image e.1] }) s2)

/-- SUSPENDED (R346): no troupe of the context is resident; every join of it has recorded its progress, since a join's record is
written with each of its lines and steps (R255). -/
def State.suspended (s : State) (ctx : Nat) : Bool :=
  (s.ctx ctx).suspend && s.tasks.all fun e => !(e.2.ctx == ctx && e.2.phase == .running)

/-! ## The swap (R347 to R353) -/

/-- A party stands in a word that it has issued and that has not gone on: it stalls there (R349, log 48). -/
def Party.stalls (p : Party) : Bool := p.top.clause.isSome && p.top.tried

/-- A party at which a core in LIVE or BOTH mode may stop (R349): the waits at AWAIT and AWAITP are none of the rule's. -/
def Party.stopsLive (p : Party) : Bool :=
  p.ended || (!p.masked &&
    match p.hold with
    | .free => p.stalls
    | .yield | .await => false
    | _ => true)

/-- The parties of a core's troupes; those of a failed task have stopped for good (R212, R353). -/
def State.coreParties (s : State) (die core : Nat) : List Party :=
  ((s.residents die core).filter fun e => !e.2.failed).flatMap fun e => e.2.parties

/-- A core may be switched out (R331, R347, R349, R353): its die works, its shadow bank is not being spilled, the carve-out has room for its image
(R272), and its mode allows it. -/
def State.switchable (s : State) (die core : Nat) : Bool :=
  let c := s.core die core
  !(s.die die).failed && !c.requests.isEmpty && c.spill.isNone && !(s.residents die core).isEmpty && s.hiddenRoom (s.coreCtx die core) Config.coreImageBytes &&
    (if 2 ≤ c.mode then (s.coreParties die core).all Party.stopsLive
      else c.expired || (s.coreParties die core).all fun p => p.ended || !p.masked)

/-- The bank or scratch piece of a register or byte is covered by a liveness mask (R98). -/
def covers (m : Word) (unit i : Nat) : Bool := m.getLsbD (i / unit)

/-- A party restored from a LIVE or BOTH spill at a PPT: what no mask covers holds unspecified bits (R98, R348). -/
def Party.forget (p : Party) (d : Descriptor) (fresh : Nat) : Party :=
  match p.hold with
  | .ppt tv tu _ =>
    { p with
      v := (List.range d.vregs).foldl (fun m r => if covers tv 16 r then m else
        AMap.insert m r ((List.range 32).map fun l => Config.freeWord (freeIndex fresh (32 * r + l)))) p.v
      u := (List.range d.uregs).foldl (fun m r => if covers tu 16 r then m else
        Cells.set m r (Config.freeWord (freeIndex fresh (2 ^ 20 + r)))) p.u }
  | _ => p

/-- The troupe's live scratch: all of it unless every party of it is held at a PPT (R98, R348). -/
def Task.scratchMask (t : Task) : Word :=
  t.parties.foldl (fun m p => match p.hold with | .ppt _ _ tc => m ||| tc | _ => 0xFFFFFFFF#32) 0#32

/-- A restored task's scratch (R98, R348). -/
def Task.forgetScratch (t : Task) (fresh : Nat) : Cells 8 :=
  (List.range t.desc.scratch).foldl (fun m i => if covers t.scratchMask 8192 i then m else
    Cells.set m i (Config.freeByte (freeIndex fresh (2 ^ 24 + i)))) t.scratch

/-- The spill of a mode writes a piece that is live at a PPT, and dirty (R348). -/
def spills (mode : Nat) (live dirty : Bool) : Bool := (mode < 2 || live) && (mode % 2 = 0 || dirty)

/-- The banks of a party that a spill writes (R348): whether uniform, and the number. -/
def Party.spillBanks (mode : Nat) (d : Descriptor) (p : Party) : List (Bool × Nat) :=
  let mask := fun (uni : Bool) => match p.hold with | .ppt tv tu _ => if uni then tu else tv | _ => 0xFFFFFFFF#32
  let of := fun (uni : Bool) (n : Nat) => (List.range (n / 16)).filterMap fun b =>
    if spills mode ((mask uni).getLsbD b) ((if uni then p.udirty else p.vdirty).getLsbD b) then some (uni, b) else none
  of false d.vregs ++ of true d.uregs

/-- The scratch lines of a troupe that a spill writes (R348). -/
def Task.spillLines (mode : Nat) (t : Task) : List Nat :=
  (List.range (t.desc.scratch / 64)).filter fun l => spills mode (covers t.scratchMask 128 l) (mem? l t.scratchDirty)

/-- A party back on a core issues the word at which it stopped (R350), which has yet to stall again (R349): a wait for a page is met afresh
(R284). -/
def Party.restored (p : Party) : Party :=
  { (p.modTop fun e => { e with tried := false }) with
    vdirty := 0, udirty := 0
    hold := match p.hold with | .ppt .. | .walk _ | .fault _ | .yield => .free | h => h }

/-- The Press holds operations of a task (R317). -/
def State.pressBusy (s : State) (die tid : Nat) : Bool := (s.die die).pressQueues.any fun q => q.task == tid

/-- A task restored on a core (R348, R352); `saved` says that its tiles have been saved and freed meanwhile (R354). -/
def Task.restored (t : Task) (core mode fresh : Nat) (saved : Bool) : Task :=
  let parties := if 2 ≤ mode then
      (List.range t.parties.length).filterMap fun i => t.parties[i]?.map fun p => p.forget t.desc (fresh * 64 + i)
    else t.parties
  { t with
    phase := .running, core := core, cont := 0, scratchDirty := [], tilesSaved := t.tilesSaved || (saved && !t.tiles.isEmpty)
    scratch := if 2 ≤ mode then t.forgetScratch (fresh * 64 + 63) else t.scratch
    parties := parties.map Party.restored }

/-- An image comes back whole onto a core (R347, R352): a resumption edge for every troupe of it. -/
def State.restoreImage (s : State) (die core id : Nat) : State :=
  match AMap.get? s.images id with
  | none => s
  | some i =>
    let s1 := { s with images := AMap.erase s.images id }
    let s2 := (s1.putDie die { (s1.die die) with resumes := (s1.die die).resumes.filter fun r => r != Resumption.image id }).flash die core
    let s3 := { s2 with cores := s2.cores.map fun e => (e.1, if e.2.fill = some id then { e.2 with fill := none } else e.2) }
    i.tasks.foldl (fun s t =>
      (s.modTask t fun x => (x.share (List.range x.parties.length)).restored core i.mode s.fresh (!s.pressBusy die t)).writeImage t 1) s3

/-- Tasks among which a parked frame's head stands, with a higher-indexed sibling of it among others: the first do not give way to the
others (R238). -/
def State.headAbove (s : State) (l : List (Nat × Task)) (others : List Nat) : Bool :=
  l.any fun e => s.parentParked e.2.parent && s.headOf e.2.parent == some e.2.cidx && others.any fun t =>
    ((s.task? t).map fun x => x.parent == e.2.parent && decide (e.2.cidx.toNat < x.cidx.toNat)).getD false

/-- What a core's residents may give way to in their place: an image that can still be restored, of a context that is not suspended, and
no higher-indexed sibling of a head among them (R238, R346, R347). -/
def State.givesWay (s : State) (die core id : Nat) : Bool :=
  match AMap.get? s.images id with
  | none => false
  | some i => s.canRestore die core id && !(s.ctx i.ctx).suspend && !s.headAbove (s.residents die core) i.tasks

/-- CORE_SWAP (R347): the core's tasks leave it whole; their frames read STATUS 5; what the core holds goes home. What its shadow
bank was filled with runs in their place. -/
def execCoreSwap (die core : Nat) (s : State) : Out :=
  let s0 := s.withdraw die
  if !s0.switchable die core then .next s0
  else
    let l := s0.residents die core
    let c := s0.core die core
    let img : Image :=
      { ctx := s0.coreCtx die core, die := die, core := core, tasks := l.map (·.1), mode := c.mode, ready := false, banks := [], lines := [] }
    let s1 := (s0.writeBack die core fun _ => true).drain die core fun _ => true
    let id := s1.nextId
    let s2 := { s1 with nextId := id + 1, images := AMap.insert s1.images id img }
    let s3 := s2.putCore die core { (s2.core die core) with requests := [], expired := false, spill := some id, fill := none }
    let s4 := l.foldl (fun s e =>
      (s.modTask e.1 fun t => { t with phase := .out id, cont := contValue s.fresh }).writeImage e.1 5) s3
    .next (match c.fill with | some k => if s0.givesWay die core k then s4.restoreImage die core k else s4 | none => s4)

/-- What the spill of an image writes (R348). -/
def State.spillOf (s : State) (i : Image) : Image :=
  let ts := i.tasks.filterMap fun k => (s.task? k).map fun t => (k, t)
  { i with
    ready := true
    banks := ts.flatMap fun e => (List.range e.2.parties.length).flatMap fun j =>
      ((e.2.parties[j]?.map fun p => p.spillBanks i.mode e.2.desc).getD []).map fun b => (e.1, j, b.1, b.2)
    lines := ts.flatMap fun e => (e.2.spillLines i.mode).map fun l => (e.1, l) }

/-- PORTER_SPILL_COMPLETE (R347): the image is in memory; unless its context is suspended it waits as a resumption. -/
def execPorterSpillComplete (die core : Nat) (s : State) : Out :=
  match (s.core die core).spill with
  | none => .next s
  | some id =>
    if (s.die die).failed then .next s else
    let s1 := s.putCore die core { (s.core die core) with spill := none }
    match AMap.get? s1.images id with
    | none => .next s1
    | some i =>
      let s2 := { s1 with images := AMap.insert s1.images id (s1.spillOf i) }
      .next (if (s2.ctx i.ctx).suspend then s2
        else s2.putDie die { (s2.die die) with resumes := (s2.die die).resumes ++ [.image id] })

/-- A core rid of its residents could take a resumption (R222, R224, R236). -/
def State.takesEmpty (s : State) (die core : Nat) (r : Resumption) : Bool :=
  match r with
  | .image id => s.givesWay die core id
  | .troupe t =>
    match s.task? t with
    | none => false
    | some x =>
      x.phase == .resuming && !x.imageWait && !(s.ctx x.ctx).suspend && admits [] x.desc 0 &&
        (!s.bound t x || clusterOf x.core == clusterOf core) && !s.headAbove (s.residents die core) [t]

/-- The Porter fills the shadow bank of a core that is to be switched out with the image that would be its next resumption, unless another
core's shadow bank holds it (R236, R347). -/
def State.fillShadow (s : State) (die core id : Nat) : State :=
  let c := s.core die core
  let best := s.bestResume ((s.die die).resumes.filter (s.takesEmpty die core))
  if !(s.die die).failed && !c.requests.isEmpty && best == some (.image id) && !(s.cores.any fun e => e.2.fill == some id) then
    s.putCore die core { c with fill := some id }
  else s

/-- IMAGE_RESTORE (R352): an empty core takes the image that is its next resumption. -/
def execImageRestore (die core : Nat) (s : State) : Out :=
  match s.pickResume die core with
  | some (.image id) => .next ((s.restoreImage die core id).withdraw die)
  | _ => .next s

/-- TASK_START: a core takes an admissible task, which gets a frame and an alias slot (R102, R236, R237). -/
def execTaskStart (die core : Nat) (s0 : State) : Out :=
  let s := s0.withdraw die
  if (s.pickResume die core).isSome then .next s else
  match s.pickWork die core with
  | none => .next s
  | some (spot, x) =>
    match x.kids.next, s.freeFrame x.ctx, s.freeSlot x.ctx with
    | some (idx, arg, rest), some frame, some slot =>
      let t := x.task (cidxOf x.party x.seq idx) arg frame slot die core (freestQuad (s.residents die core))
      let s1 := s.putSpot spot (if rest.next.isSome then some { x with kids := rest, told := false } else none)
      let s2 := ({ s1 with nextId := s1.nextId + 1 }.putTask s1.nextId t).flash die core
      .next ((s2.writeImage s1.nextId 1).withdraw die)
    | _, _, _ => .next s

/-- DEFERRAL_EXPIRE (R353): 16,384 clocks after a request that a masked handler deferred, the core stops inside it. -/
def execDeferralExpire (die core : Nat) (s : State) : Out :=
  let c := s.core die core
  let ctx := s.coreCtx die core
  if !c.requests.isEmpty && !c.expired && c.mode < 2 && (s.coreParties die core).any (fun p => !p.ended && p.masked) then
    .next ((s.putCore die core { c with expired := true }).postEvent die 0x0E 0 (payloadOf [(16, 2, ctx), (18, 2, core)]))
  else .next s

/-! ## Replicas (R267) -/

/-- A held task goes on (R267): its resumption is queued, or where it has not been able to park, its AWAIT is passed. -/
def State.releaseHold (s : State) (tid : Nat) (t : Task) : State :=
  if t.phase = .running then (s.putTask tid { t with held := false }).releaseAwait tid 16 else s.queueResume tid t

/-- REPLCTL.RELEASE (R267): HELD and MISMATCH clear, and the held tasks resume. -/
def execReplctlRelease (ctx : Nat) (s : State) : Out :=
  if 4096 ≤ ctx then .next s else
  let s1 := s.putCtx ctx { (s.ctx ctx) with held := false, mismatch := false }
  .next ((s1.tasks.filter fun e => e.2.ctx == ctx && e.2.held).foldl (fun s e => s.releaseHold e.1 e.2) s1)

/-- A write of 1 to REPLCTL.MISMATCH clears it (R267). -/
def execReplctlMismatchClear (ctx : Nat) (s : State) : Out :=
  .next (if 4096 ≤ ctx then s else s.putCtx ctx { (s.ctx ctx) with mismatch := false })

/-- A partner's digest arrives and is compared once both are there (R267). -/
def execPartnerDigestArrival (ctx k : Nat) (digest : BitVec 64) (s : State) : Out :=
  let c := s.ctx ctx
  if !c.enable then .next s
  else .next ((s.putCtx ctx { c with partnerDigests := AMap.insert c.partnerDigests k digest }).compareDigests ctx k)

/-- No partner digest has come 1 ms after the local one: a TYPE 0x06 event, once, and nothing is held (R267). -/
def execPartnerSilentExpire (ctx k : Nat) (s : State) : Out :=
  let c := s.ctx ctx
  if (AMap.get? c.localDigests k).isSome && (AMap.get? c.partnerDigests k).isNone && !mem? k c.silent then
    .next ((s.putCtx ctx { c with silent := c.silent ++ [k] }).postEvent 0 0x06 0 (payloadOf [(16, 8, k), (24, 2, ctx)]))
  else .next s

end Sys2Proof.Machine
end

