-- ==== Sys2Proof/Machine/Outside.lean ====
section
/-! DEFINITION. What agents that belong to no task do at homes: the host's writes (R263, R285), peers' accesses (R363, R365), and the
atomic steps that arrive there (R172, R173); with the writes held until a publication (R258). -/

namespace Sys2Proof.Machine

/-- A run of bytes cut into the pieces that lie in one line each; `fuel` bounds the pieces. -/
def piecesOf : Nat → Nat → List Byte → List (Nat × List Byte)
  | 0, _, _ => []
  | n + 1, a, bs =>
    match bs with
    | [] => []
    | _ => (a, bs.take (64 - a % 64)) :: piecesOf n (a + (64 - a % 64)) (bs.drop (64 - a % 64))

/-- The pieces of a run of bytes, line by line. -/
def linePieces (a : Nat) (bs : List Byte) : List (Nat × List Byte) := piecesOf (bs.length / 64 + 2) a bs

/-- A write of the host to a line at its home, at the visible frame (R263, R278, R285). -/
def State.hostHome (s : State) (a : Nat) (bs : List Byte) : State := s.writeWhole (s.visible a) bs

/-- An atomic step at a home: the old values by lane, and the machine after it (R172, R173). -/
def State.atomHome (s : State) (fpa op : Nat) (lanes : List (Nat × List DWord)) : List (Nat × DWord) × State :=
  let n := atomSize op
  let r := atomStep op (s.mem.readNat fpa n) (lanes.map (·.2))
  (((lanes.map (·.1)).zip r.1).map fun x => (x.1, BitVec.ofNat 64 x.2), s.writeHome fpa (leBytes n r.2))

/-! ## Flits of this package at their homes (R363) -/

/-- A flit performed at its home, once, on its arrival (R366). -/
def State.performOne (s : State) (id : Nat) (f : Flit) : State :=
  let done := fun (s : State) (olds : List (Nat × DWord)) =>
    { s with flits := AMap.insert s.flits id { f with performed := true, olds := olds } }
  match f.work with
  | .line xs => done (xs.foldl State.settleStore s) []
  | .atom op lanes _ =>
    let n := atomSize op
    let r := atomStep op (s.mem.readNat f.fpa n) (lanes.map (·.2))
    done (s.writeAs f.write f.after (ByteMap.putBytes [] f.fpa (leBytes n r.2)))
      (((lanes.map (·.1)).zip r.1).map fun x => (x.1, BitVec.ofNat 64 x.2))

/-- Accesses to the same line that left this package earlier and are not performed yet. -/
def State.earlier (s : State) (id : Nat) (f : Flit) : List (Nat × Flit) :=
  s.flits.filter fun e => e.1 < id && !e.2.performed && !e.2.failed && lineOf e.2.fpa == lineOf f.fpa

/-- The flit is an atomic step. -/
def Flit.isAtom (f : Flit) : Bool :=
  match f.work with
  | .atom .. => true
  | .line _ => false

/-- The bytes of a store that others write too, or those that they do not. -/
def Store.among (x : Store) (m : AMap Byte) (is : Bool) : Store :=
  { x with bytes := x.bytes.filter fun e => (AMap.get? m e.1).isSome == is }

/-- What a flit that left earlier writes under the bytes of a later one, before them: a party's stores to one byte keep their order (R163). -/
def State.performUnder (s : State) (id : Nat) (f : Flit) (m : AMap Byte) : State :=
  match f.work with
  | .line xs =>
    let s1 := ((xs.map (·.among m true)).filter fun x => !x.bytes.isEmpty).foldl State.settleStore s
    { s1 with flits := AMap.insert s1.flits id { f with work := .line ((xs.map (·.among m false)).filter fun x => !x.bytes.isEmpty) } }
  | .atom .. => s

/-- A flit performed at its home. The accesses of this package to one line keep the order in which they left, as far as that can be seen:
around an atomic step they are performed in it, and of stores the later bytes stay (R163, R173, R256). -/
def State.performFlit (s : State) (id : Nat) (f : Flit) : State :=
  if f.performed || f.failed then s
  else
    let l := s.earlier id f
    match f.work with
    | .line xs =>
      if l.any fun e => e.2.isAtom then (l.foldl (fun s e => s.performOne e.1 e.2) s).performOne id f
      else (l.foldl (fun s e => s.performUnder e.1 e.2 (storesBytes xs)) s).performOne id f
    | .atom .. => (l.foldl (fun s e => s.performOne e.1 e.2) s).performOne id f

/-- The ATOM steps on their way to a node are performed, before a write to its control page can make their frames multicast ones (R364, R368,
log 62). -/
def State.landSteps (s : State) (node : Nat) : State :=
  (s.flits.filter fun e => e.2.sure && fpaClass e.2.fpa == 2 && fpaNode e.2.fpa == node).foldl
    (fun s e => match AMap.get? s.flits e.1 with | some f => s.performFlit e.1 f | none => s) s

/-! ## Writes from outside -/

/-- The address of a peer's access. -/
def peerAddr : PeerAccess → Nat
  | .load a _ | .store a _ _ | .atom a _ _ => a

/-- What a peer's access is answered with (R365). -/
def State.answer (s : State) (x : PeerAnswer) : State := { s with answers := s.answers ++ [x] }

/-- The lines of a run of bytes at homes read as poisoned or fail their check (R287). -/
def State.rangeBad (s : State) (a n : Nat) : Bool :=
  (List.range ((a % 64 + n + 63) / 64)).any fun i => s.isPoisoned (lineOf a + i) || mem? (lineOf a + i) s.badCheck

/-- A peer's access of one line at its home (R365): a load and an atomic step are answered. Whether a whole line that a peer stores is one
access of an engine, which leaves it freshly checked, the request does not say: a free value does (R287, log 33). -/
def State.peerHome (s : State) (fpa : Nat) (acc : PeerAccess) : State :=
  let a := s.visible fpa
  match acc with
  | .load _ n => s.answer { fpa := fpa, bytes := s.mem.readBytes a n, poisoned := s.rangeBad a n }
  | .store _ data poison =>
    let s1 := (if Config.freeBit (freeIndex s.fresh (2 ^ 60 + fpa)) then s.writeWhole a data else s.writeHome a data).noteFrame a
    if poison then s1.poisonLine (lineOf a) else s1
  | .atom _ op operands =>
    if op ≤ 13 ∧ fpa % atomSize op = 0 then
      let r := s.atomHome a op [(0, operands)]
      (r.2.noteFrame a).answer
        { fpa := fpa, bytes := leBytes (atomSize op) ((r.1.map fun x => x.2.toNat).headD 0), poisoned := s.rangeBad a (atomSize op) }
    else s

/-- A held write performed (R258). -/
def HeldWrite.perform (h : HeldWrite) (s : State) : State :=
  match h with
  | .host a data => s.hostHome a data
  | .peer a acc => s.peerHome a acc

/-- Where a held write goes. -/
def HeldWrite.fpa : HeldWrite → Nat
  | .host a _ | .peer a _ => a

/-- A write from outside the package's tasks: held while an operation holds a pending twin of its page (R258). -/
def State.putOutside (s : State) (h : HeldWrite) : State :=
  if s.twinPending h.fpa then { s with heldWrites := s.heldWrites ++ [h] }
  else h.perform (if inControlPage h.fpa then s.landSteps (fpaNode h.fpa) else s)

/-- The held writes whose pages have no pending twin any more are performed, in the order in which they came (R258). -/
def State.releaseHeld (s : State) : State :=
  (s.heldWrites.filter fun h => !s.twinPending h.fpa).foldl (fun s h => h.perform s)
    { s with heldWrites := s.heldWrites.filter fun h => s.twinPending h.fpa }

/-- Bytes that the host writes (R263). -/
def State.hostBytes (s : State) (a : Nat) (bs : List Byte) : State :=
  (linePieces a bs).foldl (fun s x => s.putOutside (.host x.1 x.2)) s

/-- A peer's access, line by line (R365); a load finds the visible frame of a page whose twin is still pending (R258). -/
def State.performPeer (s : State) (fpa : Nat) (acc : PeerAccess) : State :=
  match acc with
  | .load _ _ => s.peerHome fpa acc
  | .store _ data poison => (linePieces fpa data).foldl (fun s x => s.putOutside (.peer x.1 (.store x.1 x.2 poison))) s
  | .atom _ _ _ => s.putOutside (.peer fpa acc)

end Sys2Proof.Machine
end

