-- ==== Sys2Proof/Machine/Engines.lean ====
section
/-! DEFINITION. Engine operations in common (R107, R257, R258, R364): their issue, what they read and write, how they wait,
fail and end; and the copies, multicasts and combinings that run on them (R175 to R177, R182 to R184, R368 to R371), with
the Vat's own rounds (R329). -/

namespace Sys2Proof.Machine

/-! ## What an operation reads and writes -/

/-- How an operation goes on: further, not yet, after a page that does not translate, or to its end with an error code and
an address (R344). -/
inductive Going where
  | go
  | wait
  | miss (va access : Nat)
  | err (code addr : Nat)
  deriving DecidableEq, Repr

/-- An address as an operation sees it. -/
inductive EngLook where
  | scratch (task off : Nat)
  | mem (va fpa : Nat) (leaf : Leaf)
  | stop (g : Going)
  deriving DecidableEq, Repr

/-- Another operation has an unpublished twin of the page (R258). -/
def State.twinOther (s : State) (id : Nat) (l : Leaf) : Bool :=
  l.shadow && s.ops.any fun e => e.1 != id && e.2.twins.any fun w => w.1 ≤ l.frame && l.frame < w.1 + 2 * w.2.1

/-- Translation for an operation (R280): by what walks have brought it on its die, and for a party's by the TLBs of the issuing core and
its cluster; else a page to wait for. -/
def State.lookOp (s : State) (o : Op) (va : Nat) : Look :=
  let mine := ((o.walked.filter fun e => e.1 == o.die && e.2.covers o.ctx va).map (·.2.leaf))
  let held := match o.source with | .party _ => mine ++ s.tlbHeld o.die o.core o.ctx va | _ => mine
  if !bit (s.ctx o.ctx).ctxpt.toNat 0 then .bad .noCtx else s.lookHeld held o.die o.ctx va

/-- Translation by an operation that no R, W or X bit stops: a round's, a launch's. -/
def State.opAgent (s : State) (o : Op) (a : Nat) : Look := s.checkAgent o.ctx a (s.lookOp o)

/-- An access of an operation can have no effect at its home (R361, R364, R368); a read of a multicast frame can. -/
def State.engineLost (s : State) (o : Op) (a : Access) (va fpa : Nat) : Bool :=
  isRemote fpa && (!s.reachable o.die fpa || (a != .read && s.isMcast fpa) || s.hopLost fpa va)

/-- Translation and the checks of an engine (R257, R279, R280, R364). -/
def State.engineLook (s : State) (id : Nat) (o : Op) (a : Access) (va : Nat) : EngLook :=
  match s.placeShared o.ctx va with
  | .error _ => .stop (.err 2 va)
  | .ok (.scratch t k) => .scratch t k
  | .ok (.va va) =>
    match s.lookOp o va with
    | .bad _ => .stop (.err 2 va)
    | .miss _ _ => .stop (.miss va a.code)
    | .hit l fpa =>
      match s.permit l fpa a with
      | .error _ => .stop (.err 2 va)
      | .ok _ =>
        if l.contrib then .stop (.err 2 va)
        else if s.mute fpa then .stop .wait
        else if s.engineLost o a va fpa then .stop (.err 1 va)
        else if a != .read && s.twinOther id l then .stop .wait
        else .mem va fpa l

/-- The address lies on a DEVICE or STRONG page. -/
def EngLook.device (x : EngLook) : Bool :=
  match x with
  | .mem _ _ l => !l.soft
  | _ => false

/-- A byte of a home as an operation reads it: a write that it does not come after races with it, and a free value says which it sees
(R176, R192, R246): for an aligned word together where one access wrote the word, else for each byte on its own. -/
def State.opByte (s : State) (o : Op) (a : Nat) : Byte :=
  let w0 := a / 4 * 4
  let ws := s.past.filter fun w => w.old.any fun e => w0 ≤ e.1 && e.1 < w0 + 4
  let whole := fun (w : PastWrite) => (List.range 4).all fun i => (AMap.get? w.old (w0 + i)).isSome
  s.racyByte ws (fun w => o.seen.has w || decide (w.upto ≤ s.homeFloor (lineOf a)))
    (fun i w => Config.freeNat (freeIndex s.fresh (2 ^ 61 + 2 * w0 + if whole w then 0 else a - w0 + 1)) % (ws.length + 1) ≤ i) a

/-- A byte as the operation reads it: the issuer's own where it had one (R257), else the home's, of a shadow, DEVICE or STRONG page as it
stands (R167, R278). -/
def State.engineByte (s : State) (o : Op) (x : EngLook) (i : Nat) : Byte :=
  match x with
  | .scratch t k => ((s.task? t).map fun y => Cells.get y.scratch (k + i)).getD 0
  | .mem va fpa l =>
    match if l.soft then AMap.get? o.own (l.byteOf va + i) else none with
    | some b => b
    | none => if l.shadow || !l.soft then s.mem.read (fpa + i) else s.opByte o (fpa + i)
  | .stop _ => 0

/-- The line of an address reads as poisoned or fails its check (R287). -/
def State.engineBad (s : State) (x : EngLook) : Bool :=
  match x with
  | .mem _ fpa _ => s.isPoisoned (lineOf fpa) || mem? (lineOf fpa) s.badCheck
  | .scratch t k => ((s.task? t).bind fun y => y.scratchFault k).isSome
  | .stop _ => false

/-- Memory with `n` bytes at `src` copied to `dst`. -/
def Memory.copyRange (m : Memory) (src dst n : Nat) : Memory :=
  (m.filter fun e => src ≤ e.1 && e.1 < src + n).foldl (fun m e => m.write (e.1 - src + dst) e.2)
    (m.filter fun e => !(dst ≤ e.1 && e.1 < dst + n))

/-- Line marks of one range made those of another. -/
def copyMarks (l : List Nat) (src dst n : Nat) : List Nat :=
  (l.filter fun x => !(dst ≤ x && x < dst + n)) ++ (l.filter fun x => src ≤ x && x < src + n).map fun x => x - src + dst

/-- A frame's contents, marks included, copied to its twin (R258). -/
def State.copyFrame (s : State) (src dst n : Nat) : State :=
  { s with
    mem := s.mem.copyRange src dst n
    poison := copyMarks s.poison (src / 64) (dst / 64) (n / 64)
    badCheck := copyMarks s.badCheck (src / 64) (dst / 64) (n / 64) }

/-- Adds a pair once. -/
def addPair (l : List (Nat × Nat)) (x : Nat × Nat) : List (Nat × Nat) := if l.any fun y => y == x then l else l ++ [x]

/-- Where an operation's write to a page goes: the page, or its twin, begun as a copy at the first write (R258, R278). -/
def State.engineTarget (s : State) (o : Op) (fpa : Nat) (l : Leaf) : State × Op × Nat :=
  if !l.shadow then (s, o, fpa)
  else
    let here := s.visible l.frame
    let a := swapFrames l.frame l.size fpa
    if o.twins.any fun w => w.1 == l.frame then (s, o, a)
    else (s.copyFrame here (swapFrames l.frame l.size here) l.size, { o with twins := o.twins ++ [(l.frame, l.size, fpaDie l.frame)] }, a)

/-- What an operation's write comes after: for copies and fills, which no rule orders among themselves, what their issue does (R33, R176,
R246); all that has come home, for what follows in a queue, a slot or a ring. -/
def State.opAfter (s : State) (o : Op) : Seen :=
  match o.kind with
  | .acp .. | .qcopy .. | .qfill .. => o.seen
  | _ => s.allSeen

/-- The operation after a write of a line at its home (R245, R264). -/
def Op.wrote (o : Op) (s0 s : State) (fpa : Nat) : Op :=
  { o with wset := addRange (lineOf fpa) (lineOf fpa + 1) o.wset, seen := o.seen.add s0.writes s.writes }

/-- Bytes of one line written by an operation, as poison or not (R177, R257, R285, R334); the line enters its summary (R264), and the
digest's lines, those of a twin once it is published (R258, R266). -/
def State.engineWrite (s : State) (o : Op) (x : EngLook) (bs : List Byte) (poison : Bool) : State × Op :=
  match x with
  | .stop _ => (s, o)
  | .scratch t k => (s.writeScratch t k bs true poison, o)
  | .mem va fpa l =>
    let r := s.engineTarget o fpa l
    if r.1.homeFailed r.2.2 then (r.1.postPoison o.die va 4 o.ctx, r.2.1)
    else
      let s1 := (r.1.writeWhole r.2.2 bs).orderedBy r.1 (s.opAfter o)
      let o1 := r.2.1.wrote r.1 s1 r.2.2
      let s2 := if poison then s1.poisonLine (lineOf r.2.2) else s1
      if l.shadow then (s2, { o1 with noted := addPair o1.noted (va, r.2.2) })
      else (if l.soft then s2.noteLine o.ctx va r.2.2 else s2, o1)

/-- Bytes read for an operation, piece by piece within lines, with the addresses of the pieces whose line is bad; `fuel`
bounds the pieces. -/
def State.gather (s : State) (id : Nat) (o : Op) : Nat → Nat → Nat → List Byte × List Nat × Going
  | 0, _, _ => ([], [], .go)
  | f + 1, va, n =>
    if n = 0 then ([], [], .go)
    else
      let k := min n (64 - va % 64)
      match s.engineLook id o .read va with
      | .stop g => ([], [], g)
      | x =>
        let r := s.gather id o f ((va + k) % 2 ^ 64) (n - k)
        ((List.range k).map (s.engineByte o x) ++ r.1, (if s.engineBad x then [va] else []) ++ r.2.1, r.2.2)

/-- `n` bytes at an address. -/
def State.gatherAt (s : State) (id : Nat) (o : Op) (va n : Nat) : List Byte × List Nat × Going :=
  s.gather id o (n / 64 + 2) va n

/-- Whether every line of a range can be written. -/
def State.scatterLook (s : State) (id : Nat) (o : Op) : Nat → Nat → Nat → Going
  | 0, _, _ => .go
  | f + 1, va, n =>
    if n = 0 then .go
    else
      let k := min n (64 - va % 64)
      match s.engineLook id o .write va with
      | .stop g => g
      | _ => s.scatterLook id o f ((va + k) % 2 ^ 64) (n - k)

/-- Bytes written piece by piece within lines; `bad` says by offset which are written as poison. -/
def State.scatter (s : State) (id : Nat) (o : Op) (bad : Nat → Bool) : Nat → Nat → Nat → List Byte → State × Op
  | 0, _, _, _ => (s, o)
  | f + 1, va, off, bs =>
    match bs with
    | [] => (s, o)
    | _ =>
      let k := min bs.length (64 - va % 64)
      let r := s.engineWrite o (s.engineLook id o .write va) (bs.take k) ((List.range k).any fun i => bad (off + i))
      r.1.scatter id r.2 bad f ((va + k) % 2 ^ 64) (off + k) (bs.drop k)

/-- Bytes written at an address once every line of them can be. -/
def State.scatterAt (s : State) (id : Nat) (o : Op) (va : Nat) (bs : List Byte) (bad : Nat → Bool) : State × Op × Going :=
  match s.scatterLook id o (bs.length / 64 + 2) va bs.length with
  | .go =>
    let r := s.scatter id o bad (bs.length / 64 + 2) va 0 bs
    (r.1, r.2, .go)
  | g => (s, o, g)

/-- Poison events for the bad lines of a read (R287, exit 3). -/
def State.reportBad (s : State) (o : Op) (vas : List Nat) : State :=
  (vas.map fun a => a / 64 * 64).eraseDups.foldl (fun s a => s.postPoison o.die a 3 o.ctx) s

/-! ## Issue, waits and ends -/

/-- The machine with an operation stored. -/
def State.putOp (s : State) (id : Nat) (o : Op) : State := { s with ops := AMap.insert s.ops id o }

/-- A batch with an operation added. -/
def Batch.add (b : Batch) (id : Nat) : Batch := { b with ops := b.ops ++ [id], used := true }

/-- The party with an operation in its open batch (R107). -/
def Party.addOp (p : Party) (id : Nat) : Party := { p with openBatch := p.openBatch.add id }

/-- The machine with a function of an operation applied, if it is still in progress. -/
def State.withOp (s : State) (id : Nat) (f : State → Op → State) : State :=
  match AMap.get? s.ops id with
  | some o => f s o
  | none => s

/-- A new operation of a task, after `seen`: what its core holds goes home first (R245, R257). `own` is what it reads of the issuer's own
bytes. -/
def State.newOp (s : State) (tid : Nat) (t : Task) (own : AMap Byte) (seen : Seen) (kind : OpKind) : Nat × State :=
  let s1 := s.source tid t
  let o := { Op.start kind (.party tid) t.ctx t.die t.core t.frame seen with own := own }
  (s1.nextId, { s1 with nextId := s1.nextId + 1 }.putOp s1.nextId o)

/-- What a task's operation reads of its own bytes from its issue on (R257): a DET task's store set. -/
def Task.opOwn (t : Task) : AMap Byte := if t.det then t.ownBytes else []

/-- An engine instruction that has passed its checks: its operation joins the party's open batch (R107). -/
def State.issueOp (s : State) (c : Exec) (kind : OpKind) : State :=
  let r := s.newOp c.tid c.task c.task.opOwn c.party.seen kind
  (r.2.modParty c.tid c.pi (·.addOp r.1)).retire c 1

/-- A batch without an operation that has ended, with what that one carries (R245). -/
def Batch.endOp (b : Batch) (id : Nat) (err : Bool) (seen : Seen) : Batch :=
  if mem? id b.ops then { b with ops := b.ops.filter (· != id), err := b.err || err, seen := b.seen.join seen } else b

/-- The party's batches without an operation: a closed batch left empty completes, and ERR is set if it met an error (R108, R109); an
error in the open batch sets ERR at once (R183, R359, log 79). -/
def Party.endOp (p : Party) (id : Nat) (err : Bool) (seen : Seen) : Party :=
  let closed := p.closed.map (·.endOp id err seen)
  { p with
    openBatch := p.openBatch.endOp id err seen
    closed := closed.filter fun b => !b.ops.isEmpty
    finished := p.finished ++ (closed.filter fun b => b.ops.isEmpty).map fun b => (b.no, b.seen)
    batchErr := p.batchErr || (err && mem? id p.openBatch.ops) || closed.any fun b => b.ops.isEmpty && b.err }

/-- An operation ends (R107, R257); the lines it has written, and what it carries, enter its task's completion (R245, R264). -/
def State.endOp (s : State) (id : Nat) (o : Op) (err : Bool) : State :=
  let s1 := { s with ops := AMap.erase s.ops id }
  match o.source with
  | .party t =>
    s1.modTask t fun x => { x with
      parties := x.parties.map (·.endOp id err o.seen), wset := unionRanges x.wset o.wset, opSeen := x.opSeen.join o.seen }
  | _ => s1

/-- A store held for a publication goes to the frame that is visible after it (R258). -/
def Store.flipped (x : Store) (f size : Nat) : Store := { x with bytes := x.bytes.map fun e => (swapFrames f size e.1, e.2) }
def SatchelLine.flipped (l : SatchelLine) (f size : Nat) : SatchelLine :=
  { l with line := lineOf (swapFrames f size (l.line * 64)), stores := l.stores.map (·.flipped f size) }

/-- The publish step: the twins of every page an operation wrote become visible together (R258, R278), their lines are the digest's (R266),
and the writes held for them are performed. -/
def State.publish (s : State) (id : Nat) (o : Op) : State :=
  let flip := fun (s : State) (w : Nat × Nat × Nat) =>
    let d := s.die w.2.2
    let x := (w.1, w.2.1)
    let s1 : State := { s with cores := s.cores.map fun e => (e.1, { e.2 with satchel := e.2.satchel.map (·.flipped w.1 w.2.1) }) }
    s1.putDie w.2.2 { d with sel := if d.sel.any fun y => y == x then d.sel.filter fun y => y != x else x :: d.sel }
  if o.twins.isEmpty then s
  else
    let s1 := o.noted.foldl (fun s x => s.noteLine o.ctx x.1 x.2) (o.twins.foldl flip s)
    { s1 with ops := AMap.modify s1.ops id fun x => { x with twins := [], noted := [] } }.releaseHeld

/-- An operation that ends with an error posts a record (R177, R344); what it wrote stays. -/
def State.failOp (s : State) (id : Nat) (o : Op) (code addr : Nat) : State :=
  ((s.publish id o).postEngineError o.die (s.agentOf (.op id)) code o.ctx addr o.frame).endOp id o true

/-- An operation waits for a page's walk, stalling where the walker has no room (R280). -/
def State.missOp (s : State) (id : Nat) (o : Op) (va access : Nat) : State :=
  (s.putOp id { o with waiting := addNew o.waiting va }).agentWalk o.die o.ctx va access (.op id)

/-- What becomes of an operation after a piece of its work. -/
def State.settleOp (s : State) (id : Nat) (o : Op) (g : Going) (fin : State → Op → State)
    (fail : State → Op → Nat → Nat → State) : State :=
  match g with
  | .go => fin s o
  | .wait => s.putOp id o
  | .miss va access => s.missOp id o va access
  | .err code addr => fail s o code addr

/-- A write that an agent comes after has not come to its home (R245). -/
def State.pendingSeen (s : State) (x : Seen) : Bool :=
  let known := fun (l : List Store) => l.any fun y => inRanges x.ids y.id
  (s.flits.any fun f => !f.2.performed && !f.2.failed && f.2.writes.any (inRanges x.ids)) ||
    s.cores.any fun c => known c.2.stores || c.2.satchel.any fun l => known l.stores

/-- An operation may act: no page is awaited, what it comes after is at its home, and its die works (R257, R331). -/
def State.opFree (s : State) (o : Op) : Bool := o.waiting.isEmpty && !s.pendingSeen o.seen && !(s.die o.die).failed

/-- A counter's 64-bit add by an operation at the counter's home (R31, R176). -/
def State.engineBump (s : State) (id : Nat) (o : Op) (ctr add : Nat) : State × Op × Going :=
  if ctr = 0 then (s, o, .go)
  else
    match s.engineLook id o .atomic ctr with
    | .stop g => (s, o, g)
    | .scratch t k =>
      let v := natOfBytes ((List.range 8).map (s.engineByte o (.scratch t k)))
      (s.writeScratch t k (leBytes 8 ((v + add) % 2 ^ 64)) false false, o, .go)
    | .mem va fpa _ =>
      if s.homeFailed fpa then (s.postPoison o.die va 4 o.ctx, o, .go)
      else ((s.bump fpa add).noteLine o.ctx va fpa, o.wrote s (s.bump fpa add) fpa, .go)

/-- The twins of an operation published, then a counter bumped (R258). -/
def State.publishBump (s : State) (id : Nat) (o : Op) (ctr add : Nat) : State × Op × Going :=
  let o1 := { o with twins := [], noted := [] }
  ((s.publish id o).putOp id o1).engineBump id o1 ctr add

/-- An operation whose data is written: the twins are published, then the counter is bumped, then it ends (R258). -/
def State.bumpAndEnd (s : State) (id : Nat) (o : Op) (ctr add : Nat) : State :=
  let r := s.publishBump id o ctr add
  r.1.settleOp id r.2.1 r.2.2 (fun s o => s.endOp id o o.poisoned) (fun s o code addr => s.failOp id o code addr)

/-- The bytes of an operation's row-by-row extent that its progress has reached: row and byte within the row. -/
def rowOf (bytes k : Nat) : Nat × Nat := (k / bytes, k % bytes)

/-- A source line of a DEVICE or STRONG page as a copy reads it, once, and whether it is bad (R176, R177). -/
def State.copyLine (s : State) (o : Op) (x : EngLook) : List Byte × Bool :=
  match x with
  | .mem va fpa l =>
    (AMap.get? o.lines (va / 64)).getD
      ((List.range 64).map (s.engineByte o (.mem (va / 64 * 64) (fpa / 64 * 64) l)), s.engineBad x)
  | _ => ([], false)

/-- Source bytes of a copy, piece by piece within lines (R176); `fuel` bounds the pieces. -/
def State.gatherCopy (s : State) (id : Nat) : Nat → Op → Nat → Nat → Op × List Byte × List Nat × Going
  | 0, o, _, _ => (o, [], [], .go)
  | f + 1, o, va, n =>
    if n = 0 then (o, [], [], .go)
    else
      let k := min n (64 - va % 64)
      match s.engineLook id o .read va with
      | .stop g => (o, [], [], g)
      | x =>
        let line := s.copyLine o x
        let here := if x.device then sliceBytes line.1 (va % 64) k else (List.range k).map (s.engineByte o x)
        let bad := if x.device then line.2 else s.engineBad x
        let o1 := if x.device then { o with lines := AMap.insert o.lines (va / 64) line } else o
        let r := s.gatherCopy id f o1 ((va + k) % 2 ^ 64) (n - k)
        (r.1, here ++ r.2.1, (if bad then [va] else []) ++ r.2.2.1, r.2.2.2)

/-- A piece of a copy (R176, R177): the bytes of one destination line, written by one access, from the source lines that hold them.
A bad source line is reported where the copy comes to it. -/
def State.copyPiece (s : State) (id : Nat) (o : Op) (src dst n : Nat) (first : Bool) : State × Op × Going :=
  match s.gatherCopy id (n / 64 + 2) o src n with
  | (o1, bs, bad, .go) =>
    (match s.engineLook id o1 .write dst with
    | .stop g => (s, o1, g)
    | y =>
      let s1 := s.reportBad o1 (bad.filter fun a => first || a % 64 == 0)
      let w := s1.engineWrite o1 y bs (!bad.isEmpty)
      (w.1, { w.2 with poisoned := w.2.poisoned || !bad.isEmpty }, .go))
  | (o1, _, _, g) => (s, o1, g)

/-- The byte of a copy's source that lands at a place of the destination's extent, counted from its first byte: of the rows that cover the
place the last one's (R176). -/
def copySource (src bytes rows spitch dpitch q : Nat) : Option Nat :=
  let r := if dpitch = 0 then rows - 1 else min (rows - 1) (q / dpitch)
  if q - r * dpitch < bytes then some ((src + r * spitch + (q - r * dpitch)) % 2 ^ 64) else none

/-- The source bytes of a destination line, by their place in it, with the bad lines among them. -/
def State.gatherBytes (s : State) (id : Nat) : Op → List (Nat × Nat) → Op × AMap Byte × List Nat × Going
  | o, [] => (o, [], [], .go)
  | o, (j, a) :: r =>
    match s.gatherCopy id 1 o a 1 with
    | (o1, bs, bad, .go) =>
      let t := s.gatherBytes id o1 r
      (t.1, (j, bs.headD 0) :: t.2.1, bad ++ t.2.2.1, t.2.2.2)
    | (o1, _, _, g) => (o1, [], [], g)

/-- Bytes by their place in a line as runs of neighbours. -/
def byteRuns : AMap Byte → List (Nat × List Byte)
  | [] => []
  | (j, b) :: r =>
    match byteRuns r with
    | (k, l) :: t => if k = j + 1 then (j, b :: l) :: t else (j, [b]) :: (k, l) :: t
    | [] => [(j, [b])]

/-- A destination line of a DEVICE or STRONG page, written once with all that any row puts there (R176); `q` is the place in the
destination's extent of the byte at `da`. -/
def State.copyDevice (s : State) (id : Nat) (o : Op) (src da bytes rows spitch dpitch q : Nat) : State × Op × Going :=
  let places := (List.range 64).filterMap fun j =>
    if q + j < da % 64 then none else (copySource src bytes rows spitch dpitch (q + j - da % 64)).map fun a => (j, a)
  match s.gatherBytes id o places with
  | (o1, m, bad, .go) =>
    let s1 := s.reportBad o1 bad
    let w := (byteRuns m).foldl (fun r x =>
      r.1.engineWrite r.2 (r.1.engineLook id r.2 .write (da / 64 * 64 + x.1)) x.2 (!bad.isEmpty)) (s1, o1)
    (w.1, { w.2 with poisoned := w.2.poisoned || !bad.isEmpty }, .go)
  | (o1, _, _, g) => (s, o1, g)

/-- The next piece of a copy, row by row in ascending order (R176); what it reads and writes meanwhile is anyone's. A destination line of a
DEVICE or STRONG page is written where the copy first comes to it. -/
def State.copyStep (s : State) (id : Nat) (o : Op) (src dst bytes rows spitch dpitch : Nat) : State × Op × Going :=
  if bytes * rows ≤ o.progress then (s, o, .go)
  else
    let k := rowOf bytes o.progress
    let q := k.1 * dpitch + k.2
    let sa := (src + k.1 * spitch + k.2) % 2 ^ 64
    let da := (dst + q) % 2 ^ 64
    let n := min (bytes - k.2) (64 - da % 64)
    let more := fun (o : Op) => { o with progress := o.progress + n }
    match s.engineLook id o .write da with
    | .stop g => (s, o, g)
    | y =>
      let fresh := (k.2 == 0 || da % 64 == 0) && (k.1 == 0 || (k.1 - 1) * dpitch + bytes + da % 64 ≤ q)
      let r := if !y.device then s.copyPiece id o sa da n (k.2 == 0)
        else if fresh then s.copyDevice id o src da bytes rows spitch dpitch q else (s, o, .go)
      match r with
      | (s1, o1, .go) => (s1, more o1, .go)
      | r => r

/-! ## ACP (R175 to R177) -/

/-- The 64-bit value of two words of a block. -/
def pairAt (w : List Word) (i : Nat) : DWord := pairOf (w.getD i 0) (w.getD (i + 1) 0)

/-- The extents of a copy overlap (R175). -/
def extentsMeet (src dst sl dl : Nat) : Bool := src < dst + dl && dst < src + sl

/-- ACP's operation from its block (R175). -/
def acpKind (w : List Word) : OpKind :=
  .acp (pairAt w 0) (pairAt w 2) (w.getD 4 0).toNat (w.getD 5 0).toNat (w.getD 6 0).toNat (w.getD 7 0).toNat (pairAt w 8)
    (w.getD 10 0).toNat

/-- What R175 asks of ACP's block at issue. -/
def acpRules (w : List Word) : List FieldRule :=
  let bytes := (w.getD 4 0).toNat
  let rows := (w.getD 5 0).toNat
  let len := fun (i : Nat) => (rows - 1) * (w.getD i 0).toNat + bytes
  [ { regs := [11], ok := w.getD 11 0 == 0, reason := 1 },
    { regs := [4], ok := 1 ≤ bytes && bytes ≤ 2 ^ 31, reason := 3 },
    { regs := [5], ok := 1 ≤ rows && rows ≤ 2 ^ 20, reason := 3 },
    { regs := [4, 5], ok := bytes * rows ≤ 2 ^ 40, reason := 3 },
    { regs := [0, 1, 2, 3, 4, 5, 6, 7], ok := !extentsMeet (pairAt w 0).toNat (pairAt w 2).toNat (len 6) (len 7), reason := 3 } ]

/-- An engine instruction whose descriptor is `k` uniform registers from an even one (R185): its fields' ILL, RBX, and the alignment
of its counter before it is issued. -/
def State.runEngine (s : State) (a k : Nat) (rules : List Word → List FieldRule) (ctr : List Word → DWord)
    (kind : List Word → OpKind) : Out :=
  s.runExec fun c => do
    let w := c.party.ublock a k
    checkBlock (c.env s) c.party a k (rules w)
    need ((ctr w).toNat % 8 == 0) (Trap.aln 0 .atomic)
    pure (s.issueOp c (kind w))

def execAcp (a : BitVec 7) (s : State) : Out := s.runEngine a.toNat 12 acpRules (pairAt · 8) acpKind

/-! ## STM (R182, R369) -/

/-- A DST of STM or COMB, translated at issue as a store's address and lying in node memory (R182): its address there, or
the machine with the party waiting for a page. -/
def State.nodeDst (s : State) (c : Exec) (addr : DWord) : Except Trap (State ⊕ Nat) :=
  let r := s.uniReq { (c.env s) with det := false } c.party .write 64 addr.toNat
  match settle [(r.lane, r.look)] with
  | .error t => .error t
  | .ok (.wait vas) => .ok (.inl (s.waitWalks c.tid c.pi c.task.die c.task.ctx 1 vas))
  | .ok (.ok [(_, .mem _ fpa l)]) =>
    if fpaClass fpa = 2 && !l.contrib then .ok (.inr fpa) else .error (BadPage.place.trap 0 .write)
  | .ok (.ok _) => .error (BadPage.place.trap 0 .write)

/-- An instruction with a node destination: its checks, the translation, then the operation. -/
def State.runNode (s : State) (a : Nat) (rules : List Word → List FieldRule) (ctr : List Word → DWord)
    (kind : List Word → Nat → OpKind) : Out :=
  s.runExec fun c => do
    let w := c.party.ublock a 8
    checkBlock (c.env s) c.party a 8 (rules w)
    need ((ctr w).toNat % 8 == 0) (Trap.aln 0 .atomic)
    match ← s.nodeDst c (pairAt w 2) with
    | .inl s1 => pure s1
    | .inr fpa => pure (s.issueOp c (kind w fpa))

/-- What R182 asks of STM's block at issue. -/
def stmRules (w : List Word) : List FieldRule :=
  let bytes := (w.getD 4 0).toNat
  [ { regs := [0, 1], ok := (pairAt w 0).toNat % 64 == 0, reason := 3 },
    { regs := [2, 3], ok := (pairAt w 2).toNat % 64 == 0, reason := 3 },
    { regs := [4], ok := bytes % 64 == 0 && 64 ≤ bytes && bytes ≤ 2 ^ 24, reason := 3 },
    { regs := [5], ok := (w.getD 5 0).toNat % 8 == 0, reason := 3 } ]

def execStm (a : BitVec 7) (s : State) : Out :=
  s.runNode a.toNat stmRules (pairAt · 6) fun w fpa =>
    .stm (pairAt w 0) (BitVec.ofNat 64 fpa) (w.getD 4 0).toNat (w.getD 5 0).toNat (pairAt w 6) [] false [] [] [] [] []

/-- Where the first byte of an STM lands at a member (R368). -/
def State.memberBase (s : State) (e : McastEntry) (fpa p : Nat) : Nat :=
  s.visible (s.memberFpa p (s.mcastField (e.addr + 16 + 8 * p)) + (fpa % 2 ^ 45 - e.first * 65536))

/-- Another STM that has reached its node has already sent a line to a member (R369). -/
def State.stmRaces (s : State) (id p a : Nat) : Bool :=
  s.ops.any fun x => x.1 != id &&
    match x.2.kind with
    | .stm _ dst bytes _ _ _ true _ _ gone _ _ =>
      (match s.mcastFor dst.toNat bytes with
      | some e => gone.any fun g => g.1 == p && s.memberBase e dst.toNat p + 64 * g.2 == a
      | none => false)
    | _ => false

/-- One line of an STM reaches a member (R369): each byte that another STM races for is either's, as a free value says. -/
def State.stmLine (s : State) (id p a i : Nat) (data : List Byte) (bad : List Nat) : State :=
  let new := sliceBytes data (64 * i) 64
  let bs := if s.stmRaces id p a then
      (List.range 64).map fun k => if Config.freeBit (freeIndex s.fresh (2 ^ 40 + 64 * (64 * i + p) + k)) then s.mem.read (a + k) else new.getD k 0
    else new
  let s1 := (s.writeWhole a bs).noteFrame a
  if mem? i bad then s1.poisonLine (lineOf a) else s1

/-- The lines of an STM that are forwarded now: those of ready branches that have not gone, but those that a full buffer, or a write
pending on a twin, or a die that does not answer holds back (R258, R331, R369). -/
def State.stmNow (s : State) (e : McastEntry) (fpa n : Nat) (branches : List Nat) (gone : List (Nat × Nat)) : List (Nat × Nat) :=
  (branches.flatMap fun p => (List.range n).map fun i => (p, i)).filter fun x =>
    !(gone.any fun g => g == x) && !s.mute (s.memberBase e fpa x.1 + 64 * x.2) && !s.twinPending (s.memberBase e fpa x.1 + 64 * x.2)
      && !Config.freeBit (freeIndex s.fresh (64 * x.2 + x.1))

/-- The counter of a member whose branch has delivered (R182, R369). -/
def State.stmCounter (s : State) (e : McastEntry) (fpa rcoff p : Nat) : Nat := ((s.memberBase e fpa p : Nat) + sxNat 32 rcoff).toNat
def State.stmCount (s : State) (e : McastEntry) (fpa rcoff p : Nat) : State :=
  if rcoff = 2 ^ 31 then s else (s.bump (s.stmCounter e fpa rcoff p) 1).noteFrame (s.stmCounter e fpa rcoff p)

/-- An STM all of whose branches have delivered or failed: LCTR and the end (R182, R369). -/
def State.stmEnd (s : State) (id : Nat) (o : Op) : State :=
  match o.kind with
  | .stm _ _ _ _ lctr members true delivered failed _ _ _ =>
    if members.all fun p => mem? p delivered || mem? p failed then
      s.bumpAndEnd id { o with poisoned := o.poisoned || !failed.isEmpty } lctr.toNat 1
    else s.putOp id o
  | _ => s.putOp id o

/-- The start of an STM: its source is read and sent, and the node finds its members or refuses it, once (R182, R368): after a refusal
no member receives a byte, a record is posted, and LCTR is bumped. -/
def State.stmStart (s : State) (id : Nat) (o : Op) : State :=
  match o.kind with
  | .stm src dst bytes rcoff lctr _ false _ _ _ _ _ =>
    if !s.reachable o.die dst.toNat || s.hopLost dst.toNat dst.toNat then s.failOp id o 1 dst.toNat
    else
      let r := s.gatherAt id o src.toNat bytes
      match r.2.2 with
      | .go =>
        let s1 := s.reportBad o r.2.1
        let bad := r.2.1.map fun a => (a - src.toNat) / 64
        match s1.mcastFor dst.toNat bytes with
        | none =>
          (s1.postEngineError o.die 6 4 o.ctx 0 o.frame).stmEnd id { o with
            poisoned := true, kind := .stm src dst bytes rcoff lctr [] true [] [] [] [] [] }
        | some e =>
          s1.stmEnd id { o with
            poisoned := !bad.isEmpty
            kind := .stm src dst bytes rcoff lctr ((List.range 64).filter fun p => bit e.members p) true [] [] [] r.1 bad }
      | g => s.settleOp id o g (fun s _ => s) (fun s o code addr => s.failOp id o code addr)
  | _ => s

/-- An STM's lines go to the members whose branches are ready (R369): a branch all of whose lines have gone has delivered, and its
member's counter is bumped. -/
def State.stmForward (s : State) (id : Nat) (o : Op) (ready : BitVec 64) : State :=
  match o.kind with
  | .stm src dst bytes rcoff lctr members true delivered failed gone data bad =>
    match s.mcastFor dst.toNat bytes with
    | none => s.stmEnd id o
    | some e =>
      let n := bytes / 64
      let branches := members.filter fun p => ready.getLsbD p && !mem? p delivered && !mem? p failed
      let now := s.stmNow e dst.toNat n branches gone
      let all := gone ++ now
      let done := branches.filter fun p => (all.filter fun g => g.1 == p).length == n
      let s1 := now.foldl (fun s x => s.stmLine id x.1 (s.memberBase e dst.toNat x.1 + 64 * x.2) x.2 data bad) s
      let s2 := done.foldl (fun s p => s.stmCount e dst.toNat rcoff p) s1
      let lines := now.map (fun x => lineOf (s.memberBase e dst.toNat x.1 + 64 * x.2)) ++
        if rcoff = 2 ^ 31 then [] else done.map fun p => lineOf (s.stmCounter e dst.toNat rcoff p)
      s2.stmEnd id { o with
        wset := lines.foldl (fun w l => addRange l (l + 1) w) o.wset, seen := o.seen.add s.writes s2.writes
        kind := .stm src dst bytes rcoff lctr members true (delivered ++ done) failed all data bad }
  | _ => s

/-- MULTICAST_FLIT_ARRIVAL (R369): the STM's flits reach its node, and those for the ports with room are forwarded. -/
def execMulticastFlitArrival (op : Nat) (ready : BitVec 64) (s : State) : Out :=
  .next (s.withOp op fun s o =>
    if !s.opFree o then s else (s.stmStart op o).withOp op fun s o => s.stmForward op o ready)

/-- MULTICAST_BRANCH_TIMEOUT (R369): a branch blocked for 50 µs fails; the lines that have gone to it stay written. -/
def execMulticastBranchTimeout (op member : Nat) (s : State) : Out :=
  .next (s.withOp op fun s o =>
    match o.kind with
    | .stm src dst bytes rcoff lctr members true delivered failed gone data bad =>
      if !mem? member members || mem? member delivered || mem? member failed then s
      else
        (s.postEngineError o.die 6 5 o.ctx member o.frame).stmEnd op { o with
          kind := .stm src dst bytes rcoff lctr members true delivered (failed ++ [member]) gone data bad }
    | _ => s)

/-! ## COMB (R183, R184, R370, R371) -/

/-- What R183 asks of COMB's block at issue. -/
def combRules (w : List Word) : List FieldRule :=
  let c := (w.getD 5 0).toNat
  let op := bits c 24 8
  let olen := bits (w.getD 6 0).toNat 0 16
  let bytes := (w.getD 4 0).toNat
  [ { regs := [5], ok := bits c 14 10 == 0 && bits c 6 2 == 0, reason := 1 },
    { regs := [7], ok := w.getD 7 0 == 0, reason := 1 },
    { regs := [0, 1], ok := (pairAt w 0).toNat % 64 == 0, reason := 3 },
    { regs := [2, 3], ok := (pairAt w 2).toNat % 64 == 0, reason := 3 },
    { regs := [5], ok := op ≤ 3 && 1 ≤ bits c 8 6 && bits c 0 6 ≤ bits c 8 6, reason := 3 },
    { regs := [5, 6], ok := if op = 3 then 1 ≤ olen && olen ≤ 1024 else olen == 0, reason := 3 },
    { regs := [4], ok := 4 ≤ bytes && bytes ≤ 65536 && bytes % 4 == 0, reason := 3 },
    { regs := [4, 5, 6], ok := op != 3 || bytes % (4 * (olen + 2)) == 0, reason := 3 } ]

def execComb (a : BitVec 7) (s : State) : Out :=
  s.runNode a.toNat combRules (fun _ => 0) fun w fpa =>
    let c := (w.getD 5 0).toNat
    let t := (w.getD 6 0).toNat
    .comb (pairAt w 0) (BitVec.ofNat 64 fpa) (w.getD 4 0).toNat (bits c 24 8) (bits c 8 6) (bits c 0 6) (bits t 16 16)
      (bits t 0 16) none

/-- EXP of R184. -/
def combExp (x : Nat) : Nat := (fEx2 (fMul x 0x3FB8AA3B)).1

/-- max(m1, m2) of R184: a NaN makes it NaN (R371). -/
def combMax (a b : Nat) : Nat :=
  if (fp32.val a).isNan || (fp32.val b).isNan then fp32.nan else (fp32.minMax true true a b).1

/-- Minus infinity in FP32. -/
def negInf32 : Nat := 0xFF800000

/-- Resc of R184 on triples as lists (m, l, o...). -/
def resc (x y : List Nat) : List Nat :=
  match x, y with
  | m1 :: r1, m2 :: r2 =>
    let m := combMax m1 m2
    if m = negInf32 then negInf32 :: r1.map fun _ => 0
    else
      let a := combExp (fSub m1 m)
      let b := combExp (fSub m2 m)
      m :: (List.range r1.length).map fun i => fAdd (fMul (r1.getD i 0) a) (fMul (r2.getD i 0) b)
  | _, _ => []

/-- A list cut into pieces of `n`; `fuel` bounds the pieces. -/
def chunksOf {α : Type} (n : Nat) : Nat → List α → List (List α)
  | 0, _ => []
  | f + 1, l => if l.isEmpty then [] else l.take n :: chunksOf n f (l.drop n)

/-- The FP32 words of a byte string. -/
def wordsOf (bs : List Byte) : List Nat := (chunksOf 4 (bs.length + 1) bs).map natOfBytes

/-- r ⊕ x of R184 over whole contributions. -/
def combPair (op olen : Nat) (x y : List Byte) : List Byte :=
  if op = 3 then
    let k := olen + 2
    let a := chunksOf k (x.length + 1) (wordsOf x)
    let b := chunksOf k (y.length + 1) (wordsOf y)
    ((a.zip b).flatMap fun p => resc p.1 p.2).flatMap (leBytes 4)
  else if op = 2 then combineBytes 1 0 x y
  else combineBytes 0 op x y

/-- The result of an instance (R184): its contributions in ascending rank. -/
def combResult (parts : List Contribution) : List Byte :=
  match parts with
  | [] => []
  | c :: _ =>
    let data := (List.range (c.gsm1 + 1)).map fun i => ((parts.find? fun x => x.rank == i).map (·.data)).getD []
    match data with
    | [] => []
    | x :: xs => xs.foldl (combPair c.op c.olen) x

/-- What a node says of a contribution. -/
inductive CombSays where
  | held
  | taken
  | refused
  deriving DecidableEq, Repr

/-- Room an instance takes in the combining store (R370). -/
def combRoom (bytes : Nat) : Nat := (64 * bytes + 4095) / 4096 * 4096

/-- The instance has the key of a contribution. -/
def Instance.keyed (i : Instance) (node : Nat) (c : Contribution) : Bool :=
  i.node == node && i.parts.any fun x => x.dst == c.dst && x.tag == c.tag

/-- A result and its counter at a node (R184, R370): a multicast frame takes no access but an STM's (R368). -/
def State.combWrite (s : State) (c : Contribution) (data : List Byte) (bad : List Nat) : State :=
  let s1 := (linePieces c.dst data).foldl (fun s x =>
    if s.isMcast x.1 then s
    else
      let s2 := s.writeWhole x.1 x.2
      if mem? (lineOf x.1 - lineOf c.dst) bad then s2.poisonLine (lineOf x.1) else s2) s
  let ctr := c.dst + 8 * ((c.bytes + 7) / 8)
  if s1.isMcast ctr then s1 else s1.bump ctr 1

/-- A contribution arrives at its node (R183, R370): refused, held back for want of room, or taken; the last one completes
the instance. -/
def State.combine (s : State) (node : Nat) (c : Contribution) : CombSays × State :=
  match s.instances.find? fun i => i.keyed node c with
  | none =>
    let here := s.instances.filter fun i => i.node == node
    let used := (here.map fun i => combRoom ((i.parts.head?.map (·.bytes)).getD 0)).sum
    if Config.combInstances ≤ here.length || Config.combStoreBytes < used + combRoom c.bytes then (.held, s)
    else (.taken, { s with instances := s.instances ++ [{ node := node, parts := [c] }] })
  | some i =>
    let same := i.parts.all fun x => x.bytes == c.bytes && x.op == c.op && x.gsm1 == c.gsm1 && x.olen == c.olen
    if !same || i.parts.any fun x => x.rank == c.rank then (.refused, s)
    else
      let parts := i.parts ++ [c]
      let others := s.instances.filter fun x => !x.keyed node c
      if parts.length ≤ c.gsm1 then (.taken, { s with instances := others ++ [{ i with parts := parts }] })
      else
        (.taken, { s with instances := others }.combWrite c (combResult parts) (parts.flatMap fun (x : Contribution) => x.poison))

/-- A COMB's contribution reaches its node (R183, R370): taken into custody it ends the operation; without room it waits. -/
def State.combSend (s : State) (id : Nat) (o : Op) (c : Contribution) : State :=
  match o.kind with
  | .comb src dst bytes op gsm1 rank tag olen _ =>
    (match s.combine (fpaNode c.dst) c with
    | (.held, s1) => s1.putOp id { o with kind := .comb src dst bytes op gsm1 rank tag olen (some c) }
    | (.refused, s1) => s1.failOp id o 4 c.dst
    | (.taken, s1) => s1.endOp id o o.poisoned)
  | _ => s

/-- A COMB reads its source and sends it (R183). What has once reached its node is not given up on its way any more (R364, R370). -/
def State.combRun (s : State) (id : Nat) (o : Op) : State :=
  match o.kind with
  | .comb _ _ _ _ _ _ _ _ (some c) => s.combSend id o c
  | .comb src dst bytes op gsm1 rank tag olen none =>
    if !s.reachable o.die dst.toNat || s.hopLost dst.toNat dst.toNat then s.failOp id o 1 dst.toNat
    else
      let r := s.gatherAt id o src.toNat bytes
      match r.2.2 with
      | .go =>
        let bad := r.2.1.map fun a => (a - src.toNat) / 64
        (s.reportBad o r.2.1).combSend id { o with poisoned := !bad.isEmpty }
          { dst := dst.toNat, tag := tag, bytes := bytes, op := op, gsm1 := gsm1, olen := olen, rank := rank, data := r.1,
            poison := bad, srcOp := some id }
      | g => s.settleOp id o g (fun s _ => s) (fun s o code addr => s.failOp id o code addr)
  | _ => s

/-- COMB_CONTRIBUTION_ARRIVAL (R370): a contribution of this package's operation or of a peer reaches a node. -/
def execCombContributionArrival (node : Nat) (c : Contribution) (s : State) : Out :=
  match c.srcOp with
  | some id =>
    match AMap.get? s.ops id with
    | none => .next s
    | some o => .next (if s.opFree o then s.combRun id o else s)
  | none => .next (s.combine node c).2

/-- NODE_RESET (R370): a node's combining instances are gone. -/
def execNodeReset (node : Nat) (s : State) : Out :=
  .next { s with instances := s.instances.filter fun i => i.node != node }

/-! ## The Vat's rounds (R329) -/

/-- The round at a chunk's address on a die. -/
def State.round? (s : State) (d fpa : Nat) : Option Round := (s.die d).rounds.find? fun r => r.fpa == fpa

/-- The machine without a round. -/
def State.dropRound (s : State) (d fpa : Nat) : State :=
  s.putDie d { (s.die d) with rounds := (s.die d).rounds.filter fun r => r.fpa != fpa }

/-- The sum of a round's contributions in logical rank order. -/
def Round.sum (r : Round) : List Byte :=
  let data := (List.range r.ranks).map fun j => (r.bytes.getD j []).map (·.2)
  match data with
  | [] => []
  | x :: xs => xs.foldl (combineBytes r.op r.format) x

/-- A round that cannot go on: its bump is not made (R200, R283). -/
def State.failRound (s : State) (id : Nat) (o : Op) (fpa addr : Nat) : State :=
  ((s.postEngineError o.die 3 3 o.ctx addr 0).dropRound o.die fpa).endOp id o true

/-- A complete round: the sum is written to the twin, once, then the counter is bumped, then the next round may begin (R329). The
counter's page must be a NORMAL class 0 page of the die; otherwise the bump waits on the fault queue. -/
def State.roundRun (s : State) (id : Nat) (o : Op) (fpa : Nat) : State :=
  match s.round? o.die fpa with
  | none => s.endOp id o false
  | some r =>
    let bump := fun (s : State) (o : Op) =>
      match s.opAgent o r.ctr with
      | .bad _ => s.failRound id o fpa r.ctr
      | .miss _ _ => s.missOp id o r.ctr 2
      | .hit l cf =>
        if l.typ == .normal && fpaClass l.frame == 0 && fpaDie l.frame == o.die then
          (((s.bump cf 1).noteLine o.ctx r.ctr cf).dropRound o.die fpa).endOp id o false
        else if (s.die o.die).hasFaultRing then
          (s.putOp id { o with waiting := addNew o.waiting r.ctr, walked := [] }).postFault o.die o.ctx r.ctr 2 4 [.op id]
        else s.failRound id o fpa r.ctr
    if o.progress ≠ 0 then bump s o
    else
      match s.opAgent o r.twin with
      | .bad _ => s.failRound id o fpa r.twin
      | .miss _ _ => s.missOp id o r.twin 1
      | .hit _ tf =>
        if s.twinPending tf then s.putOp id o
        else bump ((s.writeWhole tf r.sum).noteLine o.ctx r.twin tf) { o with progress := 1 }

end Sys2Proof.Machine
end

