-- ==== Sys2Proof/Machine/Press.lean ====
section
/-! DEFINITION. The Press (R186 to R195, R315 to R318): gangs, the rendezvous of a joint PMMA, the Press queues and their
service, grains and accumulator tiles. -/

namespace Sys2Proof.Machine

/-! ## GANG (R186, R187) -/

/-- The fields of the `gang` register. -/
def gangValid (g : Word) : Bool := g.getLsbD 31
def gangN (g : Word) : Nat := bits g.toNat 28 3
def gangMe (g : Word) : Nat := bits g.toNat 25 3
def gangBq (g : Word) : Nat := bits g.toNat 21 4
def gangBvr (g : Word) : Nat := bits g.toNat 14 7
def gangLead (g : Word) : Nat := bits g.toNat 0 5

/-- The quarters of B that member `me` of `n` holds. -/
def quartersOf (n me : Nat) : List Nat := (List.range 4).filter fun q => me < 4 && q % min n 4 == me

/-- The `gang` register of a party under a mask that names it (R187). -/
def gangWord (mask : Word) (pi b : Nat) : Word :=
  let n := popcount mask
  let me := popcountN pi mask.toNat
  BitVec.ofNat 32 (2 ^ 31 + 2 ^ 28 * n + 2 ^ 25 * me + 2 ^ 21 * ((quartersOf n me).map (2 ^ ·)).sum + 2 ^ 14 * b
    + (lanesOf mask).headD 0)

def execGang (a b : BitVec 7) (s : State) : Out :=
  s.runWide 1 fun env p => do
    let m := p.ureg a.toNat
    let ill := need (m == 0#32 || (2 ≤ popcount m && popcount m ≤ 6 && m.getLsbD env.pi)) (Trap.ill 3)
    checkRegs env p [.u a.toNat] ill ([.u a.toNat] ++ (List.range 3).map fun i => .u (b.toNat + i))
    if m = 0#32 then pure { p with gang := 0, gangMask := 0 }
    else pure { p with gang := gangWord m env.pi b.toNat, gangMask := m }

/-! ## Press queues (R192, R318) -/

/-- The key of a party's Press queue within its troupe: its gang's, or its own. -/
def Party.pressKey (p : Party) (pi : Nat) : Nat := if gangValid p.gang then 32 + gangLead p.gang else pi

/-- A queue by its troupe and key. -/
def PressQueue.is (q : PressQueue) (task key : Nat) : Bool := q.task == task && q.key == key

/-- A Press queue has room (R318). -/
def State.pressRoom (s : State) (die task key : Nat) : Bool :=
  (((s.die die).pressQueues.find? fun q => q.is task key).map (·.ops.length)).getD 0 < Config.pressQueueDepth

/-- An operation enters a Press queue. -/
def State.pressPush (s : State) (die cluster task key id : Nat) : State :=
  let d := s.die die
  s.putDie die { d with
    pressQueues := if d.pressQueues.any fun q => q.is task key then
        d.pressQueues.map fun q => if q.is task key then { q with ops := q.ops ++ [id] } else q
      else d.pressQueues ++ [{ task := task, key := key, cluster := cluster, ops := [id] }] }

/-- The head of a Press queue leaves it; an empty queue is gone. -/
def State.pressPop (s : State) (die task key : Nat) : State :=
  let d := s.die die
  s.putDie die { d with
    pressQueues := (d.pressQueues.map fun q => if q.is task key then { q with ops := q.ops.tail } else q).filter
      fun q => !q.ops.isEmpty }

/-- Issues a PACC operation; with its queue full the party stalls (R318). -/
def State.runPacc (s : State) (d : Nat) (work : Exec → Env → Except Trap PressWork) : Out :=
  s.runExec fun c => do
    let w ← work c (c.env s)
    let key := c.party.pressKey c.pi
    if !s.pressRoom c.task.die c.tid key then pure s
    else
      let s1 := s.issueOp c (.press d w)
      pure (s1.pressPush c.task.die (clusterOf c.task.core) c.tid key (s1.nextId - 1))

def execPaccZero (d : BitVec 5) (s : State) : Out := s.runPacc d.toNat fun _ _ => .ok .zero

/-- The block of PACC.LDA and PACC.STA: ADDR and PITCH (R193). -/
def tileBlock (env : Env) (p : Party) (a : Nat) (acc : Access) : Except Trap (DWord × Nat) := do
  let pitch := (p.ureg (a + 2)).toNat
  checkBlock env p a 4
    [{ regs := [3], ok := p.ureg (a + 3) == 0, reason := 1 }, { regs := [2], ok := pitch % 16 == 0 && 256 ≤ pitch, reason := 3 }]
  need ((p.upair a).toNat % 16 == 0) (Trap.aln 0 acc)
  pure (p.upair a, pitch)

def execPaccLda (d : BitVec 5) (a : BitVec 7) (s : State) : Out :=
  s.runPacc d.toNat fun c env => do
    let b ← tileBlock env c.party a.toNat .read
    pure (.lda b.1 b.2)
def execPaccSta (d : BitVec 5) (a : BitVec 7) (s : State) : Out :=
  s.runPacc d.toNat fun c env => do
    let b ← tileBlock env c.party a.toNat .write
    pure (.sta b.1 b.2)

/-- PACC.STAQ's checks (R185, R194). -/
def execPaccStaq (d : BitVec 5) (a : BitVec 7) (f : BitVec 3) (s : State) : Out :=
  s.runPacc d.toNat fun c env => do
    need (f.toNat ≤ 4) (Trap.ill 0)
    let w := c.party.ublock a.toNat 8
    let v := viewOf w
    checkBlock env c.party a.toNat 8
      [{ regs := [5], ok := v.reserved, reason := 1 }, { regs := [5], ok := f != 2#3 || !v.trans, reason := 3 }]
    need (f != 2#3 || (v.base.toNat % 16 == 0 && v.aligned 2)) (Trap.aln 0 .write)
    pure (.staq f.toNat w c.party.top.fmt)

def execPaccScale (d : BitVec 5) (a : BitVec 7) (s : State) : Out :=
  s.runPacc d.toNat fun c env => do
    useRegs env c.party [.u a.toNat]
    pure (.scale (c.party.ureg a.toNat))

/-- PACC.RDA (R195): class V; its registers are written once the Press has read the tile. -/
def execPaccRda (d : BitVec 7) (a : BitVec 5) (b : BitVec 7) (f : BitVec 1) (s : State) : Out :=
  match s.current with
  | none => .next s
  | some c =>
    if 255 ≤ c.party.cfCount (c.party.coverFlag f) then .next s
    else
      match useRegs (c.env s) c.party [.v d.toNat, .u b.toNat] with
      | .error tr => .next (s.takeTrap c.tid c.pi tr)
      | .ok _ =>
        let key := c.party.pressKey c.pi
        if !s.pressRoom c.task.die c.tid key then .next s
        else
          let r := c.party.ureg b.toNat
          let pid := s.nextId
          let n := { s with nextId := pid + 1 }.newOp c.tid c.task c.task.opOwn c.party.seen
            (.press a.toNat (.rda (bits r.toNat 0 6) (bits r.toNat 6 1) c.party.exm c.pi pid))
          let x : VResult :=
            { vwrites := [c.party.vwrite d.toNat fun _ => 0], uwrites := [], aflags := 0#5, floating := false
              wait := .press n.1 }
          let s1 := n.2.pressPush c.task.die (clusterOf c.task.core) c.tid key n.1
          .next (s1.modParty c.tid c.pi fun p => (p.addPending (x.pending pid (p.coverFlag f))).advance 1)

/-! ## Operands (R81, R188, R189) -/

/-- The formats of A and B by PMMA's code: 0 E4M3, 1 E5M2, 2 E2M1X, 3 BF16, 4 F16; and K (R81). -/
def pairFormats (m : Nat) : Nat × Nat × Nat :=
  match m with
  | 0 => (3, 3, 32)
  | 1 => (4, 4, 32)
  | 2 => (0, 0, 64)
  | 3 => (0, 1, 64)
  | 4 => (1, 0, 64)
  | 5 => (1, 1, 64)
  | 6 => (2, 2, 128)
  | _ => (0, 2, 128)

/-- Bits of an element. -/
def elemWidth (f : Nat) : Nat := if 3 ≤ f then 16 else if f = 2 then 4 else 8

/-- A code's value: decoded at its coordinates, or a 16-bit number as it stands. -/
def pressVal (f code row col key : Nat) (m : Meta) : FloatVal :=
  if f = 3 then bf16.val code else if f = 4 then fp16.val code else decodeCode f code row col key m

/-- What a member holds of B: a quarter's registers lane by lane, metadata last (R188). -/
def Party.quarter (p : Party) (b nq j : Nat) (f : Nat) : List Word :=
  let regs := (List.range 8).map (fun r => b + 8 * j + r) ++ (if f = 2 then [b + 8 * nq + j] else [])
  regs.flatMap fun r => (List.range 32).map fun l => p.vreg r l

/-- B(k, n) of a quarter's words, block and `fmt` (R188, R189). -/
def quarterVal (f : Nat) (x : List Word × List Word × Word) (k n : Nat) : FloatVal :=
  let c := n % 16
  let e := elemWidth f
  let w := x.1.getD (32 * (c / 2) + 16 * (c % 2) + k * e / 32) 0
  let code := bits w.toNat (e * (k % (32 / e))) e
  let m := bits ((x.1.getD (256 + 2 * c + k / 64) 0).toNat) (16 * (k / 32 % 2)) 16
  let t := (x.2.1.getD 2 0).toNat
  let key := if bit t 1 then fmtKey x.2.2 else bits t 16 16
  let pos := if bit t 0 then (n, k) else (k, n)
  pressVal f code (((x.2.1.getD 0 0).toNat + pos.1) % 2 ^ 32) (((x.2.1.getD 1 0).toNat + pos.2) % 2 ^ 32) key
    { scale := m % 256, x := m / 256 }

/-- Storage rows and columns of A. -/
def View.shape (v : View) (k : Nat) : Nat × Nat := if v.trans then (k, 64) else (64, k)

/-- The address and the bytes of a storage row's codes, and of its metadata. -/
def View.codeRow (v : View) (f cols a : Nat) : Nat × Nat :=
  ((v.base.toNat + a * v.pitch) % 2 ^ 64, cols * elemWidth f / 8)
def View.metaRow (v : View) (cols a : Nat) : Nat × Nat := (v.metaAddr (a, 0), cols / 16)

/-- Every row of A, codes and metadata. -/
def View.rows (v : View) (f k : Nat) : List (Nat × Nat) :=
  let sh := v.shape k
  (List.range sh.1).flatMap fun a => v.codeRow f sh.2 a :: (if f = 2 then [v.metaRow sh.2 a] else [])

/-- Rows read by an operation, each with the addresses of its bad pieces. -/
def State.gatherRows (s : State) (id : Nat) (o : Op) : List (Nat × Nat) → List (List Byte × List Nat) × Going
  | [] => ([], .go)
  | r :: rs =>
    let x := s.gatherAt id o r.1 r.2
    match x.2.2 with
    | .go =>
      let y := s.gatherRows id o rs
      ((x.1, x.2.1) :: y.1, y.2)
    | g => ([], g)

/-- An address lies in a line among the bad pieces of a row. -/
def badAt (bad : List Nat) (a : Nat) : Bool := bad.any fun x => lineOf x == lineOf a

/-- A(i, k) from the rows read (R149, R189); what a bad line supplies is NaN (R192). -/
def rowsVal (v : View) (fmt : Word) (f kk : Nat) (rows : List (List Byte × List Nat)) (i k : Nat) : FloatVal :=
  let x := v.storage i k
  let sh := v.shape kk
  let stride := if f = 2 then 2 else 1
  let c := rows.getD (stride * x.1) ([], [])
  let o := x.2 * elemWidth f / 8
  let rc := v.coords x
  let code := if 3 ≤ f then fieldOf c.1 o 2
    else if f = 2 then (let b := fieldOf c.1 o 1; if x.2 % 2 = 0 then b % 16 else b / 16) else fieldOf c.1 o 1
  let m := rows.getD (2 * x.1 + 1) ([], [])
  let mo := 2 * (x.2 / 32)
  if badAt c.2 ((v.codeRow f sh.2 x.1).1 + o) || (f == 2 && badAt m.2 ((v.metaRow sh.2 x.1).1 + mo)) then .nan false
  else pressVal f code rc.1 rc.2 (v.key fmt) { scale := fieldOf m.1 mo 1, x := fieldOf m.1 (mo + 1) 1 }

/-! ## Grains (R191, R303) -/

/-- A sum of exact products, with IEEE's NaN, infinity and zero rules. -/
def sumVals (l : List FloatVal) : FloatVal :=
  if l.any (·.isNan) then .nan false
  else
    let pinf := l.any fun x => x == .inf false
    let ninf := l.any fun x => x == .inf true
    if pinf && ninf then .nan false
    else if pinf then .inf false
    else if ninf then .inf true
    else
      let d := l.foldl (fun (a : Dyadic) x => match x with | .fin _ d => a.add d | _ => a) Dyadic.zero
      .fin (if d.m = 0 then l.all (·.neg) else decide (d.m < 0)) d

/-- One grain on an accumulator element. -/
def grain (acc : Nat) (a b : Nat → FloatVal) (g : Nat) : Nat :=
  let s := sumVals ((List.range 32).map fun j => (mulVal (a (32 * g + j)) (b (32 * g + j))).1)
  (fp32.addVal 0 (fp32.val acc) s).1

/-- All grains of a PMMA on an element, in ascending k. -/
def grains (kk acc : Nat) (a b : Nat → FloatVal) : Nat := (List.range (kk / 32)).foldl (fun x g => grain x a b g) acc

/-- A tile from its elements. -/
def tileOf (f : Nat → Nat → Nat) : Cells 32 :=
  (List.range 4096).filterMap fun k =>
    let w := BitVec.ofNat 32 (f (k / 64) (k % 64))
    if w = 0#32 then none else some (k, w)

/-- An element of a tile. -/
def tileAt (t : Cells 32) (i n : Nat) : Nat := (Cells.get t (64 * i + n)).toNat

/-- A NaN in a tile is canonical (R191). -/
def canonNan (x : Nat) : Nat := if (fp32.val x).isNan then fp32.nan else x

/-! ## The work of one operation (R191 to R195) -/

/-- Rows written by an operation. -/
def State.scatterRows (s : State) (id : Nat) (o : Op) : List (Nat × List Byte) → State × Op × Going
  | [] => (s, o, .go)
  | r :: rs =>
    match s.scatterAt id o r.1 r.2 (fun _ => false) with
    | (s1, o1, .go) => s1.scatterRows id o1 rs
    | x => x

/-- STAQ's bytes, storage row by storage row (R194). -/
def staqRows (f : Nat) (v : View) (fmt : Word) (t : Cells 32) : List (Nat × List Byte) :=
  (List.range 64).flatMap fun a =>
    let el := fun b => if v.trans then tileAt t b a else tileAt t a b
    let base := (v.base.toNat + a * v.pitch) % 2 ^ 64
    if f = 2 then
      let sc := (List.range 2).map fun h => qscale 2 ((List.range 32).map fun l => el (32 * h + l))
      let code := fun b =>
        let q := sc.getD (b / 32) (0, 0, 0)
        let rc := v.coords (a, b)
        (quantise 2 false (el b) rc.1 rc.2 (v.key fmt) { scale := q.2.2, x := q.2.1 }).1
      [(base, (List.range 32).map fun i => BitVec.ofNat 8 (code (2 * i) % 16 + 16 * (code (2 * i + 1) % 16))),
        (v.metaAddr (a, 0), sc.flatMap fun q => [BitVec.ofNat 8 q.2.2, BitVec.ofNat 8 q.2.1])]
    else
      [(base, (List.range 64).flatMap fun b =>
        if 3 ≤ f then leBytes 2 (cvtWide (if f = 3 then bf16 else fp16) 0 (fp32.val (el b))).1
        else
          let rc := v.coords (a, b)
          [BitVec.ofNat 8 (quantise f (fmtE5inf fmt) (el b) rc.1 rc.2 (v.key fmt) { scale := 127, x := 0 }).1])]

/-- The new tile of an operation on a tile, with what else it does (R191 to R194). -/
def State.pressRun (s : State) (id : Nat) (o : Op) (w : PressWork) (t : Cells 32) : State × Op × Cells 32 × Going :=
  match w with
  | .zero => (s, o, [], .go)
  | .scale x => (s, o, tileOf fun i n => (fp32.mul 0 (tileAt t i n) x.toNat).1, .go)
  | .rda .. => (s, o, t, .go)
  | .lda addr pitch =>
    let rows := (List.range 64).map fun i => ((addr.toNat + i * pitch) % 2 ^ 64, 256)
    let r := s.gatherRows id o rows
    match r.2 with
    | .go =>
      let bad := r.1.flatMap (·.2)
      (s.reportBad o bad, { o with poisoned := !bad.isEmpty }, (tileOf fun i n =>
        let row := r.1.getD i ([], [])
        if badAt row.2 ((addr.toNat + i * pitch) % 2 ^ 64 + 4 * n) then fp32.nan else canonNan (fieldOf row.1 (4 * n) 4)), .go)
    | g => (s, o, t, g)
  | .sta addr pitch =>
    let rows := (List.range 64).map fun i =>
      ((addr.toNat + i * pitch) % 2 ^ 64, (List.range 64).flatMap fun n => leBytes 4 (tileAt t i n))
    let r := s.scatterRows id o rows
    (r.1, r.2.1, t, r.2.2)
  | .staq f view fmt =>
    let r := s.scatterRows id o (staqRows f (viewOf view) fmt t)
    (r.1, r.2.1, t, r.2.2)
  | .mma pair view fmt quarters =>
    let v := viewOf view
    let (fa, fb, kk) := pairFormats pair
    let r := s.gatherRows id o (v.rows fa kk)
    match r.2 with
    | .go =>
      let bad := r.1.flatMap (·.2)
      (s.reportBad o bad, { o with poisoned := !bad.isEmpty },
        (tileOf fun i n => grains kk (tileAt t i n) (rowsVal v fmt fa kk r.1 i)
          fun k => quarterVal fb (quarters.getD (n / 16) ([], [], 0)) k n), .go)
    | g => (s, o, t, g)

/-! ## PMMA and the rendezvous (R189, R190) -/

/-- The parties a mask names. -/
def maskParties (m : Word) : List Nat := lanesOf m

/-- The mask a latch's arrivals were made under. -/
def latchMask (l : List Arrival) : Word := (l.head?.map (·.mask)).getD 0

/-- The latch that an arrival of a party under a mask belongs to: one whose mask names the party, or one of whose arrivals
the mask names. -/
def latchFor (ls : List (List Arrival)) (pi : Nat) (mask : Word) : Option (List Arrival) :=
  ls.find? fun l => (latchMask l).getLsbD pi || l.any fun x => mask.getLsbD x.party

/-- The task without a latch. -/
def Task.dropLatch (t : Task) (l : List Arrival) : Task := { t with latches := t.latches.filter fun x => x != l }

/-- GNG's INFO of a party (R339). -/
def gngInfo (g : Word) (reason : Nat) : Nat := reason + 2 * gangMe g + 16 * gangN g

/-- A party gives up every wait it stands in (R190). -/
def State.abandon (s : State) (tid pi : Nat) : State :=
  let s1 := s.modTask tid fun t =>
    let l := t.barriers.map fun b => { b with arrived := b.arrived.filter (· != pi) }
    { t with barriers := l.filter fun b => !b.arrived.isEmpty }
  let l := s1.groupBars.map fun b => { b with waiting := b.waiting.filter fun w => w != (tid, pi) }
  let s2 := { s1 with groupBars := l.filter fun b => !b.waiting.isEmpty }
  s2.modParty tid pi fun p => { p with hold := .free }

/-- A party at its instruction boundary: between clauses, on the path whose clause it would start next (R87, R190). -/
def Party.atBoundary (p : Party) : Party := if p.top.clause.isSome then p else p.reconcile

/-- GNG (R190): the latch goes, the `gang` register of every member clears (those of the latch's mask, and the party that differs from
it, log 80), and the arrived members, at the time limit the absent ones too, take the trap where they stand. -/
def State.failLatch (s : State) (tid : Nat) (l : List Arrival) (extra : List Nat) (reason : Nat) : State :=
  match s.task? tid with
  | none => s
  | some t =>
    let members := ((maskParties (latchMask l)) ++ extra).eraseDups
    let arrived := l.map (·.party) ++ extra
    let info := fun i => gngInfo ((t.parties[i]?.map (·.gang)).getD 0) reason
    let s1 := s.putTask tid (t.dropLatch l)
    let s2 := members.foldl (fun s i => s.modParty tid i fun p => { p with gang := 0, gangMask := 0 }) s1
    (members.filter fun i => mem? i arrived || (reason == 1 && t.live i)).foldl
      (fun s i => ((s.abandon tid i).modParty tid i Party.atBoundary).takeTrap tid i { cause := 0x08, info := info i, addr := none }) s2

/-- A rendezvous whose members have all arrived: the joint operation enters the gang's queue when there is room, joins every
member's open batch, and every member goes on (R190, R318). What it reads comes after what came before member 0's arrival, so that a byte of
A written since then is old or new (R192, R311). -/
def State.settleLatch (s : State) (tid : Nat) (l : List Arrival) : State :=
  match s.task? tid with
  | none => s
  | some t =>
    let mask := latchMask l
    let key := 32 + (lanesOf mask).headD 0
    if !((maskParties mask).all fun i => l.any fun x => x.party == i) || !s.pressRoom t.die tid key then s
    else
      let lead := (l.find? fun x => !x.view.isEmpty)
      let quarter := fun q =>
        ((l.find? fun x => bit (gangBq ((t.parties[x.party]?.map (·.gang)).getD 0)) q).map fun x =>
          let me := gangMe ((t.parties[x.party]?.map (·.gang)).getD 0)
          let j := ((quartersOf (popcount mask) me).findIdx? fun y => y == q).getD 0
          (x.bregs.getD (j + 1) [], x.bregs.getD 0 [], x.fmt)).getD ([], [], 0)
      let work : PressWork := .mma ((l.head?.map (·.pair)).getD 0) ((lead.map (·.view)).getD []) ((lead.map (·.fmt)).getD 0)
        ((List.range 4).map quarter)
      let n := s.newOp tid t ((lead.map (·.own)).getD []) ((lead.map (·.seen)).getD Seen.none)
        (.press ((l.head?.map (·.tile)).getD 0) work)
      let s1 := (n.2.modTask tid fun t => t.dropLatch l).pressPush t.die (clusterOf t.core) tid key n.1
      l.foldl (fun s x => s.modParty tid x.party fun p => { ((p.addOp n.1).advance 1) with hold := .free }) s1

/-- The latch a party stands in is looked at again. -/
def State.settleRendezvous (s : State) (tid pi : Nat) : State :=
  match s.task? tid with
  | none => s
  | some t =>
    match t.latches.find? fun l => l.any fun x => x.party == pi with
    | none => s
    | some l => s.settleLatch tid l

/-- A party arrives at its gang's rendezvous (R190): what its core holds of its writes goes home, for member 0's operand (R257). -/
def State.arriveGang (s0 : State) (c : Exec) (x : Arrival) : State :=
  match s0.task? c.tid with
  | none => s0
  | some t =>
    let s := s0.source c.tid t
    match latchFor t.latches c.pi x.mask with
    | none =>
      let s1 := s.putTask c.tid { t with latches := t.latches ++ [[x]] }
      (s1.modParty c.tid c.pi fun p => { p with hold := .rendezvous }).settleLatch c.tid [x]
    | some l =>
      if (l.headD x).mask ≠ x.mask ∨ (l.headD x).tile ≠ x.tile ∨ (l.headD x).pair ≠ x.pair then s.failLatch c.tid l [c.pi] 0
      else
        let s1 := s.putTask c.tid { t.dropLatch l with latches := (t.dropLatch l).latches ++ [l ++ [x]] }
        (s1.modParty c.tid c.pi fun p => { p with hold := .rendezvous }).settleLatch c.tid (l ++ [x])

/-- Every address of A lies in the tile memory of the issuing cluster (R189). -/
def inCluster (env : Env) (ts : List (Nat × Target)) : Bool :=
  ts.all fun x =>
    match x.2 with
    | .mem _ fpa _ => isTile fpa && fpaDie fpa == env.die && bits fpa 32 5 == clusterOf env.core
    | _ => false

/-- Member 0's accesses to A: the first and the last byte of every row. -/
def State.viewReqs (s : State) (env : Env) (p : Party) (v : View) (f k : Nat) : List Req :=
  (v.rows f k).flatMap fun r =>
    [s.uniReq env p .read 1 r.1, s.uniReq env p .read 1 ((r.1 + r.2 - 1) % 2 ^ 64)]

/-- PMMA's operands and their checks at issue (R53, R188, R189): the arrival, and the accesses still to be translated. -/
def State.pmmaPlan (s : State) (c : Exec) (d a b m : Nat) : Except Trap (Arrival × List Req) := do
  let env := c.env s
  let p := c.party
  need (a % 2 == 0) (Trap.ill 5)
  need (gangValid p.gang) (Trap.ill 4)
  let (fa, fb, kk) := pairFormats m
  let qs := quartersOf (gangN p.gang) (gangMe p.gang)
  let nq := qs.length
  let bvr := gangBvr p.gang
  let lead := gangMe p.gang == 0
  need (nq != 0 || b == 0) (Trap.ill 1)
  let block := p.ublock bvr 3
  let w := p.ublock a 8
  let v := viewOf w
  let all : List RegUse :=
    .ub a 8 :: if nq = 0 then [] else [.u bvr, .u (bvr + 1), .u (bvr + 2), .vb b ((if fb = 2 then 9 else 8) * nq)]
  let ill : Except Trap Unit := do
    need (!lead || !regsIn env p [.u (a + 5)] || v.reserved) (Trap.ill 1)
    need (nq == 0 || !regsIn env p [.u (bvr + 2)] || bits (block.getD 2 0).toNat 2 14 == 0) (Trap.ill 1)
  checkRegs env p [] ill all
  need (!lead || v.aligned fa) (Trap.aln 0 .read)
  pure ({ party := c.pi, tile := d, pair := m, mask := p.gangMask, view := if lead then w else []
          bregs := if nq = 0 then [] else block :: (List.range nq).map fun j => p.quarter b nq j fb, fmt := p.top.fmt
          own := if lead then c.task.opOwn else [], seen := p.seen },
    if lead then s.viewReqs env p v fa kk else [])

/-- PMMA once its checks at issue are settled. -/
def State.pmma (s : State) (c : Exec) (d a b m : Nat) : Except Trap State := do
  let x ← s.pmmaPlan c d a b m
  match ← settle (x.2.map fun r => (r.lane, r.look)) with
  | .wait vas => pure (s.waitWalks c.tid c.pi c.task.die c.task.ctx 0 vas)
  | .ok ts => do
    need (inCluster (c.env s) ts) (BadPage.place.trap 0 .read)
    pure (s.arriveGang c x.1)

def execPmma (d : BitVec 5) (a b : BitVec 7) (p : BitVec 3) (s : State) : Out :=
  match s.current with
  | none => .next s
  | some c =>
    if c.party.hold = .rendezvous then .next (s.settleRendezvous c.tid c.pi)
    else s.runWideExec fun s1 c1 => s1.pmma c1 d.toNat a.toNat b.toNat p.toNat

/-- RENDEZVOUS_TIMEOUT (R190, R318): 2^20 clocks after the first arrival some member of the latch led by `lead` is absent;
the limit does not run while the troupe is switched out or once all have arrived. -/
def execRendezvousTimeout (task lead : Nat) (s : State) : Out :=
  match s.task? task with
  | none => .next s
  | some t =>
    if t.phase ≠ .running || t.failed then .next s
    else
      match t.latches.find? fun l => (lanesOf (latchMask l)).headD 0 == lead with
      | none => .next s
      | some l =>
        if (maskParties (latchMask l)).all fun i => l.any fun x => x.party == i then .next s
        else .next (s.failLatch task l [] 1)

/-! ## PRESS_SERVE (R192, R317) -/

/-- The physical tiles that a task's bindings hold: none once it has failed, while the Porter keeps them saved, or once it is switched
out and its Press queue has drained (R317, R354). -/
def State.tilesHeld (s : State) (tid : Nat) (t : Task) : Nat :=
  let out := match t.phase with | .out _ => true | _ => false
  if t.failed || t.tilesSaved || (out && !s.pressBusy t.die tid) then 0 else t.tiles.length

/-- The physical tiles of a cluster in use. -/
def State.tilesUsed (s : State) (die cluster : Nat) : Nat :=
  (s.tasks.map fun e => if e.2.die = die ∧ clusterOf e.2.core = cluster then s.tilesHeld e.1 e.2 else 0).sum

/-- The tile an operation names is bound, or it and its troupe's saved tiles can be (R317). -/
def State.tileReady (s : State) (die cluster task tile : Nat) : Bool :=
  match s.task? task with
  | none => false
  | some t =>
    let new := (if (AMap.get? t.tiles tile).isSome then 0 else 1) + (if t.tilesSaved then t.tiles.length else 0)
    new == 0 || s.tilesUsed die cluster + new ≤ Config.pressTiles

/-- A queue whose head can be served now, with that operation. -/
def State.pressHead (s : State) (die cluster : Nat) (q : PressQueue) : Option (Nat × Op × Nat × PressWork) :=
  match q.ops with
  | [] => none
  | id :: _ =>
    match AMap.get? s.ops id with
    | none => none
    | some o =>
      match o.kind with
      | .press tile w => if s.opFree o && s.tileReady die cluster q.task tile then some (id, o, tile, w) else none
      | _ => none

/-- The place of a queue in the round. -/
def PressQueue.code (q : PressQueue) : Nat := q.task * 64 + q.key

/-- The queue the Press serves next: the first after the last served, in a round over the non-empty ones. -/
def State.pressNext (s : State) (die cluster : Nat) : Option PressQueue :=
  let l := (s.die die).pressQueues.filter fun q => q.cluster == cluster && (s.pressHead die cluster q).isSome
  let last := ((s.die die).pressLast).getD cluster 0
  let least := fun (l : List PressQueue) => l.foldl (fun (b : Option PressQueue) q =>
    match b with
    | none => some q
    | some x => if q.code < x.code then some q else some x) none
  match least (l.filter fun q => last < q.code + 1) with
  | some q => some q
  | none => least l

/-- An RDA's lanes read from the tile: its pending result is ready (R195). -/
def State.finishRda (s : State) (o : Op) (w : PressWork) (t : Cells 32) : State :=
  match o.source, w with
  | .party task, .rda row half _ party pend =>
    s.modParty task party fun p => p.ready pend fun x =>
      { x with vwrites := x.vwrites.map fun v =>
          (v.1, v.2.1, (List.range 32).map fun l => BitVec.ofNat 32 (tileAt t row (32 * half + l))) }
  | _, _ => s

/-- PRESS_SERVE (R192): the Press applies the next operation; what waits for a page stays at the head of its queue. -/
def execPressServe (die cluster : Nat) (s : State) : Out :=
  match s.pressNext die cluster with
  | none => .next s
  | some q =>
    match s.pressHead die cluster q, s.task? q.task with
    | some (id, o, tile, w), some t =>
      let d := s.die die
      let s0 := s.putDie die { d with pressLast := d.pressLast.insert cluster (q.code + 1) }
      let old := AMap.getD t.tiles tile []
      let s1 := s0.modTask q.task fun t => { t with tiles := AMap.insert t.tiles tile old, tilesSaved := false }
      let r := s1.pressRun id o w old
      .next (r.1.settleOp id r.2.1 r.2.2.2
        (fun s o =>
          let s2 := s.modTask q.task fun t => { t with tiles := AMap.insert t.tiles tile r.2.2.1 }
          (((s2.finishRda o w old).publish id o).endOp id o o.poisoned).pressPop die q.task q.key)
        fun s o code addr => (s.failOp id o code addr).pressPop die q.task q.key)
    | _, _ => .next s

end Sys2Proof.Machine
end

