-- ==== Sys2Proof/Machine/Net.lean ====
section
/-! DEFINITION. The network engine (R202 to R204, R374 to R376, R380 to R393): work requests, packets sent and acknowledged,
packets received and placed, and their failures; and the rail messages of the Couriers (R392). -/

namespace Sys2Proof.Machine

/-! ## Tables (R380 to R383) -/

/-- A table's address from its base register. -/
def tableAt (base : DWord) (o : Nat) : Nat := bits base.toNat 12 44 * 4096 + o

/-- An entry of the peer table is valid; its address as a number (R381). -/
def State.peerValid (s : State) (n : NetEngine) (i : Nat) : Bool := bit (s.mem.readNat (tableAt n.peerBase (32 * i + 24)) 1) 0
def State.peerIp (s : State) (n : NetEngine) (i : Nat) : BitVec 128 :=
  BitVec.ofNat 128 (s.mem.readNat (tableAt n.peerBase (32 * i)) 16)

/-- The index of the valid peer at an address, or 0xFFFF (R388). -/
def State.peerOf (s : State) (n : NetEngine) (ip : BitVec 128) : Nat :=
  ((List.range 4096).find? fun i => s.peerValid n i && s.peerIp n i == ip).getD 0xFFFF

/-- The rail table's entry for a package (R383). -/
def State.railPeer (s : State) (n : NetEngine) (ctx pkg : Nat) : Nat :=
  s.mem.readNat (tableAt n.railBase (128 * ctx + 2 * pkg)) 2

/-- A region (R382). -/
structure Region where
  key : Nat
  job : Nat
  perm : Nat
  base : Nat
  size : Nat
  ctx : Nat
  logsz : Nat
  clean : Bool
  deriving DecidableEq, Repr

/-- The entry that an RKEY selects. -/
def State.region (s : State) (n : NetEngine) (rkey : BitVec 32) : Region :=
  let a := tableAt n.regnBase (32 * (rkey.toNat % 4096))
  { key := s.mem.readNat a 4, job := s.mem.readNat (a + 4) 3, perm := s.mem.readNat (a + 7) 1, base := s.mem.readNat (a + 8) 8
    size := s.mem.readNat (a + 16) 4, ctx := s.mem.readNat (a + 20) 2, logsz := s.mem.readNat (a + 22) 1
    clean := bits (s.mem.readNat (a + 7) 1) 3 5 == 0 && s.mem.readNat (a + 23) 9 == 0 }

/-! ## Messages -/

/-- Fields of a work request (R202). OPC 4 is what answers a peer's READ (R387, log 59), OPC 5 a rail message, whose RKEY word names its
transfer (log 15). -/
def NetWork.opc (w : NetWork) : Nat := bits (w.words.getD 0 0).toNat 0 8
def NetWork.len (w : NetWork) : Nat := (w.words.getD 7 0).toNat
def NetWork.payload (w : NetWork) : Nat := 1024 * 2 ^ bits (w.words.getD 0 0).toNat 20 2
def NetWork.laddr (w : NetWork) : Nat := (pairAt w.words 2).toNat
def NetWork.lctr (w : NetWork) : Nat := (pairAt w.words 10).toNat
def NetWork.xfer (w : NetWork) : Nat := (w.words.getD 6 0).toNat

/-- Packets of `len` bytes (R374). -/
def packetsOf (len payload : Nat) : Nat := (len + payload - 1) / payload

/-- The messages outstanding on a die. -/
def State.netOps (s : State) (die : Nat) : List (Nat × Op × NetWork) :=
  s.ops.filterMap fun e =>
    match e.2.kind with
    | .net w => if e.2.die = die then some (e.1, e.2, w) else none
    | _ => none

/-- The messages that NPOLL counts and the limit of R384 binds: what answers a peer's READ is not one of the die's own (log 59). -/
def State.outstanding (s : State) (die : Nat) : List (Nat × Op × NetWork) := (s.netOps die).filter fun e => e.2.2.opc != 4

/-- The record number of the peer at an address: its index in the peer table, or one of its own where the table does not name it. -/
def State.peerKey (s : State) (n : NetEngine) (ip : BitVec 128) : Nat :=
  if s.peerOf n ip = 0xFFFF then 65536 + ip.toNat else s.peerOf n ip

/-- A peer's record on a die. -/
def NetEngine.peerRec (n : NetEngine) (i : Nat) : Peer :=
  n.peers.getD i { nextPsn := 0, out := [], reported := [], retrans := 0, lastErr := 0 }

/-- The machine with a die's network engine changed. -/
def State.modNet (s : State) (die : Nat) (f : NetEngine → NetEngine) : State :=
  let d := s.die die
  s.putDie die { d with net := f d.net }

/-- A network engine with a peer's record changed. -/
def NetEngine.modPeer (n : NetEngine) (i : Nat) (f : Peer → Peer) : NetEngine :=
  { n with peers := AMap.insert n.peers i (f (n.peerRec i)) }

/-- What the port of a die puts on the network (log 81): nothing while the engine is off or the port is down (R380, R390). -/
def State.emit (s : State) (die : Nat) (x : WireItem) : State :=
  s.modNet die fun n => if bit n.cfg.toNat 63 && n.up then { n with wire := n.wire ++ [x] } else n

/-- The die's own address (R380). -/
def NetEngine.ip (n : NetEngine) : BitVec 128 := BitVec.ofNat 128 (n.iph.toNat * 2 ^ 64 + n.ipl.toNat)

/-- A message fails (R203, R390): its packets stop, the codes are recorded, an event is posted; a rail message's transfer is
marked for its Courier. -/
def State.netFail (s : State) (id : Nat) (o : Op) (w : NetWork) (code : Nat) : State :=
  let s1 := s.modNet o.die fun n =>
    { (n.modPeer w.peer fun p => { p with out := p.out.filter fun x => x.op != id, lastErr := code }) with lastErr := code }
  let s2 := if w.opc = 5 then { s1 with xfers := AMap.modify (s1.xfers.filter fun e => !(e.1 == w.xfer && e.2.phase == 7)) w.xfer fun x => { x with phase := 9 } } else s1
  ((s2.publish id o).postEngineError o.die 4 code o.ctx w.laddr o.frame).endOp id o true

/-- A fault that cannot be mended ends a message with code 3; a READ that a peer has asked for is refused (R390, log 59). -/
def State.netLocal (s : State) (id : Nat) (o : Op) (w : NetWork) : State :=
  match w.reply with
  | none => s.netFail id o w 3
  | some (ip, msg) => (((s.emit o.die (.nak ip msg)).modNet o.die fun n =>
      n.modPeer w.peer fun p => { p with out := p.out.filter fun x => x.op != id }).postEngineError o.die 4 1 o.ctx w.laddr 0).endOp id o true

/-- The machine after a piece of a message's work. -/
def State.settleNet (s : State) (id : Nat) (o : Op) (w : NetWork) (g : Going) (fin : State → Op → State) : State :=
  s.settleOp id o g fin fun s o _ _ => s.netLocal id o w

/-- Every packet of a message is acknowledged, and every response of a READ is placed. -/
def NetWork.done (w : NetWork) : Bool :=
  w.acked.length == w.count && (w.opc != 3 || w.got.length == packetsOf w.len w.payload)

/-- A message that is done: the twins are published, LCTR is bumped, the operation ends (R203, R376). -/
def State.netFinish (s : State) (id : Nat) (o : Op) (w : NetWork) : State :=
  if !w.done then s.putOp id o
  else if w.opc = 5 then { s with xfers := AMap.erase s.xfers w.xfer }.endOp id o false
  else if w.opc = 4 then s.endOp id o false
  else
    let r := s.publishBump id o w.lctr 1
    r.1.settleNet id r.2.1 w r.2.2 fun s o => s.endOp id o o.poisoned

/-- A message takes its peer's next PSNs (R374, R384), or ends at once where its peer is invalid or the engine is off. What answers a READ
goes back whence it came. -/
def State.netAccept (s : State) (id : Nat) : State :=
  s.withOp id fun s o =>
    match o.kind with
    | .net w =>
      let n := (s.die o.die).net
      if !bit n.cfg.toNat 63 || (w.reply.isNone && !s.peerValid n w.peer) then s.netFail id o w 3
      else
        (s.modNet o.die fun n => n.modPeer w.peer fun p => { p with nextPsn := p.nextPsn + w.count }).putOp id
          { o with kind := .net { w with base := (n.peerRec w.peer).nextPsn } }
    | _ => s

/-- What R185, R202 and R384 ask of NPOST's block at issue. -/
def npostRules (w : List Word) : List FieldRule :=
  let f := fun (i lo n : Nat) => bits (w.getD i 0).toNat lo n
  let opc := f 0 0 8
  let dmode := f 0 8 2
  let len := (w.getD 7 0).toNat
  let rcoff := (pairAt w 12).toNat
  [ { regs := [0], ok := f 0 22 10 == 0 && f 0 19 1 == 0 && f 0 10 6 == 0, reason := 1 },
    { regs := [1], ok := f 1 16 16 == 0, reason := 1 },
    { regs := [8], ok := f 8 16 16 == 0, reason := 1 },
    { regs := [9], ok := f 9 24 8 == 0, reason := 1 },
    { regs := [15], ok := w.getD 15 0 == 0, reason := 1 },
    { regs := [0], ok := 1 ≤ opc && opc ≤ 3 && f 0 20 2 != 3 && dmode != 3 && f 0 16 3 ≤ 4, reason := 3 },
    { regs := [0], ok := !(dmode == 1 && f 0 16 3 != 0) && !(dmode == 2 && opc == 2), reason := 3 },
    { regs := [7], ok := 1 ≤ len && len ≤ 2 ^ 30, reason := 3 },
    { regs := [8], ok := f 8 0 16 ≤ 4095, reason := 3 },
    { regs := [0, 14], ok := opc == 2 || w.getD 14 0 == 0, reason := 3 },
    { regs := [0, 4, 5], ok := opc != 2 || pairAt w 4 == 0, reason := 3 },
    { regs := [0, 12, 13], ok := opc != 3 || rcoff == 2 ^ 64 - 1, reason := 3 },
    { regs := [12, 13], ok := rcoff == 2 ^ 64 - 1 || rcoff % 8 == 0, reason := 3 } ]

/-- NPOST's message from its block (R202). -/
def npostKind (w : List Word) : OpKind :=
  let p := 1024 * 2 ^ bits (w.getD 0 0).toNat 20 2
  .net { words := w, peer := bits (w.getD 8 0).toNat 0 16, reply := none, base := 0
         count := if bits (w.getD 0 0).toNat 0 8 = 3 then 1 else packetsOf (w.getD 7 0).toNat p, acked := [], got := [], held := [] }

/-- NPOST (R203, R384): with 1,024 messages outstanding on the die the party stalls. -/
def execNpost (a : BitVec 7) (s : State) : Out :=
  s.runExec fun c => do
    let w := c.party.ublock a.toNat 16
    checkBlock (c.env s) c.party a.toNat 16 (npostRules w)
    need ((pairAt w 10).toNat % 8 == 0) (Trap.aln 0 .atomic)
    if Config.maxMessages ≤ (s.outstanding c.task.die).length then pure s
    else
      let s1 := s.issueOp c (npostKind w)
      pure (s1.netAccept (s1.nextId - 1))

/-- NPOLL (R204, R393), class V. -/
def execNpoll (d a : BitVec 7) (f : BitVec 1) (s : State) : Out :=
  s.runV 1 f fun env p => do
    let x := (p.ureg a.toNat).toNat
    let ill : Except Trap Unit := do
      need (bits x 18 14 == 0) (Trap.ill 1)
      need (bits x 0 2 ≤ 1) (Trap.ill 3)
      need (bits x 0 2 == 0 || bits x 2 16 ≤ 4095) (Trap.ill 3)
    checkRegs env p [.u a.toNat] ill [.up d.toNat, .u a.toNat]
    let n := (s.die env.die).net
    let peer := bits x 2 16
    let all := s.outstanding env.die
    let one := bits x 0 2 == 1
    let out := if one then (all.filter fun e => e.2.2.peer == peer).length else all.length
    let re := if one then (n.peerRec peer).retrans else n.retrans
    let err := if one then (n.peerRec peer).lastErr else n.lastErr
    pure (.loads [] [p.uwrite d.toNat (BitVec.ofNat 32 (min re 0xFFFFFFFF)),
      p.uwrite (d.toNat + 1) (BitVec.ofNat 32 (2 ^ 24 * err + min out 0xFFFF))])

/-! ## Sending (R374, R375, R384) -/

/-- The message whose unsent packet is next for a peer: the earliest accepted. -/
def State.nextUnsent (s : State) (die peer : Nat) : Option (Nat × Op × NetWork) :=
  ((s.netOps die).filter fun e => e.2.2.peer == peer && e.2.1.progress < e.2.2.count).foldl (fun b e =>
    match b with
    | none => some e
    | some x => if e.2.2.base < x.2.2.base then some e else some x) none

/-- One of a peer's packets that are due again: of several, a free value says which (log 103). -/
def State.duePacket (s : State) (die peer : Nat) : Option OutPacket :=
  match ((s.die die).net.peerRec peer).out.filter (·.due) with
  | [] => none
  | [x] => some x
  | l => l[Config.freeNat (freeIndex s.fresh (2 ^ 56 + peer)) % l.length]?

/-- What a peer would send now: a resend before any unsent packet (R384). -/
def State.peerReady (s : State) (die peer : Nat) : Option (Nat × Op × NetWork × Nat × Bool) :=
  match s.duePacket die peer with
  | some x =>
    match AMap.get? s.ops x.op with
    | some o => match o.kind with | .net w => if s.opFree o then some (x.op, o, w, x.index, true) else none | _ => none
    | none => none
  | none =>
    match s.nextUnsent die peer with
    | some (id, o, w) => if s.opFree o then some (id, o, w, o.progress, false) else none
    | none => none

/-- The peers of a die with messages outstanding, from the one after the last served (R384). -/
def State.peerRound (s : State) (die : Nat) : List Nat :=
  let l := (List.range 4096).filter (fun i => (s.netOps die).any fun e => e.2.2.peer == i) ++
    (((s.netOps die).map fun e => e.2.2.peer).eraseDups.filter (4096 ≤ ·))
  let last := (s.die die).net.lastPeer
  (l.filter fun i => last ≤ i) ++ l.filter fun i => i < last

/-- A peer's record once a packet has left: a new packet is remembered, a resend counted (R375). -/
def Peer.sent (p : Peer) (id index psn : Nat) (again : Bool) : Peer :=
  if again then
    { p with
      retrans := p.retrans + 1
      out := p.out.map fun x => if x.psn = psn then { x with sends := x.sends + 1, higher := [], due := false } else x }
  else { p with out := p.out ++ [{ psn := psn, op := id, index := index, sends := 1, higher := [], due := false }] }

/-- Packet `i` of a message on its way (R374, R382, R392). A rail message names its collective's slot in RKEY, its order in ROFF, the
segment in JOB, the phase in TAG, and carries its check values where RCOFF stands (log 15). -/
def State.netPacket (s : State) (o : Op) (w : NetWork) (i : Nat) (data : List Byte) (poison : List (Nat × Nat)) : NetPacket :=
  let x := AMap.get? s.xfers w.xfer
  let rail := fun (y : Xfer → Nat) (n : Nat) => if w.opc = 5 then (x.map y).getD 0 else n
  { srcIp := (s.die o.die).net.ip, psn := w.base + i, msg := (w.reply.map (·.2)).getD w.base, opc := w.opc, dmode := bits (w.words.getD 0 0).toNat 8 2
    job := rail (·.seg) (bits (w.words.getD 9 0).toNat 0 24)
    rkey := BitVec.ofNat 32 (rail (fun x => 64 * x.ctx + x.slot) (w.words.getD 6 0).toNat)
    roff := rail (·.order) (pairAt w.words 4).toNat
    moff := i * w.payload, len := w.len, rcoff := BitVec.ofNat 64 (rail (·.check.toNat) (pairAt w.words 12).toNat)
    tag := BitVec.ofNat 32 (rail (·.phase) (w.words.getD 14 0).toNat), mtu := bits (w.words.getD 0 0).toNat 20 2
    data := data, poison := poison, intact := true }

/-- The entropy of the `r`-th resend of packet `i` (R374). -/
def NetWork.entropy (w : NetWork) (i r : Nat) : Nat :=
  (bits (w.words.getD 1 0).toNat 0 16 + (i + r) % 2 ^ bits (w.words.getD 0 0).toNat 16 3) % 65536

/-- Where a message's packets go: its peer's address and the next hop to it (R381); of a peer that the table does not name, any. -/
def State.peerAddress (s : State) (n : NetEngine) (w : NetWork) : BitVec 128 × Nat :=
  match w.reply with
  | some (ip, _) => (ip, if w.peer < 4096 then s.mem.readNat (tableAt n.peerBase (32 * w.peer + 16)) 6 else
      Config.freeNat (freeIndex s.fresh (2 ^ 57)) % 2 ^ 48)
  | none => (s.peerIp n w.peer, s.mem.readNat (tableAt n.peerBase (32 * w.peer + 16)) 6)

/-- A packet leaves by the port: it is remembered, or its resend counted (R374, R375, R384). -/
def State.putPacket (s : State) (id : Nat) (o : Op) (w : NetWork) (i : Nat) (again : Bool) (data : List Byte) (poison : List (Nat × Nat)) : State :=
  let n := (s.die o.die).net
  let sends := (((n.peerRec w.peer).out.find? fun x => x.psn == w.base + i).map (·.sends)).getD 0
  let s1 := s.emit o.die (.packet (s.peerAddress n w).1 (s.peerAddress n w).2 (w.entropy i sends) (s.netPacket o w i data poison))
  (s1.modNet o.die fun n =>
    { (n.modPeer w.peer fun p => p.sent id i (w.base + i) again) with
      lastPeer := w.peer + 1, retrans := n.retrans + b2n again }).putOp id (if again then o else { o with progress := o.progress + 1 })

/-- Runs of a piece of `n` bytes from `lo` on, counted from its first byte. -/
def cutRuns (l : List (Nat × Nat)) (lo n : Nat) : List (Nat × Nat) :=
  (l.filter fun r => r.1 < lo + n && lo < r.1 + r.2).map fun r => (max r.1 lo - lo, min (r.1 + r.2) (lo + n) - max r.1 lo)

/-- The bytes of a rail message's packet, and those that are poisoned (R392). -/
def State.railBytes (s : State) (w : NetWork) (i : Nat) : List Byte × List (Nat × Nat) :=
  match AMap.get? s.xfers w.xfer with
  | none => ([], [])
  | some x =>
    let lo := i * w.payload
    let n := min w.payload (w.len - lo)
    (sliceBytes x.data lo n, cutRuns x.poison lo n)

/-- The bytes of `n` from an address that lie in bad lines, by the pieces that a read names (R389). -/
def badRuns (va n : Nat) (bad : List Nat) : List (Nat × Nat) := bad.map fun a => (a - va, min (64 - a % 64) (n - (a - va)))

/-- NET_PACKET_SEND (R384): the next peer's turn. A poisoned source line ends the message (R287, R390); what answers a READ carries its
poison along (R389). -/
def execNetPacketSend (die : Nat) (s : State) : Out :=
  let n := (s.die die).net
  if !bit n.cfg.toNat 63 || !n.up || (s.die die).failed then .next s
  else
    match (s.peerRound die).findSome? fun i => s.peerReady die i with
    | none => .next s
    | some (id, o, w, i, again) =>
      if w.opc = 1 ∨ w.opc = 2 ∨ w.opc = 4 then
        let va := (w.laddr + i * w.payload) % 2 ^ 64
        let n := min w.payload (w.len - i * w.payload)
        let r := s.gatherAt id o va n
        match r.2.2, if w.opc = 4 then [] else r.2.1 with
        | .go, [] => .next (s.putPacket id o w i again r.1 (badRuns va n r.2.1))
        | .go, a :: _ => .next ((s.postPoison die a 2 o.ctx).netFail id o w 4)
        | g, _ => .next (s.settleNet id o w g fun s _ => s)
      else
        let b := if w.opc = 5 then s.railBytes w i else ([], [])
        .next (s.putPacket id o w i again b.1 b.2)

/-- PSNs that a SACK is the first to report (R375). -/
def Peer.news (p : Peer) (psns : List Nat) : List Nat := (psns.filter fun x => x < p.nextPsn && !mem? x p.reported).eraseDups

/-- Packets newly acknowledged leave, and each that stays missing counts the higher ones that are first reported after its last send
(R375). -/
def Peer.acknowledge (p : Peer) (psns : List Nat) : Peer :=
  let now := p.news psns
  { p with
    reported := p.reported ++ now
    out := (p.out.filter fun x => !mem? x.psn psns).map fun x => { x with higher := x.higher ++ now.filter fun y => x.psn < y } }

/-- A packet is declared lost: it is due again, or its budget is spent and its message fails (R375). -/
def State.loseP (s : State) (die peer : Nat) (x : OutPacket) : State :=
  if Config.retransmitBudget < x.sends then
    s.withOp x.op fun s o => match o.kind with | .net w => s.netFail x.op o w 2 | _ => s
  else
    s.modNet die fun n => n.modPeer peer fun p =>
      { p with out := p.out.map fun y => if y.psn = x.psn then { y with due := true } else y }

/-- Acknowledged packets of a message counted (R376). -/
def State.netAcked (s : State) (x : OutPacket) : State :=
  s.withOp x.op fun s o =>
    match o.kind with
    | .net w => let w1 := { w with acked := addNew w.acked x.index }; s.netFinish x.op { o with kind := .net w1 } w1
    | _ => s

/-- SACK_RECEIVE (R375, R376). -/
def execSackReceive (die peer : Nat) (psns : List Nat) (s : State) : Out :=
  let p := (s.die die).net.peerRec peer
  let now := p.out.filter fun x => mem? x.psn psns
  let p1 := p.acknowledge psns
  let s1 := s.modNet die fun n => n.modPeer peer fun _ => p1
  let s2 := now.foldl (fun s x => s.netAcked x) s1
  let lost := p1.out.filter fun x => !x.due && Config.lossThreshold ≤ x.higher.length
  .next (lost.foldl (fun s x => s.loseP die peer x) s2)

/-- RETRANSMIT_TIMEOUT (R375): 20 µs since a packet's last send. -/
def execRetransmitTimeout (die peer psn : Nat) (s : State) : Out :=
  match ((s.die die).net.peerRec peer).out.find? fun x => x.psn == psn && !x.due with
  | none => .next s
  | some x => .next (s.loseP die peer x)

/-- NAK_RECEIVE (R390): a refusal stops the message that the packet belongs to, acknowledged or not. -/
def execNakReceive (die peer psn : Nat) (s : State) : Out :=
  match (s.netOps die).find? fun e => e.2.2.peer == peer && e.2.2.base ≤ psn && psn < e.2.2.base + e.2.2.count with
  | none => .next s
  | some (id, o, w) => .next (s.netFail id o w 1)

/-- Every outstanding message of a die fails. -/
def State.failAllNet (s : State) (die code : Nat) : State :=
  (s.netOps die).foldl (fun s e => s.netFail e.1 e.2.1 e.2.2 code) s

/-- NET_PORT_STATE_CHANGE (R390). -/
def execNetPortStateChange (die : Nat) (up : Bool) (s : State) : Out :=
  let s1 := s.modNet die fun n => { n with up := up }
  .next (if (s.die die).net.up && !up then s1.postEngineError die 4 5 0 0 0 else s1)

/-- The bits of NETCFG that a write keeps (R380). -/
def netcfgBits (v : DWord) : DWord := v &&& 0x8000FFFFFFFFFFFF#64

/-- NETCFG written (R380): where it clears ENABLE, every message outstanding on the die ends with LASTERR 3. -/
def State.writeNetcfg (s : State) (die : Nat) (v : DWord) : State :=
  let s1 := s.modNet die fun n => { n with cfg := netcfgBits v }
  if bit v.toNat 63 then s1 else s1.failAllNet die 3

/-- NETCFG_ENABLE_CLEAR (R380). -/
def execNetcfgEnableClear (die : Nat) (v : BitVec 64) (s : State) : Out :=
  .next (if bit v.toNat 63 then s else s.writeNetcfg die v)

/-! ## Receiving (R376, R382, R386 to R391) -/

/-- All ones: no counter (R202). -/
def noCounter (x : BitVec 64) : Bool := x.toNat == 2 ^ 64 - 1

/-- What the receiver asks of a packet (R382). -/
def Region.admits (r : Region) (p : NetPacket) : Bool :=
  r.clean && r.key == p.rkey.toNat && r.job == p.job
    && bit r.perm (if p.opc = 1 then 0 else if p.opc = 3 then 1 else 2)
    && (p.opc == 2 || p.roff + (if p.opc = 3 then p.len else p.moff + p.data.length) ≤ r.size)
    && (noCounter p.rcoff || p.rcoff.toNat + 8 ≤ r.size)
    && (p.opc != 2 || p.len ≤ 2 ^ r.logsz - 16)

/-- A refusal (R390): a negative acknowledgement, and an event at the receiver. -/
def State.refusePacket (s : State) (die : Nat) (p : NetPacket) : State :=
  let r := s.region (s.die die).net p.rkey
  (s.emit die (.nak p.srcIp p.psn)).postEngineError die 4 1 (if r.key = p.rkey.toNat then r.ctx else 0xFFFF) (r.base + p.roff) 0

/-- The message of a packet as an operation at the receiver. -/
def State.recvOp (s : State) (die : Nat) (p : NetPacket) : Option (Nat × Op) :=
  s.ops.find? fun e =>
    e.2.die == die && match e.2.kind with | .recv ip msg _ _ _ => ip == p.srcIp && msg == p.msg | _ => false

/-- A packet's payload size, and how many packets its message has. -/
def packetTotal (p : NetPacket) : Nat := packetsOf p.len (1024 * 2 ^ p.mtu)

/-- Reads a 64-bit word for an operation. -/
def State.gatherNat (s : State) (id : Nat) (o : Op) (va n : Nat) : Nat × Going :=
  let r := s.gatherAt id o va n
  (natOfBytes r.1, r.2.2)

/-- What comes of asking for a SEND slot (R388). -/
inductive SlotSays where
  | at (slot : Nat)
  | full
  | going (g : Going)
  deriving DecidableEq, Repr

/-- A SEND message's slot: the one at TAIL, if the ring has room (R388). -/
def State.sendSlot (s : State) (id : Nat) (o : Op) (r : Region) : SlotSays × State × Op :=
  let h := s.gatherNat id o r.base 8
  let t := s.gatherNat id o (r.base + 8) 8
  let n := r.size / 2 ^ r.logsz - 1
  match h.2, t.2 with
  | .go, .go =>
    if n ≤ (t.1 + 2 ^ 64 - h.1) % 2 ^ 64 then (.full, s, o)
    else
      match s.scatterAt id o (r.base + 8) (leBytes 8 ((t.1 + 1) % 2 ^ 64)) (fun _ => false) with
      | (s1, o1, .go) => (.at (t.1 % n), s1, o1)
      | (s1, o1, g) => (.going g, s1, o1)
  | .go, g => (.going g, s, o)
  | g, _ => (.going g, s, o)

/-- The address of a SEND slot. -/
def Region.slotAt (r : Region) (k : Nat) : Nat := r.base + 2 ^ r.logsz * (k + 1)

/-- The messages of an engine that have been placed whole once under RUDI. -/
def State.rudiDone (s : State) (die : Nat) (p : NetPacket) : Bool :=
  ((s.die die).net.placedOnce).any fun x => x == (p.srcIp, p.msg)

/-- A message of the same sender that stands earlier in PSN order has packets still to be placed under ROD (R386). -/
def State.rodWaits (s : State) (id : Nat) (o : Op) (p : NetPacket) : Bool :=
  p.dmode == 1 && s.ops.any fun e => e.1 != id && e.2.die == o.die &&
    match e.2.kind with
    | .recv ip msg _ _ (q :: _) => ip == p.srcIp && msg < p.msg && q.dmode == 1
    | _ => false

/-- A packet's bytes as they land: a byte that anyone has written since the message's first packet came is either's, as a free value
says for each (R391, log 81). -/
def State.landing (s : State) (id : Nat) (o : Op) (va : Nat) (bs : List Byte) : List Byte :=
  (linePieces va bs).flatMap fun x =>
    match s.engineLook id o .write x.1 with
    | .mem _ fpa l =>
      (List.range x.2.length).map fun i =>
        let a := fpa + i
        let raced := !l.shadow && s.past.any fun w => !o.seen.has w && (AMap.get? w.old a).isSome
        if raced && Config.freeBit (freeIndex s.fresh (2 ^ 59 + a)) then s.mem.read a else x.2.getD i 0
    | _ => x.2

/-- A packet has been received, and is not placed again (R375). -/
def NetEngine.hasPsn (n : NetEngine) (p : NetPacket) : Bool :=
  n.seen.any (fun x => x == (p.srcIp, p.psn)) || n.held.any fun x => x.srcIp == p.srcIp && x.psn == p.psn

/-- The selective acknowledgement of an accepted packet: every PSN received from its sender (R375). -/
def State.sack (s : State) (die : Nat) (ip : BitVec 128) : State :=
  let n := (s.die die).net
  s.emit die (.sack ip ((n.seen.filter fun x => x.1 == ip).map (·.2) ++ (n.held.filter fun x => x.srcIp == ip).map (·.psn)))

/-- A packet's PSN recorded as received (R375). -/
def State.markSeen (s : State) (die : Nat) (p : NetPacket) : State :=
  s.modNet die fun n => if n.seen.any fun x => x == (p.srcIp, p.psn) then n else { n with seen := n.seen ++ [(p.srcIp, p.psn)] }

/-- Every lower PSN of the sender has been received (R386). -/
def NetEngine.inOrder (n : NetEngine) (p : NetPacket) : Bool :=
  (List.range p.psn).all fun i => n.seen.any fun x => x == (p.srcIp, i)

/-- What comes of a piece of a message's work at the receiver: a fault that cannot be mended refuses the packet (R390). -/
def State.recvFail (s : State) (id : Nat) (o : Op) (p : NetPacket) : State := ((s.publish id o).refusePacket o.die p).endOp id o true

/-- An earlier SEND message is still to be given a slot of the same ring (R388). -/
def State.slotWaits (s : State) (id : Nat) (o : Op) (p : NetPacket) : Bool :=
  s.ops.any fun e => e.1 < id && e.2.die == o.die &&
    match e.2.kind with
    | .recv _ _ _ none (q :: _) => q.opc == 2 && q.rkey.toNat % 4096 == p.rkey.toNat % 4096
    | _ => false

/-- A packet that may be placed is received and acknowledged; one beyond a gap under ROD is held, or lost where the window is full
(R375, R386). -/
def State.admitPacket (s : State) (die : Nat) (p : NetPacket) : State × Bool :=
  let n := (s.die die).net
  if p.dmode = 1 && !n.inOrder p then
    if Config.rodWindow ≤ (n.held.filter fun x => x.srcIp == p.srcIp).length then (s, false)
    else ((s.modNet die fun n => { n with held := n.held ++ [p] }).sack die p.srcIp, false)
  else ((s.markSeen die p).sack die p.srcIp, true)

/-- A SEND message takes its slot, in the order in which first packets came (R388): its packets are received then, or they are lost where
the ring is full. -/
def State.recvSlot (s : State) (id : Nat) (o : Op) (p : NetPacket) (held : List NetPacket) : State :=
  if s.slotWaits id o p then s
  else
    match s.sendSlot id o (s.region (s.die o.die).net p.rkey) with
    | (.full, s1, _) => { s1 with ops := AMap.erase s1.ops id }
    | (.going g, s1, o1) => s1.settleOp id o1 g (fun s o => s.putOp id o) fun s o _ _ => s.recvFail id o p
    | (.at k, s1, o1) =>
      let r := held.foldl (fun (x : State × List NetPacket) q =>
        let y := x.1.admitPacket o.die q
        (y.1, if y.2 then x.2 ++ [q] else x.2)) (s1, [])
      r.1.putOp id { o1 with kind := .recv p.srcIp p.msg [] (some k) r.2 }

/-- A packet's bytes placed, once (R376, R388). A RUD message that is placed whole takes its turn to be counted (R376). -/
def State.recvPlace (s : State) (id : Nat) (o : Op) (p : NetPacket) (placed : List Nat) (slot : Option Nat) (rest : List NetPacket) : State :=
  let r := s.region (s.die o.die).net p.rkey
  let va := if p.opc = 2 then r.slotAt (slot.getD 0) + 16 + p.moff else r.base + p.roff + p.moff
  let w := s.scatterAt id o va (s.landing id o va p.data) fun i => p.poison.any fun x => x.1 ≤ i && i < x.1 + x.2
  w.1.settleOp id w.2.1 w.2.2 (fun s o =>
    let placed' := addNew placed p.moff
    if packetTotal p ≤ placed'.length && !s.rudiDone o.die p then
      (s.modNet o.die fun n => if p.dmode = 0 then { n with whole := n.whole ++ [id] } else n).putOp id
        { o with progress := 1, kind := .recv p.srcIp p.msg placed' slot (p :: rest) }
    else if s.rudiDone o.die p && rest.isEmpty then (s.publish id o).endOp id o false
    else s.putOp id { o with kind := .recv p.srcIp p.msg placed' slot rest }) fun s o _ _ => s.recvFail id o p

/-- A message that is placed whole: a SEND's header, then READY (R388). -/
def State.recvHead (s : State) (id : Nat) (o : Op) (p : NetPacket) (slot : Option Nat) : State :=
  let fail := fun (s : State) (o : Op) (_ _ : Nat) => s.recvFail id o p
  match slot with
  | none => s.putOp id { o with progress := 2 }
  | some k =>
    let r := s.region (s.die o.die).net p.rkey
    let src := s.peerOf (s.die o.die).net p.srcIp
    let h := s.scatterAt id o (r.slotAt k) (leBytes 4 p.tag.toNat ++ leBytes 4 p.len ++ leBytes 2 src) (fun _ => false)
    h.1.settleOp id h.2.1 h.2.2 (fun s o =>
      let y := s.scatterAt id o (r.slotAt k + 12) (leBytes 4 1) (fun _ => false)
      y.1.settleOp id y.2.1 y.2.2 (fun s o => s.putOp id { o with progress := 2 }) fail) fail

/-- A RUD message that was complete earlier is still to be counted (R376, R386). -/
def State.bumpWaits (s : State) (id : Nat) (o : Op) (p : NetPacket) : Bool :=
  p.dmode == 0 && ((s.die o.die).net.whole.filter fun i => (AMap.get? s.ops i).isSome).head? != some id

/-- The end of a message: the publication, then its counter, in its turn (R258, R376, R386). -/
def State.recvFinish (s : State) (id : Nat) (o : Op) (p : NetPacket) : State :=
  if s.bumpWaits id o p then s
  else
    let r := s.region (s.die o.die).net p.rkey
    let f := s.publishBump id o (if noCounter p.rcoff then 0 else r.base + p.rcoff.toNat) 1
    f.1.settleOp id f.2.1 f.2.2 (fun s o =>
      (s.modNet o.die fun n =>
        { n with
          whole := n.whole.filter (· != id)
          placedOnce := if p.dmode = 2 then n.placedOnce ++ [(p.srcIp, p.msg)] else n.placedOnce }).endOp id o false)
      fun s o _ _ => s.recvFail id o p

/-- One piece of a message at the receiver (R376, R386 to R388). `progress` 1 says that the last packet has been placed, 2 that the
SEND's header has. -/
def State.recvOne (s : State) (id : Nat) (o : Op) (p : NetPacket) (rest : List NetPacket) : State :=
  match o.kind with
  | .recv _ _ placed slot held =>
    if p.opc = 2 ∧ slot = none then s.recvSlot id o p held
    else if s.rodWaits id o p then s
    else if o.progress = 0 then s.recvPlace id o p placed slot rest
    else if o.progress = 1 then s.recvHead id o p slot
    else s.recvFinish id o p
  | _ => s

/-- The packets a message holds, placed one after another while nothing stops them; `fuel` bounds them. -/
def State.recvRun (s : State) (id : Nat) : Nat → State
  | 0 => s
  | n + 1 =>
    s.withOp id fun s o =>
      match o.kind with
      | .recv _ _ _ _ (p :: rest) => if s.opFree o then (s.recvOne id o p rest).recvRun id n else s
      | _ => s

/-- A message's operation at the receiver, at its first packet. -/
def State.recvStart (s : State) (die : Nat) (p : NetPacket) : Op :=
  Op.start (.recv p.srcIp p.msg [] none [p]) .network (s.region (s.die die).net p.rkey).ctx die 0 0 s.allSeen

/-- A packet joins its message's operation. -/
def State.recvAdd (s : State) (die : Nat) (p : NetPacket) : State :=
  match s.recvOp die p with
  | some (id, o) =>
    match o.kind with
    | .recv ip msg placed slot held =>
      (s.putOp id { o with kind := .recv ip msg placed slot (held ++ [p]) }).recvRun id (held.length + 3)
    | _ => s
  | none => ({ s with nextId := s.nextId + 1 }.putOp s.nextId (s.recvStart die p)).recvRun s.nextId 3

/-- What answers a peer's READ: a message of its own to that peer, in packets of the READ's size (R374, R375, R387). Its entropies are not
stated: free values choose them (log 59). -/
def State.startReply (s : State) (die : Nat) (p : NetPacket) : State :=
  let n := (s.die die).net
  let r := s.region n p.rkey
  let words : List Word :=
    [BitVec.ofNat 32 (4 + 2 ^ 8 * p.dmode + 2 ^ 16 * (Config.freeNat (freeIndex s.fresh (2 ^ 57 + 1)) % 5) + 2 ^ 20 * p.mtu),
      BitVec.ofNat 32 (Config.freeNat (freeIndex s.fresh (2 ^ 57 + 2)) % 65536), BitVec.ofNat 32 (r.base + p.roff),
      BitVec.ofNat 32 ((r.base + p.roff) / 2 ^ 32), BitVec.ofNat 32 p.roff, BitVec.ofNat 32 (p.roff / 2 ^ 32), p.rkey, BitVec.ofNat 32 p.len, 0,
      BitVec.ofNat 32 p.job, 0, 0, 0xFFFFFFFF#32, 0xFFFFFFFF#32, 0, 0]
  let w : NetWork :=
    { words := words, peer := s.peerKey n p.srcIp, reply := some (p.srcIp, p.msg), base := 0, count := packetTotal p, acked := [], got := []
      held := [] }
  ({ s with nextId := s.nextId + 1 }.putOp s.nextId (Op.start (.net w) .network r.ctx die 0 0 s.allSeen)).netAccept s.nextId

/-- A received packet at its work: a READ is answered, any other is placed. -/
def State.workPacket (s : State) (die : Nat) (p : NetPacket) : State := if p.opc = 3 then s.startReply die p else s.recvAdd die p

/-- Held ROD packets whose gap has closed, in PSN order (R386); `fuel` bounds them. -/
def State.releaseRod (s : State) (die : Nat) : Nat → State
  | 0 => s
  | f + 1 =>
    let n := (s.die die).net
    match n.held.find? n.inOrder with
    | none => s
    | some p => (((s.modNet die fun n => { n with held := n.held.filter (· != p) }).markSeen die p).workPacket die p).releaseRod die f

/-- A SEND message that has no slot yet, or has had none so far (R388). -/
def State.slotless (s : State) (die : Nat) (p : NetPacket) : Bool :=
  p.opc == 2 &&
    match s.recvOp die p with
    | none => true
    | some (_, o) => match o.kind with | .recv _ _ _ none _ => true | _ => false

/-- A packet that has come before: received, held, or waiting with its message for a slot (R375, R388). -/
def State.hasPacket (s : State) (die : Nat) (p : NetPacket) : Bool :=
  (s.die die).net.hasPsn p ||
    match s.recvOp die p with
    | some (_, o) => match o.kind with | .recv _ _ _ _ held => held.any fun q => q.psn == p.psn | _ => false
    | none => false

/-- An admitted packet: of a SEND without a slot it waits for one; any other is received, and joins its message's work (R386 to R388). -/
def State.acceptPacket (s : State) (die : Nat) (p : NetPacket) : State :=
  if s.slotless die p then s.recvAdd die p
  else
    let r := s.admitPacket die p
    if r.2 then r.1.workPacket die p else r.1

/-! ### Rail messages (R325, R392) -/

/-- Pieces staged in the Vat for a Courier operation, by segment: chunks of SRC, whole, from 0; incoming partials from 16; gathered
chunks from 32; then a reduced chunk, an incoming rail partial, a final chunk; an operand that the next rank has not acknowledged
(R324); and the packets of rail messages. -/
def keyPartial (c seg : Nat) : Nat := 64 * seg + 16 + c
def keyGather (c seg : Nat) : Nat := 64 * seg + 32 + c
def keyResult (seg : Nat) : Nat := 64 * seg + 48
def keyRail (seg : Nat) : Nat := 64 * seg + 49
def keyFinal (seg : Nat) : Nat := 64 * seg + 50
def keyKept (c seg : Nat) : Nat := 2 ^ 30 + 64 * seg + c
def keyPacket (phase seg moff : Nat) : Nat := 2 ^ 60 * phase + 2 ^ 20 * seg + moff

/-- The Courier operations of a die on a slot, in the order of acceptance. -/
def State.courierOps (s : State) (die ctx slot : Nat) : List (Nat × Op × CourierWork) :=
  s.ops.filterMap fun e =>
    match e.2.kind with
    | .courier w => if e.2.die = die ∧ e.2.ctx = ctx ∧ w.slot = slot then some (e.1, e.2, w) else none
    | _ => none

/-- A piece staged with its poisoned runs. -/
def CourierWork.stage_ (w : CourierWork) (key : Nat) (data : List Byte) (bad : List (Nat × Nat)) : CourierWork :=
  { w with
    partials := AMap.insert w.partials key data
    poison := (w.poison.filter fun x => x.1 != key) ++ bad.map fun r => (key, r.1, r.2) }

/-- A piece taken out of the Vat. -/
def CourierWork.unstage (w : CourierWork) (key : Nat) : CourierWork :=
  { w with partials := AMap.erase w.partials key, poison := w.poison.filter fun x => x.1 != key }

/-- The poisoned runs of a piece. -/
def CourierWork.runs (w : CourierWork) (key : Nat) : List (Nat × Nat) :=
  (w.poison.filter fun x => x.1 == key).map fun x => (x.2.1, x.2.2)

/-- A rail packet staged; its message's last one makes the segment an incoming partial, or a final one (R325, R392). -/
def CourierWork.railPacket (w : CourierWork) (p : NetPacket) : CourierWork :=
  let phase := p.tag.toNat
  let seg := p.job
  let w1 := w.stage_ (keyPacket phase seg p.moff) p.data p.poison
  let mine := w1.partials.filter fun e => keyPacket phase seg 0 ≤ e.1 && e.1 < keyPacket phase (seg + 1) 0
  if (mine.map fun e => e.2.length).sum < p.len then w1
  else
    let bad := mine.flatMap fun e => (w1.runs e.1).map fun r => (e.1 - keyPacket phase seg 0 + r.1, r.2)
    (mine.foldl (fun w e => w.unstage e.1) w1).stage_ (if phase = 4 then keyRail seg else keyFinal seg) (mine.flatMap (·.2)) bad

/-- The slot and the order of a rail packet's collective (log 15). -/
def railCtx (p : NetPacket) : Nat := p.rkey.toNat / 64
def railSlot (p : NetPacket) : Nat := p.rkey.toNat % 64

/-- A rail packet is of no more use (R392): its collective has ended on the die. -/
def State.railLate (s : State) (die : Nat) (p : NetPacket) : Bool :=
  (s.slot die (railCtx p) (railSlot p)).counts.any fun c =>
    groupCheck c.1 == p.rcoff.toNat % 2 ^ 32 && p.roff < c.2 &&
      !((s.courierOps die (railCtx p) (railSlot p)).any fun e => sameGroup e.2.2.defn c.1 && e.2.2.order == p.roff)

/-- News of a failed die in a group (R334). -/
def isDeadNews (p : NetPacket) : Bool := p.tag.toNat == 7 && (p.data.getD 0 0).toNat == 5

/-- Another package tells of a failed die in a group (R334): every die of this package knows, and the parties that wait at a PBAR of the
group take CDG (R111). -/
def State.hearDead (s : State) (p : NetPacket) : State :=
  let check := p.rcoff.toNat % 2 ^ 32
  let s1 := (List.range 8).foldl (fun s d => s.modSlot d (railCtx p) (railSlot p) fun x => { x with dead := addNew x.dead check }) s
  s1.cdgBars fun b => b.ctx == railCtx p && b.slot == railSlot p && ((s1.slotWords b.die b.ctx b.slot).map groupCheck) == some check

/-- A rail packet enters the Vat (R392), or waits for the die to accept its own operation of the collective; one of a collective that
has ended there is of no use. -/
def State.railArrive (s : State) (die : Nat) (p : NetPacket) : State :=
  let s1 := (s.markSeen die p).sack die p.srcIp
  if isDeadNews p then s1.hearDead p
  else if s.railLate die p then s1 else s1.putDie die { (s1.die die) with rails := (s1.die die).rails ++ [p] }

/-- Poison events for what a READ brings (R389), one for each destination line. -/
def State.reportRead (s : State) (die : Nat) (o : Op) (va : Nat) (runs : List (Nat × Nat)) : State :=
  ((runs.flatMap fun r => (List.range r.2).map fun i => lineOf (va + r.1 + i)).eraseDups).foldl
    (fun s ln => s.postPoison die (max va (ln * 64)) 2 o.ctx) s

/-- A READ's response placed at LADDR (R203, R387, R389): a poisoned line of it poisons the destination's. -/
def State.placeResponse (s : State) (id : Nat) (o : Op) (w : NetWork) (p : NetPacket) : State :=
  let rest := { w with held := w.held.filter (· != p) }
  if mem? p.moff w.got then s.putOp id { o with kind := .net rest }
  else
    let va := (w.laddr + p.moff) % 2 ^ 64
    let r := s.scatterAt id o va p.data fun i => p.poison.any fun x => x.1 ≤ i && i < x.1 + x.2
    r.1.settleNet id r.2.1 w r.2.2 fun s o =>
      let w1 := { rest with got := addNew w.got p.moff }
      (s.reportRead o.die o va p.poison).netFinish id { o with kind := .net w1 } w1

/-- The responses that a READ has received, placed one after another while nothing stops them; `fuel` bounds them. -/
def State.netRun (s : State) (id : Nat) : Nat → State
  | 0 => s
  | n + 1 =>
    s.withOp id fun s o =>
      match o.kind with
      | .net w =>
        if !s.opFree o then s
        else match w.held with
          | p :: _ => (s.placeResponse id o w p).netRun id n
          | [] => s.netFinish id o w
      | _ => s

/-- A READ's response joins its message (R203, R387). -/
def State.readResponse (s : State) (die : Nat) (p : NetPacket) : State :=
  match (s.netOps die).find? fun e => e.2.2.opc == 3 && e.2.2.base == p.msg && s.peerIp (s.die die).net e.2.2.peer == p.srcIp with
  | none => s
  | some (id, o, w) => (s.putOp id { o with kind := .net { w with held := w.held ++ [p] } }).netRun id (w.held.length + 1)

/-- The kinds of packet that the engine supports (R379): WRITE, SEND and READ in RUD, ROD or RUDI with a payload of at most 4,096
bytes, a READ's responses, and the rail's own. -/
def packetSupported (p : NetPacket) : Bool := 1 ≤ p.opc && p.opc ≤ 5 && p.dmode ≤ 2 && p.mtu ≤ 2 && p.data.length ≤ 4096

/-- NET_PACKET_RECEIVE (R376, R379, R380, R382, R386 to R390): a packet that is damaged, of an unsupported kind, a duplicate or beyond
the ROD window, or that meets a full SEND ring, is lost; one that its region does not admit is refused; any other is placed. A gap that it
closes lets ROD packets go that were held. -/
def execNetPacketReceive (die : Nat) (p : NetPacket) (s : State) : Out :=
  let n := (s.die die).net
  let took := fun (s : State) => Host.Outcome.next (s.releaseRod die Config.rodWindow)
  if !bit n.cfg.toNat 63 || !n.up || !p.intact || !packetSupported p || (s.die die).failed then .next s
  else if p.dmode ≠ 2 ∧ s.hasPacket die p then .next s
  else if p.opc = 4 then took (((s.markSeen die p).sack die p.srcIp).readResponse die p)
  else if p.opc = 5 then took (s.railArrive die p)
  else if !(s.region n p.rkey).admits p then took ((s.markSeen die p).refusePacket die p)
  else took (s.acceptPacket die p)

/-! ## ENGINE_OP_COMPLETE -/

/-- ENGINE_OP_COMPLETE (R257): a copy, an STM's report, a combining contribution, a Vat round or a network message's end
runs on as far as it can; Press, Courier and queue operations end by events of their own. -/
def execEngineOpComplete (op : Nat) (s : State) : Out :=
  match AMap.get? s.ops op with
  | none => .next s
  | some o =>
    if !s.opFree o then .next s
    else
      match o.kind with
      | .acp src dst bytes rows spitch dpitch ctr add =>
        let r := s.copyStep op o src.toNat dst.toNat bytes rows spitch dpitch
        .next (r.1.settleOp op r.2.1 r.2.2 (fun s o => if bytes * rows ≤ o.progress then s.bumpAndEnd op o ctr.toNat add else s.putOp op o)
          fun s o code addr => s.failOp op o code addr)
      | .stm .. => .next ((s.stmStart op o).withOp op fun s o => s.stmEnd op o)
      | .comb .. => .next (s.combRun op o)
      | .round fpa => .next (s.roundRun op o fpa)
      | .net w => .next (s.netRun op (w.held.length + 1))
      | .recv _ _ _ _ held => .next ((s.recvRun op (held.length + 3)).releaseRod o.die Config.rodWindow)
      | _ => .next s

end Sys2Proof.Machine
end

