-- ==== Sys2Proof/Machine/Couriers.lean ====
section
/-! DEFINITION. The Couriers and the rings: group slots (R196, R321), the issue of CAG, CRS, CAR and CHAND (R197, R198),
their steps through the Vat (R199, R200, R312, R323 to R327), the ring transfers that carry them (R319, R320), and
CSTAT (R201). -/

namespace Sys2Proof.Machine

/-! ## Group slots -/

/-- What R196 asks of CGRP's registers: reserved bits and absent dimensions zero, then the dimensions. -/
def groupRules (w : List Word) : List FieldRule :=
  let x := (w.getD 0 0).toNat
  let n := bits x 8 2
  let dim := groupDims w
  let st := fun i => (dim.getD i (0, 0)).1
  let ct := fun i => (dim.getD i (0, 0)).2
  [ { regs := [0], ok := bits x 10 22 == 0 && bits x 6 2 == 0, reason := 1 },
    { regs := [0, 4], ok := 2 ≤ n || w.getD 4 0 == 0, reason := 1 },
    { regs := [0, 5], ok := 2 ≤ n || w.getD 5 0 == 0, reason := 1 },
    { regs := [0, 6], ok := 3 ≤ n || w.getD 6 0 == 0, reason := 1 },
    { regs := [0, 7], ok := 3 ≤ n || w.getD 7 0 == 0, reason := 1 },
    { regs := [0, 2], ok := n < 1 || 1 ≤ st 0, reason := 3 },
    { regs := [0, 3], ok := n < 1 || (1 ≤ ct 0 && ct 0 ≤ 65536), reason := 3 },
    { regs := [0, 4], ok := n < 2 || 1 ≤ st 1, reason := 3 },
    { regs := [0, 5], ok := n < 2 || (1 ≤ ct 1 && ct 1 ≤ 65536), reason := 3 },
    { regs := [0, 6], ok := n < 3 || 1 ≤ st 2, reason := 3 },
    { regs := [0, 7], ok := n < 3 || (1 ≤ ct 2 && ct 2 ≤ 65536), reason := 3 },
    { regs := [0, 2, 3, 4], ok := n < 2 || st 0 * ct 0 ≤ st 1, reason := 3 },
    { regs := [0, 4, 5, 6], ok := n < 3 || st 1 * ct 1 ≤ st 2, reason := 3 },
    { regs := List.range (2 * n + 2), ok := n < 1 || (groupSize w ≤ 2 ^ 20 && groupRank w (groupSize w - 1) < 2 ^ 32), reason := 3 } ]

/-- CGRP's registers satisfy R196. -/
def groupWordsOk (w : List Word) : Bool := (groupRules w).all (·.ok)

/-- A slot defined anew or cleared (R196): the collectives on it are counted by definition, so that every rank that defines a group has the
same numbers for them (R197, log 82). -/
def Slot.define (x : Slot) (w : List Word) : Slot := { x with words := if bits (w.getD 0 0).toNat 8 2 = 0 then [] else w }

/-- CSTAT's two words (R201). -/
def State.courierStatus (s : State) (d ctx k : Nat) : Word × Word :=
  let x := s.slot d ctx k
  (BitVec.ofNat 32 (2 ^ 24 * b2n (!x.words.isEmpty) + 2 ^ 23 * b2n s.wrapped + 2 ^ 16 * x.lastErr + 2 ^ 8 * s.deadMask.toNat
      + min 255 (s.courierOps d ctx k).length),
    BitVec.ofNat 32 (min (s.die d).replays 0xFFFFFFFF))

/-- CSTAT (R201), class V; reading clears LASTERR. While a wrap is pending it waits, as R336's final state has it (DEDUCED, log 104). -/
def execCstat (d a : BitVec 7) (f : BitVec 1) (s : State) : Out :=
  match s.current with
  | none => .next s
  | some c =>
    if 255 ≤ c.party.cfCount (c.party.coverFlag f) || s.wrapNext.isSome then .next s
    else
      let x := (c.party.ureg a.toNat).toNat
      let ill := need (bits x 6 26 == 0) (Trap.ill 1)
      match checkRegs (c.env s) c.party [.u a.toNat] ill [.up d.toNat, .u a.toNat] with
      | .error tr => .next (s.takeTrap c.tid c.pi tr)
      | .ok _ =>
        let r := s.courierStatus c.task.die c.task.ctx x
        let v := (VResult.loads [] [c.party.uwrite d.toNat r.1, c.party.uwrite (d.toNat + 1) r.2]).pending s.nextId
          (c.party.coverFlag f)
        let s1 := s.modSlot c.task.die c.task.ctx x fun y => { y with lastErr := 0 }
        .next ({ s1 with nextId := s.nextId + 1 }.modParty c.tid c.pi fun p => (p.addPending v).advance 1)

/-! ## Issue (R198) -/

/-- The dies of this package in a group, in logical order; a local index is a place in this list (R199). -/
def State.courierRing (s : State) (w : CourierWork) : List Nat := groupDies w.defn s.pkg
def State.localIndex (s : State) (o : Op) (w : CourierWork) : Nat := (s.courierRing w).findIdx fun d => d == o.die

/-- What R198 asks of a Courier instruction's block at issue: the descriptor's own fields, then the group's. -/
def State.courierRules (s : State) (c : Exec) (kind : Nat) (w : List Word) : List FieldRule :=
  let x := (w.getD 5 0).toNat
  let n := (w.getD 4 0).toNat
  let fmt := bits x 8 3
  let def? := s.slotWords c.task.die c.task.ctx (bits x 0 6)
  let g := def?.getD []
  let rank := s.rankOf g c.task.die
  [ { regs := [5], ok := bits x 20 12 == 0 && bits x 14 2 == 0 && (kind == 3 || bits x 16 4 == 0), reason := 1 },
    { regs := [5], ok := (kind != 0 && kind != 3) || bits x 11 3 == 0, reason := 1 },
    { regs := [5], ok := bits x 11 3 ≤ 2 && fmt ≤ 4 && bits x 6 2 != 3, reason := 3 },
    { regs := [4], ok := 4 ≤ n && n ≤ 2 ^ 30, reason := 3 },
    { regs := [4, 5], ok := n % elemBytes fmt == 0, reason := 3 },
    { regs := [5], ok := !(fmt == 4 && (kind == 1 || kind == 2)), reason := 3 },
    { regs := [5], ok := def?.isSome && rank.isSome, reason := 3 },
    { regs := [5], ok := kind == 2 || !groupSpans g, reason := 3 },
    { regs := [5], ok := kind != 2 || (groupPkgs g).all fun p => groupDies g p == groupDies g s.pkg, reason := 3 },
    { regs := [5], ok := !(kind == 3 && c.task.stage == 15), reason := 4 },
    { regs := [5], ok := kind != 3 || (bits x 16 4 == c.task.stage + 1 && rank.getD 0 + 1 != groupSize g), reason := 3 } ]

/-- A Courier instruction's operation, its slot as it stands (R198). -/
def State.courierWork (s : State) (c : Exec) (kind : Nat) (w : List Word) : CourierWork :=
  let x := (w.getD 5 0).toNat
  let k := bits x 0 6
  let g := (s.slotWords c.task.die c.task.ctx k).getD []
  { kind := kind, src := pairAt w 0, dst := pairAt w 2, chunk := (w.getD 4 0).toNat, stage := bits x 16 4
    op := bits x 11 3, format := bits x 8 3, ring := bits x 6 2, slot := k, actr := pairAt w 6, defn := g
    rank := (s.rankOf g c.task.die).getD 0, order := (s.slot c.task.die c.task.ctx k).count g, step := 0, partials := [], poison := []
    got := [], segs := [], formed := [], cut := [], aborted := [], railed := false, error := 0, failAddr := 0 }

/-- The issue of a Courier instruction: its checks, then a collective takes the slot's next number (R197, R198). -/
def State.runCourier (s : State) (kind : Nat) (a : BitVec 7) : Out :=
  s.runExec fun c => do
    let b := c.party.ublock a.toNat 8
    checkBlock (c.env s) c.party a.toNat 8 (s.courierRules c kind b)
    need ((pairAt b 6).toNat % 8 == 0) (Trap.aln 0 .atomic)
    let w := s.courierWork c kind b
    need (!s.groupDead c.task.die c.task.ctx w.slot w.defn) (Trap.cdg (s.deadMask.toNat + 2 ^ 8 * w.slot))
    let s1 := if kind = 3 then s else s.modSlot c.task.die c.task.ctx w.slot fun x => x.accept w.defn
    pure (s1.issueOp c (.courier w))

def execCag (a : BitVec 7) (s : State) : Out := s.runCourier 0 a
def execCrs (a : BitVec 7) (s : State) : Out := s.runCourier 1 a
def execCar (a : BitVec 7) (s : State) : Out := s.runCourier 2 a
def execChand (a : BitVec 7) (s : State) : Out := s.runCourier 3 a

/-! ## Ring transfers (R319, R320) -/

/-- The check values that a transfer carries: of the group's definition, and of the operation (R197). -/
def CourierWork.check (w : CourierWork) : BitVec 64 :=
  let op := leBytes 4 w.chunk ++ leBytes 4 w.kind ++ leBytes 4 w.format ++ leBytes 4 w.op
  BitVec.ofNat 64 (2 ^ 32 * crc32c op + groupCheck w.defn)

/-- The segments of a chunk (R323). -/
def CourierWork.segments (w : CourierWork) : List Nat := List.range ((w.chunk + Config.segmentBytes - 1) / Config.segmentBytes)

/-- A segment sent to another die of this package, held until it has arrived (R319, R320). -/
def State.sendSeg (s : State) (id : Nat) (o : Op) (w : CourierWork) (phase dst chunk seg : Nat) (data : List Byte)
    (bad : List (Nat × Nat)) : State :=
  { s with
    nextId := s.nextId + 1
    xfers := AMap.insert s.xfers s.nextId
      { op := id, src := o.die, dst := dst, ctx := o.ctx, slot := w.slot, order := w.order, ring := w.ring, phase := phase,
        chunk := chunk, seg := seg, check := w.check, data := data, poison := bad, rail := false } }

/-- The dies that a transfer passes on ring A of a wrapped path from position `x` to `y`, and on ring B (R319, R332). -/
def wrappedA (p : List Nat) (x y : Nat) : List Nat :=
  if x ≤ y then (p.drop (x + 1)).take (y - x) else p.drop (x + 1) ++ ((p.take (p.length - 1)).drop y).reverse
def wrappedB (p : List Nat) (x y : Nat) : List Nat :=
  if y ≤ x then ((p.take x).drop y).reverse else (p.take x).reverse ++ (p.drop 1).take y

/-- The shorter of two routes, the first on a tie. -/
def shorter (a b : List Nat) : List Nat := if a.length ≤ b.length then a else b

/-- The dies that a transfer passes, its destination last (R319). -/
def State.route (s : State) (src dst ring phase : Nat) : List Nat :=
  let a := (List.range ((dst + 8 - src) % 8)).map fun i => (src + 1 + i) % 8
  let b := (List.range ((src + 8 - dst) % 8)).map fun i => (src + 7 - i) % 8
  if s.wrapped then
    match s.pathPos src, s.pathPos dst with
    | some x, some y => shorter (wrappedA s.path x y) (wrappedB s.path x y)
    | _, _ => [dst]
  else if ring = 1 then b
  else if ring = 2 ∧ phase ≠ 1 then shorter a b
  else a

/-- Two dies stand next to each other on a path. -/
def adjacent (p : List Nat) (x y : Nat) : Bool := ((p.zip (p.drop 1)).any fun e => e == (x, y) || e == (y, x))

/-- The links of a route are whole: while a wrap is pending, only those that it keeps are. -/
def State.linksOk (s : State) : Nat → List Nat → Bool
  | _, [] => true
  | x, y :: r =>
    (match s.wrapNext with
      | some n => adjacent n.2 x y
      | none => !(s.die x).failed && !(s.die y).failed) && s.linksOk y r

/-- A transfer can arrive (R331, R333): its route crosses no break, and its ends work. -/
def State.xferOpen (s : State) (x : Xfer) : Bool :=
  !(s.die x.src).failed && !(s.die x.dst).failed && s.linksOk x.src (s.route x.src x.dst x.ring x.phase)

/-! ## Ends -/

/-- The packages of a collective, and the place of this one. -/
def State.railPkgs (s : State) (w : CourierWork) : List Nat := if w.kind = 2 then groupPkgs w.defn else [s.pkg]
def State.railIndex (s : State) (w : CourierWork) : Nat := (s.railPkgs w).findIdx fun p => p == s.pkg

/-- A rank's operation ends (R200, R201): with an error it records LASTERR and posts an event. -/
def State.courierEnd (s : State) (id : Nat) (o : Op) (w : CourierWork) (code addr : Nat) : State :=
  let s1 := s.publish id o
  let s2 := if code = 0 || (s.die o.die).failed then s1
    else (s1.modSlot o.die o.ctx w.slot fun x => { x with lastErr := code }).postEngineError o.die 3 code o.ctx addr o.frame
  s2.endOp id o (code != 0)

/-- How many chunks of DST a rank receives (R199). -/
def State.dstChunks (s : State) (w : CourierWork) : Nat := if w.kind = 1 ∨ w.kind = 3 then 1 else (s.courierRing w).length

/-- DST of a rank whose operation ends with OPMISMATCH or DEADRANK (R197, R200): a free value says of each line whether it stays as it is,
or what the operation could have written there (log 87). -/
def State.courierMuddle (s : State) (id : Nat) (o : Op) (w : CourierWork) : State × Op :=
  let bytes := (List.range (w.chunk * s.dstChunks w)).map fun i => Config.freeByte (freeIndex s.fresh (2 ^ 57 + i))
  (linePieces w.dst.toNat bytes).foldl (fun r x =>
    if Config.freeBit (freeIndex s.fresh (2 ^ 57 + x.1)) then
      let q := r.1.scatterAt id r.2 x.1 x.2 fun _ => false
      (q.1, q.2.1)
    else r) (s, o)

/-- A rank's operation ends with an error that the whole collective meets. -/
def State.courierStop (s : State) (id : Nat) (o : Op) (w : CourierWork) (code addr : Nat) : State :=
  let r := if (code = 2 ∨ code = 5) ∧ !(s.die o.die).failed then s.courierMuddle id o w else (s, o)
  r.1.courierEnd id r.2 w code addr

/-- An operation's turn on its slot has come (R327). -/
def State.courierHead (s : State) (e : Nat × Op × CourierWork) : Bool :=
  !(s.die e.2.1.die).failed && (s.courierOps e.2.1.die e.2.1.ctx e.2.2.slot).head?.map (·.1) == some e.1

/-- The operation of a die that is matched with another's (R197): the one of the same number under the same definition; or one under another
definition that names the other die too, where neither has accepted the operation that the other's would be matched with. -/
def State.courierMate (s : State) (d : Nat) (o : Op) (w : CourierWork) : Option (Nat × Op × CourierWork) :=
  (s.courierOps d o.ctx w.slot).find? fun e => e.2.2.kind != 3 &&
    if sameGroup e.2.2.defn w.defn then e.2.2.order == w.order
    else mem? o.die (s.courierRing e.2.2) && decide ((s.slot o.die o.ctx w.slot).count e.2.2.defn ≤ e.2.2.order)
      && decide ((s.slot d o.ctx w.slot).count w.defn ≤ w.order)

/-- The dies of this package that an operation has to do with: its own ranks, and those that the others' definitions name. -/
def State.courierDies (s : State) (o : Op) (w : CourierWork) : List Nat :=
  let mine := s.courierRing w
  let theirs := mine.flatMap fun d => ((s.courierMate d o w).map fun e => s.courierRing e.2.2).getD []
  (List.range 8).filter fun d => mem? d mine || mem? d theirs

/-- The operations of its collective on this package. -/
def State.courierMembers (s : State) (o : Op) (w : CourierWork) : List (Nat × Op × CourierWork) :=
  (s.courierDies o w).filterMap fun d => s.courierMate d o w

/-- A message of a die's network engine that carries a transfer over the rail to a package (R325, R392). -/
def State.railMessage (s : State) (id : Nat) (o : Op) (w : CourierWork) (phase pkg seg : Nat) (data : List Byte)
    (bad : List (Nat × Nat)) : State :=
  let peer := s.railPeer (s.die o.die).net o.ctx pkg
  let x : Xfer :=
    { op := id, src := o.die, dst := pkg, ctx := o.ctx, slot := w.slot, order := w.order, ring := w.ring, phase := phase
      chunk := s.localIndex o w, seg := seg, check := w.check, data := data, poison := bad, rail := true }
  let words := [0x220005#32, 0, 0, 0, 0, 0, BitVec.ofNat 32 s.nextId, BitVec.ofNat 32 data.length, BitVec.ofNat 32 peer]
  let n := Op.start (.net { words := words, peer := peer, reply := none, base := 0, count := packetsOf data.length 4096, acked := [], got := []
                            held := [] }) .network o.ctx o.die 0 o.frame s.allSeen
  ({ s with nextId := s.nextId + 2, xfers := AMap.insert s.xfers s.nextId x }.putOp (s.nextId + 1) n).netAccept (s.nextId + 1)

/-- A mark that an operation's rail has failed (R325): its Courier meets it at its next step. -/
def State.railFailed (s : State) (id : Nat) (o : Op) (w : CourierWork) : State :=
  { s with
    nextId := s.nextId + 1
    xfers := AMap.insert s.xfers s.nextId
      { op := id, src := o.die, dst := 0, ctx := o.ctx, slot := w.slot, order := w.order, ring := w.ring, phase := 9, chunk := 0, seg := 0
        check := w.check, data := [], poison := [], rail := true } }

/-- A segment sent over the rail. A peer that the rail table does not name fails the collective, and the engine records it (R325, R390,
R393). -/
def State.railSend (s : State) (id : Nat) (o : Op) (w : CourierWork) (phase pkg seg : Nat) (data : List Byte)
    (bad : List (Nat × Nat)) : State :=
  if s.railPeer (s.die o.die).net o.ctx pkg ≤ 4095 then s.railMessage id o w phase pkg seg data bad
  else ((s.modNet o.die fun n => { n with lastErr := 3 }).postEngineError o.die 4 3 o.ctx 0 o.frame).railFailed id o w

/-- A die can send to a package over its rail. -/
def State.railOpen (s : State) (d ctx pkg : Nat) : Bool :=
  let n := (s.die d).net
  !(s.die d).failed && bit n.cfg.toNat 63 && decide (s.railPeer n ctx pkg ≤ 4095) && s.peerValid n (s.railPeer n ctx pkg)

/-- The other packages hear over every rail that an operation has ended with an error (R325, R334, log 16). -/
def State.tellRails (s : State) (id : Nat) (o : Op) (w : CourierWork) (code : Nat) : State :=
  ((s.railPkgs w).filter (· != s.pkg)).foldl (fun s q =>
    ((s.courierRing w).filter fun d => s.railOpen d o.ctx q).foldl (fun s d =>
      s.railMessage id { o with die := d } w 7 q 0 [BitVec.ofNat 8 code] []) s) s

/-- The other packages of a group that spans them hear that it contains a failed die of this one (R334). -/
def State.tellDead (s : State) (d ctx slot : Nat) : State :=
  match s.slotWords d ctx slot with
  | none => s
  | some g =>
    if !groupSpans g || !(groupDies g s.pkg).any (fun d => (s.die d).detected) then s
    else
      let w : CourierWork :=
        { kind := 2, src := 0, dst := 0, chunk := 0, stage := 0, op := 0, format := 0, ring := 0, slot := slot, actr := 0, defn := g, rank := 0
          order := 0, step := 0, partials := [], poison := [], got := [], segs := [], formed := [], cut := [], aborted := [], railed := false
          error := 0, failAddr := 0 }
      s.tellRails s.nextId (Op.start (.courier w) .network ctx d 0 0 s.allSeen) w 5

/-- CGRP (R196): defines or clears a slot; it stalls while this die has operations outstanding on it. -/
def execCgrp (a : BitVec 7) (s : State) : Out :=
  s.runExec fun c => do
    let w := c.party.ublock a.toNat 8
    checkBlock (c.env s) c.party a.toNat 8 (groupRules w)
    let k := bits (w.getD 0 0).toNat 0 6
    if !(s.courierOps c.task.die c.task.ctx k).isEmpty then pure s
    else
      let s1 := s.modSlot c.task.die c.task.ctx k fun x => x.define w
      pure ((s1.tellDead c.task.die c.task.ctx k).retire c 1)

/-- A collective ends with an error on every rank (R197, R200, R325): those whose turn has come end now, the others when it comes, those that
have not issued when they issue, and those of other packages, which tell the rest in turn, when they hear of it (log 16). With a failed die
none waits for its turn (R334). -/
def State.courierFailAll (s : State) (id : Nat) (o : Op) (w : CourierWork) (code addr : Nat) : State :=
  let dies := s.courierDies o w
  let members := s.courierMembers o w
  let now := members.filter fun e => code == 5 || s.courierHead e
  let note := fun (d : Nat) =>
    if code == 5 || (s.die d).failed || now.any (fun e => e.2.1.die == d) then none
    else
      match members.find? fun e => e.2.1.die == d with
      | some e => some (d, e.2.2.defn, e.2.2.order)
      | none => if (s.slot d o.ctx w.slot).count w.defn ≤ w.order then some (d, w.defn, w.order) else none
  let mine := fun (x : Xfer) =>
    x.ctx == o.ctx && x.slot == w.slot && x.order == w.order && x.check == w.check && x.phase != 3 && !x.rail && mem? x.src dies
  let s1 := s.tellRails id o w code
  let s2 := { s1 with xfers := s1.xfers.filter fun e => !mine e.2 }
  let s3 := now.foldl (fun s e => s.courierStop e.1 e.2.1 e.2.2 code addr) s2
  (dies.filterMap note).foldl (fun s x => s.modSlot x.1 o.ctx w.slot fun y => { y with ended := y.ended ++ [(x.2.1, x.2.2, code)] }) s3

/-- An operation whose source or rail fails: CHAND ends alone, a collective on every rank, since none can have its result
(R200, R325, log 16). -/
def State.courierFail (s : State) (id : Nat) (o : Op) (w : CourierWork) (code addr : Nat) : State :=
  let o1 := { o with twins := [] }
  let s1 := (s.publish id o).putOp id o1
  if w.kind = 3 then { s1 with xfers := s1.xfers.filter fun e => e.2.op != id }.courierStop id o1 w code addr
  else s1.courierFailAll id o1 w code addr

/-- A write to DST, or a bump, that fails ends this rank's operation with FAULT (R200, log 16): it writes and bumps nothing
more, and still passes on what the other ranks need. -/
def State.courierSpoil (s : State) (id : Nat) (o : Op) (w : CourierWork) (addr : Nat) : State :=
  let w1 := { w with error := 3, failAddr := BitVec.ofNat 64 addr }
  (s.publish id o).putOp id { o with twins := [], kind := .courier w1 }

/-- A translation fault of an operation, by what it was doing (R200, log 16). -/
def State.courierFault (s : State) (id : Nat) (o : Op) (w : CourierWork) (addr : Nat) : State :=
  if w.kind = 3 ∨ w.step ≤ 1 then s.courierFail id o w 3 addr else s.courierSpoil id o w addr

/-! ## Beginning (R197, R323, R326, R327) -/

/-- Runs of bytes cut to a window and counted from its start. -/
def clipRuns (l : List (Nat × Nat)) (lo n : Nat) : List (Nat × Nat) :=
  l.filterMap fun r =>
    let a := max r.1 lo
    let b := min (r.1 + r.2) (lo + n)
    if a < b then some (a - lo, b - a) else none

/-- How many chunks SRC holds (R199). -/
def State.srcChunks (s : State) (w : CourierWork) : Nat := if w.kind = 0 ∨ w.kind = 3 then 1 else (s.courierRing w).length

/-- SRC read and staged, with the poison of its lines (R200, R324). -/
def State.courierRead (s : State) (id : Nat) (o : Op) (w : CourierWork) : State :=
  let n := w.chunk * s.srcChunks w
  let r := s.gatherAt id o w.src.toNat n
  match r.2.2 with
  | .go =>
    let runs := r.2.1.map fun a => ((a + 2 ^ 64 - w.src.toNat) % 2 ^ 64, 64 - a % 64)
    let w1 := (List.range (s.srcChunks w)).foldl (fun w c =>
      w.stage_ c (sliceBytes r.1 (w.chunk * c) w.chunk) (clipRuns runs (w.chunk * c) w.chunk)) w
    let w2 := { w1 with step := 1, error := if r.2.1.isEmpty then 0 else 4 }
    (s.reportBad o r.2.1).putOp id { o with kind := .courier w2 }
  | g => s.settleOp id o g (fun s _ => s) fun s o _ a => s.courierFault id o w a

/-- A piece staged in the Vat. -/
def CourierWork.piece (w : CourierWork) (key : Nat) : List Byte := w.partials.getD key []

/-- A segment of a chunk of SRC, with its poisoned runs (R323). -/
def CourierWork.srcSeg (w : CourierWork) (c seg : Nat) : List Byte × List (Nat × Nat) :=
  let lo := Config.segmentBytes * seg
  let n := min Config.segmentBytes (w.chunk - lo)
  (sliceBytes (w.piece c) lo n, clipRuns (w.runs c) lo n)

/-- A segment sent to every other rank of the package (R319, R323, R325). -/
def State.sendAll (s : State) (id : Nat) (o : Op) (w : CourierWork) (chunk seg : Nat) (data : List Byte) (bad : List (Nat × Nat)) :
    State :=
  ((s.courierRing w).filter (· != o.die)).foldl (fun s d => s.sendSeg id o w 2 d chunk seg data bad) s

/-- The die of an operation's local successor, and of its predecessor. -/
def State.successor (s : State) (o : Op) (w : CourierWork) : Nat :=
  (s.courierRing w).getD ((s.localIndex o w + 1) % (s.courierRing w).length) o.die
def State.courierPrev (s : State) (o : Op) (w : CourierWork) : Nat :=
  (s.courierRing w).getD ((s.localIndex o w + (s.courierRing w).length - 1) % (s.courierRing w).length) o.die

/-- A segment of a rank's data begins to move (R323, R326). -/
def State.beginSeg (s : State) (id : Nat) (o : Op) (w : CourierWork) (seg : Nat) : State :=
  s.withOp id fun s o' =>
    match o'.kind with
    | .courier v =>
      let n := (s.courierRing w).length
      let j := s.localIndex o w
      let put := fun (s : State) (v : CourierWork) => s.putOp id { o' with kind := .courier v }
      let own := w.srcSeg 0 seg
      if w.kind = 0 then (put s (v.stage_ (keyGather j seg) own.1 own.2)).sendAll id o w j seg own.1 own.2
      else if w.kind = 3 then s.sendSeg id o w 3 (groupRank w.defn (w.rank + 1) % 8) 0 seg own.1 own.2
      else if n ≤ 1 then put s (v.stage_ (keyResult seg) own.1 own.2)
      else
        let c := (j + n - 1) % n
        s.sendSeg id o w 1 (s.successor o w) c seg (w.srcSeg c seg).1 (w.srcSeg c seg).2
    | _ => s

/-- A rank's data begins to move. -/
def State.courierBegin (s : State) (e : Nat × Op × CourierWork) : State :=
  e.2.2.segments.foldl (fun s k => s.beginSeg e.1 e.2.1 e.2.2 k) (s.putOp e.1 { e.2.1 with kind := .courier { e.2.2 with step := 2 } })

/-- What ranks must agree on beside the definition of the group (R197). -/
def CourierWork.same (a b : CourierWork) : Bool :=
  a.kind == b.kind && a.chunk == b.chunk && a.format == b.format && a.op == b.op

/-- A collective begins once every rank of the package is ready. It ends on every rank as soon as two definitions differ, and where all
have come and the operations differ (R197). -/
def State.courierStart (s : State) (id : Nat) (o : Op) (w : CourierWork) : State :=
  if w.kind = 3 then s.courierBegin (id, o, w)
  else
    let l := (s.courierMembers o w).filter s.courierHead
    if l.any fun e => !sameGroup e.2.2.defn w.defn then s.courierFailAll id o w 1 w.dst.toNat
    else if !((s.courierDies o w).all fun d => l.any fun e => e.2.1.die == d) then s
    else if l.any fun e => !e.2.2.same w then s.courierFailAll id o w 2 w.dst.toNat
    else if l.all fun e => e.2.2.step == 1 then l.foldl State.courierBegin s
    else s

/-! ## Steps (R323 to R325) -/

/-- What a Courier can do next for an operation: form a step, send a final segment, write one to DST, take a reduced one on, bump a
counter. -/
inductive CourierTask where
  | form (c seg : Nat)
  | final (seg : Nat)
  | gather (c seg : Nat)
  | result (seg : Nat)
  | bump (c : Nat)
  deriving DecidableEq, Repr

/-- A chunk of DST has been written whole. -/
def CourierWork.wrote (w : CourierWork) (c : Nat) : Bool := w.segments.all fun k => w.segs.any fun x => x == (c, k)

/-- A step may be formed: the rank's step before it has been, for the segment (R323). -/
def State.formable (s : State) (o : Op) (w : CourierWork) (c seg : Nat) : Bool :=
  let n := (s.courierRing w).length
  (c + 2) % n == s.localIndex o w || w.formed.any fun x => x == ((c + 1) % n, seg)

/-- The pieces that can be worked on now, and the counters that can be bumped (R312, R325); those of chunks written to shadow pages only
after every chunk and the publication (R258). -/
def State.courierTasks (s : State) (o : Op) (w : CourierWork) : List CourierTask :=
  let pieces := w.partials.filterMap fun e =>
    let seg := e.1 / 64
    let k := e.1 % 64
    if 2 ^ 30 ≤ e.1 ∨ k < 16 then none
    else if k < 32 then (if s.formable o w (k - 16) seg then some (.form (k - 16) seg) else none)
    else if k < 48 then some (.gather (k - 32) seg)
    else if k = 50 then some (.final seg)
    else if k = 48 ∧ (w.kind ≠ 2 ∨ s.railIndex w = 0 ∨ w.partials.any (fun x => x.1 == keyRail seg)) then some (.result seg)
    else none
  let all := List.range (s.dstChunks w)
  let bumps := if o.twins.isEmpty || all.all w.wrote then (all.filter fun c => w.wrote c && !mem? c w.got).map CourierTask.bump else []
  pieces ++ bumps

/-- A segment written to DST, once (R199, R200). -/
def State.courierCommit (s : State) (id : Nat) (o : Op) (w : CourierWork) (key c seg off : Nat) : State :=
  let runs := w.runs key
  let wrote := fun (w : CourierWork) => { (w.unstage key).unstage (keyKept (s.localIndex o w) seg) with segs := w.segs ++ [(c, seg)] }
  if w.error = 3 then s.putOp id { o with kind := .courier (wrote w) }
  else
    let r := s.scatterAt id o ((w.dst.toNat + off + Config.segmentBytes * seg) % 2 ^ 64) (w.piece key) fun i =>
      runs.any fun x => x.1 ≤ i && i < x.1 + x.2
    r.1.settleOp id r.2.1 r.2.2 (fun s o =>
      s.putOp id { o with kind := .courier { wrote w with error := if runs.isEmpty then w.error else 4 } }) fun s o _ a =>
        s.courierFault id o w a

/-- A step formed in the Vat (R323, R324): its result goes to the successor, or is this rank's reduced chunk. The operand stays staged
until the result is acknowledged. A step that a wrap aborted counts as replayed (R335). -/
def State.courierForm (s : State) (id : Nat) (o : Op) (w : CourierWork) (c seg : Nat) : State :=
  let key := keyPartial c seg
  let own := w.srcSeg c seg
  let sum := combineBytes w.op w.format (w.piece key) own.1
  let runs := w.runs key ++ own.2
  let again := w.aborted.any fun x => x.1 == c
  let s1 := if again then s.putDie o.die { (s.die o.die) with replays := (s.die o.die).replays + 1 } else s
  let w1 := { (w.stage_ (keyKept c seg) (w.piece key) (w.runs key)).unstage key with
    formed := w.formed ++ [(c, seg)], aborted := w.aborted.filter fun x => x.1 != c }
  if c = s.localIndex o w then s1.putOp id { o with kind := .courier (w1.stage_ (keyResult seg) sum runs) }
  else (s1.putOp id { o with kind := .courier w1 }).sendSeg id o w 1 (s.successor o w) c seg sum runs

/-- The rail messages that a reduced segment of a CAR takes, and that the die's engine has no room for them (R384). -/
def State.railsFull (s : State) (o : Op) (w : CourierWork) : Bool :=
  let n := (s.railPkgs w).length
  let need := if s.railIndex w + 1 < n then 1 else n - 1
  need != 0 && decide (Config.maxMessages < (s.outstanding o.die).length + need)

/-- A reduced segment goes on: to DST for CRS; for CAR over the rails, and in the last package back (R325), once the die's engine has room
for the messages (R384). -/
def State.courierResult (s : State) (id : Nat) (o : Op) (w : CourierWork) (seg : Nat) : State :=
  let key := keyResult seg
  if w.kind = 1 then s.courierCommit id o w key 0 seg 0
  else if s.railsFull o w then s
  else
    let pkgs := s.railPkgs w
    let p := s.railIndex w
    let rail := w.piece (keyRail seg)
    let z := if p = 0 then w.piece key else combineBytes w.op w.format rail (w.piece key)
    let runs := (if p = 0 then [] else w.runs (keyRail seg)) ++ w.runs key
    let w1 := { ((w.unstage key).unstage (keyRail seg)).unstage (keyKept (s.localIndex o w) seg) with railed := true }
    let put := fun (s : State) (w : CourierWork) => s.putOp id { o with kind := .courier w }
    if p + 1 < pkgs.length then (put s w1).railSend id o w 4 (pkgs.getD (p + 1) 0) seg z runs
    else
      (pkgs.filter (· != s.pkg)).foldl (fun s q => s.railSend id o w 5 q seg z runs) (put s (w1.stage_ (keyFinal seg) z runs))

/-- A counter bumped once its chunk is written and published (R199, R258, R312). -/
def State.courierBump (s : State) (id : Nat) (o : Op) (w : CourierWork) (c : Nat) : State :=
  let counted := { w with got := w.got ++ [c] }
  if w.error = 3 then s.putOp id { o with kind := .courier counted }
  else
    let r := s.publishBump id o (if w.actr = 0#64 then 0 else (w.actr.toNat + 8 * c) % 2 ^ 64) 1
    r.1.settleOp id r.2.1 r.2.2 (fun s o => s.putOp id { o with kind := .courier counted }) fun s o _ a => s.courierFault id o w a

/-- One piece of work done. -/
def State.courierDo (s : State) (id : Nat) (o : Op) (w : CourierWork) (t : CourierTask) : State :=
  match t with
  | .form c seg => s.courierForm id o w c seg
  | .gather c seg => s.courierCommit id o w (keyGather c seg) c seg (c * w.chunk)
  | .result seg => s.courierResult id o w seg
  | .bump c => s.courierBump id o w c
  | .final seg =>
    let j := s.localIndex o w
    let data := w.piece (keyFinal seg)
    let bad := w.runs (keyFinal seg)
    (s.putOp id { o with kind := .courier ((w.unstage (keyFinal seg)).stage_ (keyGather j seg) data bad) }).sendAll id o w j seg data bad

/-- A rail message of an operation's collective, from any die of the package. -/
def Xfer.railOf (x : Xfer) (o : Op) (w : CourierWork) : Bool :=
  x.rail && x.phase != 7 && x.ctx == o.ctx && x.slot == w.slot && x.order == w.order && x.check == w.check

/-- An operation with nothing left to do ends: every counter is bumped, and no rail message of the collective can fail any more (R200,
R392). -/
def State.courierDone (s : State) (id : Nat) (o : Op) (w : CourierWork) : State :=
  if w.got.length = s.dstChunks w ∧ !(s.xfers.any fun e => e.2.railOf o w) then
    s.courierEnd id o w w.error (if w.error = 3 then w.failAddr else w.dst).toNat
  else s

/-- A rail packet that has come for an operation (R392): the check values differ, or it tells of an end with an error, or it is staged. -/
def State.courierRail (s : State) (id : Nat) (o : Op) (w : CourierWork) (p : NetPacket) : State :=
  let d := s.die o.die
  let s1 := s.putDie o.die { d with rails := d.rails.filter fun x => x != p }
  let check := w.check.toNat
  if p.tag.toNat = 7 then s1.courierFailAll id o w ((p.data.getD 0 0).toNat % 16) w.dst.toNat
  else if p.rcoff.toNat % 2 ^ 32 ≠ check % 2 ^ 32 then s1.courierFailAll id o w 1 w.dst.toNat
  else if p.rcoff.toNat / 2 ^ 32 ≠ check / 2 ^ 32 then s1.courierFailAll id o w 2 w.dst.toNat
  else s1.putOp id { o with kind := .courier (w.railPacket p) }

/-- The end with an error that a die's own operation of a collective meets (R197): the one noted for it; or, where definitions differed and
it issues under another one, the one noted for the operation it is matched with. -/
def State.courierEnded (s : State) (o : Op) (w : CourierWork) : Option (List Word × Nat × Nat) :=
  let x := s.slot o.die o.ctx w.slot
  if w.kind = 3 then none
  else x.ended.find? fun e =>
    if sameGroup e.1 w.defn then e.2.1 == w.order
    else e.2.2 == 1 && decide (x.count e.1 ≤ e.2.1) && (groupDies e.1 s.pkg).any fun d => d != o.die && mem? d (s.courierRing w)

/-- A rail packet that has come for an operation (R325, R392): of its own number, and of its definition unless it is news of an error, or the
operation has sent nothing yet. -/
def State.courierPacket (s : State) (o : Op) (w : CourierWork) : Option NetPacket :=
  (s.die o.die).rails.find? fun p => w.kind == 2 && railCtx p == o.ctx && railSlot p == w.slot && p.roff == w.order &&
    (p.rcoff.toNat % 2 ^ 32 == groupCheck w.defn || p.tag.toNat == 7 || !w.railed)

/-- One step of an operation whose turn on its slot has come (R327), unless its group is known to hold a failed die (R334); of several pieces that can be worked on, a free value picks one
(R312). -/
def State.courierAct (s : State) (id : Nat) (o : Op) (w : CourierWork) : State :=
  if s.slotDead o.die o.ctx w.slot w.defn then s.courierFail id o w 5 w.dst.toNat
  else if !s.courierHead (id, o, w) then s
  else
    match s.courierEnded o w, s.courierPacket o w with
    | some x, _ =>
      (s.modSlot o.die o.ctx w.slot fun y => { y with ended := y.ended.filter (· != x) }).courierStop id o w x.2.2 w.dst.toNat
    | none, some p => s.courierRail id o w p
    | none, none =>
      if s.xfers.any fun e => e.2.op == id && e.2.rail && e.2.phase == 9 then s.courierFail id o w 3 w.dst.toNat
      else if w.step = 0 then s.courierRead id o w
      else if w.step = 1 then s.courierStart id o w
      else if w.kind = 3 then s
      else
        let l := s.courierTasks o w
        match l[Config.freeNat (freeIndex s.fresh (2 ^ 58)) % l.length]? with
        | some t => s.courierDo id o w t
        | none => s.courierDone id o w

/-- COURIER_STEP (R324): an operation's next piece of work, where there is one. -/
def execCourierStep (op : Nat) (s : State) : Out :=
  .next (s.withOp op fun s o =>
    match o.kind with
    | .courier w => if s.opFree o then s.courierAct op o w else s
    | _ => s)

/-! ## Arrivals -/

/-- A segment of CHAND's chunk reaches the next rank (R199, R326): DST is written there, in the issuing context, and the counter once
every segment is. -/
def State.handArrive (s : State) (xid : Nat) (x : Xfer) (o : Op) (w : CourierWork) : State :=
  let back := fun (s : State) => { s with ops := AMap.modify s.ops x.op fun y => { y with die := o.die } }
  let there := { o with die := x.dst }
  let settle := fun (s : State) (o' : Op) (g : Going) (fin : State → Op → State) =>
    match g with
    | .go => fin s o'
    | .wait => back (s.putOp x.op o')
    | .miss va access => back (s.missOp x.op o' va access)
    | .err _ a => s.courierFail x.op { o' with die := o.die } w 3 a
  let finish := fun (s : State) (o' : Op) (w : CourierWork) =>
    if !w.wrote 0 then back ({ s with xfers := AMap.erase s.xfers xid }.putOp x.op { o' with kind := .courier w })
    else
      let b := (s.putOp x.op { o' with kind := .courier w }).publishBump x.op { o' with kind := .courier w }
        (if w.actr = 0#64 then 0 else (w.actr.toNat + 8 * w.stage) % 2 ^ 64) 1
      settle b.1 b.2.1 b.2.2 fun s o' =>
        { s with xfers := AMap.erase s.xfers xid }.courierEnd x.op { o' with die := o.die } w w.error w.dst.toNat
  if w.segs.any fun y => y == (0, x.seg) then finish s there w
  else
    let r := s.scatterAt x.op there ((w.dst.toNat + Config.segmentBytes * x.seg) % 2 ^ 64) x.data fun i =>
      x.poison.any fun p => p.1 ≤ i && i < p.1 + p.2
    settle r.1 r.2.1 r.2.2 fun s o' =>
      finish s o' { w with segs := w.segs ++ [(0, x.seg)], error := if x.poison.isEmpty then w.error else 4 }

/-- The acknowledgement of a step's result: its sender need not keep the operand staged any more (R324). -/
def State.ackStep (s : State) (x : Xfer) : State :=
  { s with ops := AMap.modify s.ops x.op fun o =>
      match o.kind with
      | .courier w => { o with kind := .courier (w.unstage (keyKept x.chunk x.seg)) }
      | _ => o }

/-- The operation that a transfer is for: of its number, with its check values. -/
def State.courierAt (s : State) (x : Xfer) : Option (Nat × Op × CourierWork) :=
  (s.courierOps x.dst x.ctx x.slot).find? fun e => e.2.2.kind != 3 && e.2.2.order == x.order && e.2.2.check == x.check

/-- RING_TRANSFER_ARRIVAL (R320): a transfer whose way is open is staged by its receiver and acknowledged; one whose
collective has ended is dropped. -/
def execRingTransferArrival (xfer : Nat) (s : State) : Out :=
  match AMap.get? s.xfers xfer with
  | none => .next s
  | some x =>
    if x.rail || !s.xferOpen x then .next s
    else
      let gone := { s with xfers := AMap.erase s.xfers xfer }
      if x.phase = 3 then
        match AMap.get? s.ops x.op with
        | some o =>
          (match o.kind with
          | .courier w => .next (if s.opFree o then s.handArrive xfer x o w else s)
          | _ => .next gone)
        | none => .next gone
      else
        match s.courierAt x with
        | none => .next gone
        | some (id, o, w) =>
          let key := if x.phase = 1 then keyPartial x.chunk x.seg else keyGather x.chunk x.seg
          let s1 := gone.putOp id { o with kind := .courier (w.stage_ key x.data x.poison) }
          .next (if x.phase = 1 then s1.ackStep x else s1)

/-! ## A port that stays down -/

/-- Every final segment of a rank's own chunk has come over the rails, or has not far to go (R325). -/
def State.railsDone (s : State) (o : Op) (w : CourierWork) : Bool :=
  let j := s.localIndex o w
  w.segments.all fun k => w.segs.any (fun x => x == (j, k)) || w.partials.any fun e => e.1 == keyGather j k || e.1 == keyFinal k

/-- NET_PORT_DOWN_TIMEOUT (R325, R390): the port has been down for 20 µs; the messages of the die fail, and with them the collectives that
have still to use its rail. -/
def execNetPortDownTimeout (die : Nat) (s : State) : Out :=
  if (s.die die).net.up then .next s
  else
    .next ((s.ops.filterMap fun e =>
      match e.2.kind with
      | .courier w => if e.2.die = die ∧ w.kind = 2 ∧ groupSpans w.defn = true ∧ s.railsDone e.2 w = false then some (e.1, e.2, w) else none
      | _ => none).foldl (fun s e => s.railFailed e.1 e.2.1 e.2.2) (s.failAllNet die 5))

end Sys2Proof.Machine
end

