-- ==== Sys2Proof/Machine/System.lean ====
section
/-! DEFINITION. The system instructions (R205 to R209): SYSCALL's services, RDTIME, DIGEST, TMASK, AFLAGS, CTXMODE and
TLBI. -/

namespace Sys2Proof.Machine

/-! ## SYSCALL (R205) -/

/-- SYSCALL's registers, and its replies: sA, and sA + 1 where the service writes it. -/
def State.runSyscall (s : State) (a : BitVec 7) (reply : Env → Party → Word × Option Word) : Out :=
  s.runParty 1 fun env p => do
    useRegs env p [.ub a.toNat 8]
    let r := reply env p
    let p1 := p.setU a.toNat r.1
    pure (match r.2 with | some x => p1.setU (a.toNat + 1) x | none => p1)

/-- Service 0: the firmware's security version. -/
def execSyscallVersion (a : BitVec 7) (s : State) : Out := s.runSyscall a fun _ _ => (0, some (BitVec.ofNat 32 s.firmware.version))

/-- Service 1: a user event of the die (R344, TYPE 0x0A). -/
def execSyscallUserEvent (a : BitVec 7) (s : State) : Out :=
  s.runExec fun c => do
    useRegs (c.env s) c.party [.ub a.toNat 8]
    let regs := (List.range 6).map fun i => (24 + 4 * i, 4, (c.party.ureg (a.toNat + 1 + i)).toNat)
    let s1 := s.postEvent c.task.die 0x0A 0 (payloadOf ([(16, 2, c.task.ctx), (18, 2, c.task.core)] ++ regs))
    pure ((s1.modParty c.tid c.pi fun p => p.setU a.toNat 0).retire c 1)

/-- Service 2: the die's clock in MHz (R43). -/
def execSyscallClock (a : BitVec 7) (s : State) : Out :=
  s.runSyscall a fun env _ => (0, some (BitVec.ofNat 32 (s.die env.die).mhz))

/-- Any other service. -/
def execSyscallUnknown (a : BitVec 7) (s : State) : Out := s.runSyscall a fun _ _ => (0xFFFFFFFF, none)

/-! ## Time and digests (R206) -/

def execRdtime (d : BitVec 7) (s : State) : Out :=
  s.runParty 1 fun env p => do
    useRegs env p [.up d.toNat]
    pure (p.setUPair d.toNat env.time)

def execDigestValue (d : BitVec 7) (s : State) : Out :=
  s.runParty 1 fun env p => do
    useRegs env p [.up d.toNat]
    pure (p.setUPair d.toNat (s.ctx env.ctx).digest)

def execDigestCount (d : BitVec 7) (s : State) : Out :=
  s.runParty 1 fun env p => do
    useRegs env p [.up d.toNat]
    pure (p.setUPair d.toNat (BitVec.ofNat 64 (s.ctx env.ctx).boundaries))

/-! ## TMASK and AFLAGS (R207) -/

/-- Bits cleared, then set, within those a register has. -/
def clearSet (old clear set keep : Word) : Word := (old &&& ~~~clear ||| set) &&& keep

def execTmask (d a b : BitVec 7) (s : State) : Out :=
  s.runParty 1 fun env p => do
    useRegs env p [.u d.toNat, .u a.toNat, .u b.toNat]
    let new := clearSet p.tmask (p.ureg b.toNat) (p.ureg a.toNat) 0x11F
    pure { p.setU d.toNat p.tmask with tmask := new }

/-- AFLAGS waits for the party's class V floating-point words. -/
def execAflags (d a b : BitVec 7) (s : State) : Out :=
  s.runExec fun c => do
    useRegs (c.env s) c.party [.u d.toNat, .u a.toNat, .u b.toNat]
    if c.party.pend.any (·.floating) then pure s
    else
      let old := c.party.aflags.setWidth 32
      let new := clearSet old (c.party.ureg b.toNat) (c.party.ureg a.toNat) 0x1F
      pure ((s.modParty c.tid c.pi fun p => { p.setU d.toNat old with aflags := new.setWidth 5 }).retire c 1)

/-! ## CTXMODE and TLBI (R82, R208, R209) -/

def execCtxmode (a : BitVec 7) (s : State) : Out :=
  s.runExec fun c => do
    need (c.env s).sup (Trap.ill 2)
    useRegs (c.env s) c.party [.u a.toNat]
    let x := (c.party.ureg a.toNat).toNat
    need (bits x 2 14 == 0) (Trap.ill 1)
    need (bits x 16 16 ≤ 4095) (Trap.ill 3)
    pure ((s.putCtx (bits x 16 16) { (s.ctx (bits x 16 16)) with mode := bits x 0 2 }).retire c 1)

/-- A pointer that a walk of an address goes through (R280). -/
def PointerEntry.leads (e : PointerEntry) (va : Nat) : Bool :=
  e.key == (if e.level = 1 then bits va 52 5 else if e.level = 2 then bits va 40 17 else bits va 28 29)

/-- Translations that a test picks, dropped on some dies: from the TLBs, from the walk caches, and from the operations and agents to
which the walkers of those dies have brought them. -/
def State.dropTlb (s : State) (dies : List Nat) (pick : TlbEntry → Bool) (pickPtr : PointerEntry → Bool) : State :=
  { s with
    ops := s.ops.map fun e => (e.1, { e.2 with walked := e.2.walked.filter fun x => !(mem? x.1 dies && pick x.2) })
    cores := s.cores.map fun e =>
      if mem? (e.1 / 96) dies then (e.1, { e.2 with tlb := e.2.tlb.filter fun x => !pick x }) else e
    dies := s.dies.map fun e =>
      if mem? e.1 dies then
        (e.1, { e.2 with
          clusterTlb := e.2.clusterTlb.map fun t => (t.1, t.2.filter fun x => !pick x)
          agents := e.2.agents.filter fun x => !pick x.2
          walkCache := e.2.walkCache.filter fun x => !pickPtr x })
      else e }

/-- A Satchel line holds a store of a context, or of any. -/
def State.lineOfCtx (s : State) (all : Bool) (ctx : Nat) (l : SatchelLine) : Bool :=
  all || l.parties.any fun w => ((s.task? w.1).map fun t => t.ctx == ctx).getD false

/-- Stores that the Satchels of some dies hold for a context, sent on their way. -/
def State.drainCtx (s : State) (dies : List Nat) (all : Bool) (ctx : Nat) : State :=
  (s.cores.filter fun e => mem? (e.1 / 96) dies).foldl (fun s e =>
    s.drain (e.1 / 96) (e.1 % 96) (s.lineOfCtx all ctx)) s

/-- An access of a context from some dies has left and is not delivered. -/
def State.flying (s : State) (dies : List Nat) (all : Bool) (ctx : Nat) : Bool :=
  s.flits.any fun f => mem? f.2.die dies && (all || f.2.ctx == ctx)

/-- TLBI (R209, R281): the issuer's page-table writes go home, the entries go, and the party stalls until no access that
used one is on its way. -/
def execTlbi (a b : BitVec 7) (s : State) : Out :=
  s.runExec fun c => do
    need (c.env s).sup (Trap.ill 2)
    let x := (c.party.ureg b.toNat).toNat
    let scope := bits x 16 2
    let ctx := bits x 0 16
    let ill : Except Trap Unit := do
      need (bits x 19 13 == 0) (Trap.ill 1)
      need (scope != 3 && ctx ≤ 4095) (Trap.ill 3)
    checkRegs (c.env s) c.party [.u b.toNat] ill [.up a.toNat, .u b.toNat]
    let va := (c.party.upair a.toNat).toNat
    let dies := if bit x 18 then List.range 8 else [c.task.die]
    let pick := fun (e : TlbEntry) => scope == 2 || (e.ctx == ctx && (scope == 1 || e.covers ctx va))
    let pickPtr := fun (e : PointerEntry) => scope == 2 || (e.ctx == ctx && (scope == 1 || e.leads va))
    let s1 := (((s.source c.tid c.task).dropTlb dies pick pickPtr).drainCtx dies (scope == 2) ctx)
    pure (if s1.flying dies (scope == 2) ctx then s1 else s1.retire c 1)

end Sys2Proof.Machine
end

