-- ==== Sys2Proof/Machine/FrontDoor.lean ====
section
/-! DEFINITION. The front end: queues and their states (R15 to R19, R394), packets (R20 to R25, R395), checks and
re-fetches (R26 to R30), counters and fences (R31, R32), queue operations (R33, R34), the Guestbook (R35, R36), marks
(R37). -/

namespace Sys2Proof.Machine

/-! ## Queue states -/

/-- The Quitrum's host queues are 0 to 1,023 (R15): an event that names another one has no queue to act on. -/
def onQueue (q : Nat) (s : State) (f : State) : Out := .next (if q < 1024 then f else s)

/-- A queue drains (R18): no further packet is parsed, and an unmet fence is cancelled. -/
def State.drainQueue (s : State) (q : Nat) : State :=
  let x := s.queue q
  match x.state with
  | .stopped => s.putQueue q { x with enable := false }
  | _ =>
    let s1 := s.putQueue q { x with
      state := .draining, enable := false, fetched := none, fence := none, resumed := false, waiting := [] }
    match x.fence with
    | some f => s1.completeRec q f.1 4
    | none => s1.modQueue q Queue.settle

/-- The queue descriptor's fields are in range (R15). -/
def State.descOk (s : State) (bs : List Byte) : Bool :=
  s.fpaValid (fieldOf bs 0 8) && fieldOf bs 0 8 % 4096 == 0 && s.fpaValid (fieldOf bs 8 8) && fieldOf bs 8 8 % 4096 == 0
    && 6 ≤ fieldOf bs 20 1 && fieldOf bs 20 1 ≤ 15 && fieldOf bs 21 1 ≤ 3 && fieldOf bs 22 2 ≤ 4095
    && (bs.drop 24).all (· == 0)

/-- A queue enabled in STOPPED (R15, R18); its descriptor's die may have failed unnoticed, which the enabling waits for (R331). -/
def State.enableQueue (s : State) (q : Nat) : State :=
  let x := s.queue q
  if x.enable || x.state != .stopped then s
  else
    let a := x.desca.toNat
    let bs := s.mem.readBytes a 64
    if s.mute a then s.putQueue q { x with enable := true }
    else if s.fpaValid a && s.lineFault s.frontDie a a == none && s.descOk bs then
      let seq := fieldOf bs 16 4
      s.putQueue q { x with
        enable := true, state := .running, err := 0, head := seq, tail := seq % 65536, ring := fieldOf bs 0 8
        gb := fieldOf bs 8 8, logsz := fieldOf bs 20 1, prio := fieldOf bs 21 1, ctx := fieldOf bs 22 2
        fetched := none, fails := 0, fence := none, resumed := false, waiting := [] }
    else (s.putQueue q { x with err := 6, enable := false }).postQueueError q 6 0

/-- QCTL_ENABLE (R15, R18): ENABLE goes from 0 to 1 in STOPPED. -/
def execQctlEnable (q : Nat) (s : State) : Out := onQueue q s (s.enableQueue q)

/-- QCTL_DISABLE and QCTL_RESET (R18). -/
def execQctlDisable (q : Nat) (s : State) : Out := onQueue q s (s.drainQueue q)
def execQctlReset (q : Nat) (s : State) : Out := onQueue q s (s.drainQueue q)

/-- A queue resumed (R18, R19): from ERROR to a re-fetch of the head slot, or to the fence still in force. -/
def Queue.resume (x : Queue) : Queue :=
  if x.state ≠ .error then x
  else
    { x with
      err := 0, fails := 0, fetched := none, resumed := x.fence.isSome
      state := if x.fence.isSome then .fence else .refetch }

/-- QCTL_RESUME (R18, R19). -/
def execQctlResume (q : Nat) (s : State) : Out := onQueue q s (s.modQueue q Queue.resume)

/-- A doorbell (R17, R19). -/
def State.ring (s : State) (q : Nat) (v : BitVec 64) : State :=
  let x := s.queue q
  if x.state = .stopped ∨ x.state = .draining then s
  else
    let h := x.head % 65536
    let d := (v.toNat % 65536 + 65536 - h) % 65536
    if d < (x.tail + 65536 - h) % 65536 then s
    else if d ≤ 2 ^ x.logsz then s.putQueue q { x with tail := v.toNat % 65536 }
    else s.raiseError q 5

/-- QDB_DOORBELL (R17, R19). -/
def execQdbDoorbell (q : Nat) (v : BitVec 64) (s : State) : Out := onQueue q s (s.ring q v)

/-! ## Packets (R20 to R24) -/

/-- A field of a packet. -/
abbrev pkt := fieldOf

/-- Bytes of a packet from one to another are zero. -/
def zeroBytes (bs : List Byte) (lo hi : Nat) : Bool := fieldOf bs lo (hi + 1 - lo) == 0

/-- The counter of a packet is absent or aligned. -/
def ctrOk (bs : List Byte) : Bool := pkt bs 32 8 % 8 == 0

/-- The dies a QLAUNCH deals to: those of DIEMASK, or all, that are not marked failed (R25). -/
def State.launchDies (s : State) (mask : Nat) : List Nat :=
  (List.range 8).filter fun d => (mask == 0 || bit mask d) && !(s.die d).detected

/-- R24's conditions on each type. -/
def State.launchOk (s : State) (bs : List Byte) : Bool :=
  let count := pkt bs 4 4
  let plen := pkt bs 48 2
  let pchk := bit (pkt bs 0 4) 8
  1 ≤ count && count ≤ 2 ^ 24 && pkt bs 8 8 % 64 == 0 && pkt bs 16 8 % 64 == 0 && ctrOk bs
    && !(bit (pkt bs 45 1) 0 && bit (pkt bs 45 1) 1 && bit (pkt bs 45 1) 2)
    && (if pchk then 1 ≤ plen && plen ≤ 4096 else plen == 0)
    && zeroBytes bs 46 47 && zeroBytes bs 50 51 && zeroBytes bs 56 59 && !(s.launchDies (pkt bs 44 1)).isEmpty
def copyOk (bs : List Byte) : Bool :=
  let n := pkt bs 24 8
  1 ≤ n && n ≤ 2 ^ 40 && !extentsMeet (pkt bs 8 8) (pkt bs 16 8) n n && !(bit (pkt bs 0 4) 8 && 65536 < n) && ctrOk bs
    && zeroBytes bs 4 7 && zeroBytes bs 44 51 && zeroBytes bs 56 59
def fillOk (bs : List Byte) : Bool :=
  let n := pkt bs 16 8
  pkt bs 8 8 % 4 == 0 && 1 ≤ n && n % 4 == 0 && n ≤ 2 ^ 40 && ctrOk bs && zeroBytes bs 24 31 && zeroBytes bs 44 59
def writeOk (bs : List Byte) : Bool := pkt bs 8 8 % 8 == 0 && zeroBytes bs 4 7 && zeroBytes bs 24 59
def fenceOk (bs : List Byte) : Bool :=
  let n := bits (pkt bs 0 4) 12 4
  1 ≤ n && n ≤ 12 && pkt bs 4 8 % 8 == 0 && zeroBytes bs (12 + 4 * n) 59

/-- The content of a packet is valid (R24). -/
def State.packetOk (s : State) (bs : List Byte) : Bool :=
  let h := pkt bs 0 4
  let t := bits h 0 8
  bits h 9 3 == 0 && !(bit h 8 && t != 1 && t != 2) && !(bits h 12 4 != 0 && t != 5) &&
    (if t = 1 then s.launchOk bs else if t = 2 then copyOk bs else if t = 3 then fillOk bs else if t = 4 then writeOk bs
      else if t = 5 then fenceOk bs else if t = 6 then zeroBytes bs 8 59 else t == 7 && zeroBytes bs 4 59)

/-! ## Fetching (R26 to R30) -/

/-- A packet's Guestbook record as it is accepted or rejected (R35, R36). -/
def State.writeRecord (s : State) (q : Nat) (bs : List Byte) (status completion : Nat) : State :=
  let x := s.queue q
  let a := x.record x.head
  s.atHome s.frontDie x.ctx a a 0 fun s => s.writeHome a (leBytes 2 q ++ leBytes 2 0 ++ leBytes 4 x.head ++ leBytes 4 (pkt bs 60 4) ++ leBytes 1 (pkt bs 0 1)
    ++ leBytes 1 status ++ leBytes 1 x.fails ++ leBytes 1 completion ++ leBytes 8 s.time.toNat ++ leBytes 8 0)

/-- A failed fetch of the slot (error 1) or of the payload (error 3): the shared budget of R27 and R28. -/
def State.failFetch (s : State) (q err : Nat) (f : Option Fetched) : State :=
  let x := s.queue q
  if Config.refetchBudget ≤ x.fails + 1 then s.raiseError q err
  else s.putQueue q { x with fails := x.fails + 1, state := .refetch, fetched := f }

/-- The front end as an agent that reads memory for a queue (R34), by what walks have brought it. -/
def State.frontOp (s : State) (q : Nat) : Op :=
  { Op.start (.qwrite 0 0) (.queue q 0) (s.queue q).ctx s.frontDie 0 0 s.allSeen with
    walked := ((s.die s.frontDie).agents.filter fun e => e.1 == .queue q).map fun e => (s.frontDie, e.2) }

/-- The front end waits for a page's walk, and then on the fault queue (R34, R280, R283). -/
def State.frontWait (s : State) (q va access : Nat) : State :=
  (s.agentWalk s.frontDie (s.queue q).ctx va access (.queue q)).modQueue q fun x =>
    { x with waiting := addNew x.waiting (va / 65536) }

/-- A packet that has passed its own check: its payload is read and checked, where it carries one (R28). -/
def State.checkPayload (s : State) (q : Nat) (bs : List Byte) : State :=
  let x := s.queue q
  let held := s.putQueue q { x with fetched := some { bytes := bs, payload := none, checked := false } }
  if !bit (pkt bs 0 4) 8 then
    s.putQueue q { x with state := .running, fetched := some { bytes := bs, payload := none, checked := true } }
  else
    let src := if pkt bs 0 1 = 1 then pkt bs 24 8 else pkt bs 8 8
    let n := if pkt bs 0 1 = 1 then pkt bs 48 2 else pkt bs 24 8
    let r := s.gatherAt s.nextId (s.frontOp q) src n
    match r.2.2 with
    | .go =>
      if r.2.1.isEmpty && crc32c r.1 == pkt bs 52 4 then
        s.putQueue q { x with state := .running, fetched := some { bytes := bs, payload := some r.1, checked := true } }
      else s.failFetch q 3 (some { bytes := bs, payload := none, checked := false })
    | .wait => held
    | .miss va access => held.frontWait q va access
    | .err _ _ => s.raiseError q 4

/-- The head slot is fetched (R20, R24, R27): its check, its content, then its payload. A line that cannot be read fails the
check (log 27); a slot, or a record that rejects it, on a die that does not answer is waited for (R331). -/
def State.fetchHead (s : State) (q : Nat) : State :=
  let x := s.queue q
  let a := x.ring + 64 * (x.head % 2 ^ x.logsz)
  let bs := s.mem.readBytes a 64
  if s.mute a || s.mute (x.record x.head) then s
  else if s.lineFault s.frontDie a a != none || crc32c (bs.take 60) != pkt bs 60 4 || pkt bs 2 2 != x.head % 65536 then
    s.failFetch q 1 none
  else if !s.packetOk bs then (s.writeRecord q bs 1 0xFF).raiseError q 2
  else s.checkPayload q bs

/-- The queue has a packet ready to parse (R26), fetched already or not. -/
def Queue.ready (x : Queue) : Bool := x.state == .running && x.waiting.isEmpty && (x.fetched.isSome || x.head % 65536 != x.tail)

/-- The queue whose turn it is (R26): the highest priority, then round robin from the one last served. -/
def State.nextQueue (s : State) : Option Nat :=
  let l := s.queues.filter fun e => e.2.ready
  let top := maxOf 0 (l.map (·.2.prio))
  let same := (l.filter fun e => e.2.prio == top).map (·.1)
  let last := s.lastQueue.getD top 0
  ((same.filter fun q => last ≤ q) ++ same).head?

/-- A queue has had its turn (R26). -/
def State.served (s : State) (q : Nat) : State := { s with lastQueue := AMap.insert s.lastQueue (s.queue q).prio (q + 1) }

/-- A queue's head packet stands fetched and checked. -/
def State.checked (s : State) (q : Nat) : Bool := ((s.queue q).fetched.map (·.checked)).getD false

/-- SLOT_FETCH (R26, R27): the packet of the queue whose turn it is; the turn lasts until the packet is accepted, or fails. -/
def execSlotFetch (s : State) : Out :=
  match s.nextQueue with
  | none => .next s
  | some q =>
    if s.checked q then .next s
    else
      let s1 := match (s.queue q).fetched with
        | some f => s.checkPayload q f.bytes
        | none => s.fetchHead q
      .next (if s1.checked q then s1 else s1.served q)

/-- A failed slot or payload read again (R27, R28). After a RESUME with nothing to fetch, the queue just runs (log 28). -/
def State.refetch (s : State) (q : Nat) : State :=
  let x := s.queue q
  if x.state ≠ .refetch ∨ x.waiting ≠ [] then s
  else
    match x.fetched with
    | some f => s.checkPayload q f.bytes
    | none => if x.head % 65536 = x.tail then s.putQueue q { x with state := .running } else s.fetchHead q

/-- REFETCH (R27, R28): 310 ns after a failure. -/
def execRefetch (q : Nat) (s : State) : Out := onQueue q s (s.refetch q)

/-- REFETCH_DEADLINE (R27, R28): 20 µs since the first failure. -/
def execRefetchDeadline (q : Nat) (s : State) : Out :=
  let x := s.queue q
  onQueue q s (if x.state = .refetch ∧ x.fails ≠ 0 then s.raiseError q (if x.fetched.isSome then 3 else 1) else s)

/-! ## Acceptance (R25) -/

/-- The parsed packet of a queue, when it is of a type, the queue's turn has come (R26), and the home of its record answers (R331). -/
def State.parsed (s : State) (q type : Nat) : Option Fetched :=
  let x := s.queue q
  match x.fetched with
  | some f =>
    if q < 1024 ∧ s.nextQueue = some q ∧ x.state = .running ∧ f.checked = true ∧ pkt f.bytes 0 1 = type ∧ !s.mute (x.record x.head) then some f else none
  | none => none

/-- Acceptance: the Guestbook record, the consumed index, and one more operation in flight (R16, R36). -/
def State.accept (s : State) (q : Nat) (bs : List Byte) : State :=
  ((s.writeRecord q bs 0 0).served q).modQueue q fun x =>
    { x with head := (x.head + 1) % 2 ^ 32, inflight := x.inflight + 1, fetched := none, fails := 0 }

/-- A queue operation accepted and begun. -/
def State.startOp (s : State) (q : Nat) (bs : List Byte) (kind : OpKind) : State :=
  let s1 := s.accept q bs
  ({ s1 with nextId := s1.nextId + 1 }).putOp s1.nextId
    (Op.start kind (.queue q (s.queue q).head) (s.queue q).ctx s1.frontDie 0 0 s1.allSeen)

/-- A 64-bit field of a packet. -/
def pktWord (bs : List Byte) (lo : Nat) : DWord := BitVec.ofNat 64 (pkt bs lo 8)

def execQcopy (q : Nat) (s : State) : Out :=
  match s.parsed q 2 with
  | none => .next s
  | some f =>
    .next (s.startOp q f.bytes (.qcopy (pktWord f.bytes 8) (pktWord f.bytes 16) (pkt f.bytes 24 8) (pktWord f.bytes 32)
      (pkt f.bytes 40 4) f.payload))

def execQfill (q : Nat) (s : State) : Out :=
  match s.parsed q 3 with
  | none => .next s
  | some f =>
    .next (s.startOp q f.bytes (.qfill (pktWord f.bytes 8) (pkt f.bytes 16 8) (BitVec.ofNat 32 (pkt f.bytes 4 4))
      (pktWord f.bytes 32) (pkt f.bytes 40 4)))

def execQwrite (q : Nat) (s : State) : Out :=
  match s.parsed q 4 with
  | none => .next s
  | some f => .next (s.startOp q f.bytes (.qwrite (pktWord f.bytes 8) (pktWord f.bytes 16)))

/-- QMARK (R25, R37): one mark in all eight dies' event queues at once. -/
def execQmark (q : Nat) (s : State) : Out :=
  match s.parsed q 6 with
  | none => .next s
  | some f =>
    let seq := (s.queue q).head
    let s1 := s.accept q f.bytes
    let s2 := (List.range 8).foldl (fun s d =>
      s.postEvent d 0x02 0 (payloadOf [(16, 4, pkt f.bytes 4 4), (20, 2, q), (24, 4, seq)])) s1
    .next (s2.completeRec q seq 1)

def execQnop (q : Nat) (s : State) : Out :=
  match s.parsed q 7 with
  | none => .next s
  | some f => .next ((s.accept q f.bytes).completeRec q (s.queue q).head 1)

/-! ## Fences (R22, R32) -/

/-- The pairs of a QFENCE that its acceptance does not meet at once: a threshold of 0 always is. -/
def fencePairs (bs : List Byte) : List (DWord × Nat) :=
  (List.range (bits (pkt bs 0 4) 12 4)).filterMap fun i =>
    let e := pkt bs (12 + 4 * i) 4
    if bits e 0 22 = 0 then none else some (BitVec.ofNat 64 (pkt bs 4 8 + 8 * bits e 22 10), bits e 0 22)

/-- What reading the counters of a fence comes to: the pairs still unmet, and a page to wait for, or a fault. -/
structure FenceSays where
  left : List (DWord × Nat)
  going : Going
  deriving DecidableEq, Repr

/-- The pairs whose counters are below their thresholds; each is read as one 64-bit access, but where its page is waited for. A fault
stands, then the first page that does not translate. -/
def State.unmet (s : State) (q : Nat) : List (DWord × Nat) → FenceSays
  | [] => { left := [], going := .go }
  | p :: r =>
    let t := s.unmet q r
    if mem? (p.1.toNat / 65536) (s.queue q).waiting then { t with left := p :: t.left }
    else
      let v := s.gatherNat s.nextId (s.frontOp q) p.1.toNat 8
      match v.2, t.going with
      | .go, _ => if p.2 ≤ v.1 then t else { t with left := p :: t.left }
      | .wait, _ => { t with left := p :: t.left }
      | .err c a, _ => { left := p :: t.left, going := .err c a }
      | .miss _ _, .err c a => { left := p :: t.left, going := .err c a }
      | .miss va access, _ => { left := p :: t.left, going := .miss va access }

/-- A fence evaluated (R18, R19, R32): pairs once met stay met, whatever the others wait for; a whole fence lets parsing go on, or the
re-fetch that a RESUME left behind it. -/
def State.evalFence (s : State) (q : Nat) : State :=
  let x := s.queue q
  match x.fence with
  | none => s
  | some (seq, pairs) =>
    let drop := fun (s : State) => s.modQueue q fun x => { x with fence := none, resumed := false }
    let r := s.unmet q pairs
    let kept := s.putQueue q { x with fence := some (seq, r.left), state := if x.state = .running then .fence else x.state }
    match r.going with
    | .err _ _ => ((drop s).completeRec q seq 2).raiseError q 4
    | .miss va access => kept.frontWait q va access
    | _ =>
      if !r.left.isEmpty then kept
      else
        let next := if x.state = .fence then (if x.resumed then QState.refetch else .running) else x.state
        ((drop s).modQueue q fun x => { x with state := next }).completeRec q seq 1

def execQfence (q : Nat) (s : State) : Out :=
  match s.parsed q 5 with
  | none => .next s
  | some f =>
    let seq := (s.queue q).head
    .next (((s.accept q f.bytes).modQueue q fun x => { x with fence := some (seq, fencePairs f.bytes), state := .fence }).evalFence q)

/-- FENCE_POLL (R32). -/
def execFencePoll (q : Nat) (s : State) : Out := onQueue q s (s.evalFence q)

/-- A party's AWAITC waits on the counter at an address. -/
def State.awaitsAt (s : State) (ctx : Nat) (p : Party) (fpa : Nat) : Bool :=
  match p.hold with
  | .awaitc addr _ => (match s.peekAgent ctx addr.toNat with | .hit _ a => a == fpa | _ => false)
  | _ => false

/-- COUNTER_UPDATE_WAKE (R106, R32): the AWAITC waiters of the counter and every queue's fence are tested again. -/
def execCounterUpdateWake (fpa : Nat) (s : State) : Out :=
  let waiters := s.tasks.flatMap fun e => (List.range e.2.parties.length).filterMap fun i =>
    if (e.2.parties[i]?.map fun p => s.awaitsAt e.2.ctx p fpa).getD false then some (e.1, i) else none
  let s1 := waiters.foldl (fun s w => s.pollCounter w.1 w.2) s
  .next ((s1.queues.filter fun e => e.2.fence.isSome).foldl (fun s e => s.evalFence e.1) s1)

/-! ## Launches (R25, R395) -/

/-- A queue operation that ends with COMPLETION = fault: its queue enters ERROR (R34). -/
def State.queueOpFail (s : State) (id : Nat) (o : Op) : State :=
  match o.source with
  | .queue q seq => (({ s.publish id o with ops := AMap.erase s.ops id }).completeRec q seq 2).raiseError q 4
  | _ => s

/-- A write of a root frame at its home (R395). -/
def State.putFrame (s : State) (o : Op) (frame : DWord) (fpa : Nat) (bs : List Byte) : State :=
  s.atHome s.frontDie o.ctx frame.toNat fpa frame fun s => s.writeHome fpa bs

/-- The root frame as a launch's front end finds it. -/
def State.frameLook (s : State) (o : Op) (frame : DWord) : Look := s.checkFront frame.toNat .write (s.opAgent o frame.toNat)

/-- A launch that starts no task (R395): the root frame, where it can be written, reads PENDING 0 and STATUS 4. A frame whose home does not
answer is waited for (R331), and one that was written before and no longer translates is walked to once more. -/
def State.launchFail (s : State) (id : Nat) (o : Op) (frame : DWord) : State :=
  match s.frameLook o frame with
  | .hit _ fpa =>
    if s.mute fpa then s.putOp id { o with progress := 2 }
    else ((s.putFrame o frame (fpa + 8) (leBytes 4 0)).putFrame o frame (fpa + 13) (leBytes 1 4)).queueOpFail id o
  | .miss _ _ => if o.progress = 1 then s.missOp id { o with progress := 2 } frame.toNat 1 else s.queueOpFail id o
  | .bad _ => s.queueOpFail id o

/-- The flags of a root range from LFLAGS, where they override those of the descriptor (R25): DET, ND, ORD and the stage. -/
def launchFlags (lflags : Nat) : Option (Bool × Bool × Bool × Nat) :=
  if bit lflags 0 then some (bit lflags 1, bit lflags 2, bit lflags 3, bits lflags 4 4) else none

/-- A root range as its frame is written at acceptance (R221, R395). -/
def rootOf (o : Op) (q seq : Nat) (desc frame : DWord) (count : Nat) (ctr : DWord) (add flags : Nat) (ord : Bool) : Root :=
  { ctx := o.ctx, frame := frame, count := count, pending := count, nfail := 0, fcidx := noFailed, ctr := ctr, add := add
    queue := q, seq := seq, wrt := desc, flags := flags, ord := ord, kids := [], joining := none, joined := false, written := false }

/-- The item of root tasks for the `k`-th of `n` dies (R25). -/
def rootItem (d : Descriptor) (det nd ord : Bool) (stage : Nat) (desc args : DWord) (id ctx prio count n k : Nat) (seen : Seen) : Item :=
  { kids := .range k n ((count + n - 1 - k) / n) args, desc := d, wrt := desc, fmt := 0, parent := .root id, party := 0, seq := 0
    ctx := ctx, prio := prio, det := det, nd := nd, ord := ord, stage := stage, base := [], seen := seen, told := false }

/-- The root range, dealt to the dies that work, in ascending order (R25, R221, R235). -/
def State.launchRange (s : State) (id : Nat) (o : Op) (d : Descriptor) (desc frame args : DWord) (count : Nat) (ctr : DWord)
    (add dies lflags fpa : Nat) : State :=
  match o.source with
  | .queue q seq =>
    let (det, nd, ord, stage) := (launchFlags lflags).getD (d.det, d.nd, d.ord, d.stage)
    let r := rootOf o q seq desc frame count ctr add (frameFlags det nd ord stage) ord
    let s1 := ({ s with ops := AMap.erase s.ops id }.putRoot id r).putFrame o frame fpa (r.image 6)
    let dests := s.launchDies dies
    (List.range (min dests.length count)).foldl (fun s k =>
      s.place (dests.getD k 0) 0 (some (dests.getD k 0))
        (rootItem d det nd ord stage desc args id o.ctx (s.queue q).prio count dests.length k s.allSeen)) s1
  | _ => s

/-- The root frame at acceptance (R221, R395), its flags those of LFLAGS or, until the descriptor has been read, zero (log 83). -/
def State.launchFrame (s : State) (o : Op) (desc frame : DWord) (count : Nat) (ctr : DWord) (add lflags fpa : Nat) : State :=
  match o.source with
  | .queue q seq =>
    let f := (launchFlags lflags).getD (false, false, false, 0)
    s.putFrame o frame fpa ((rootOf o q seq desc frame count ctr add (frameFlags f.1 f.2.1 f.2.2.1 f.2.2.2) f.2.2.1).image 6)
  | _ => s

/-- A launch after its acceptance (R395): the root frame, then the descriptor. A descriptor whose line is bad, and a launch whose dies
have all failed since its acceptance, end it as a descriptor that breaks R218 does (log 83). -/
def State.launchRun (s : State) (id : Nat) (o : Op) : State :=
  match o.kind with
  | .qlaunch desc frame args count ctr add dies lflags =>
    let fail := fun (s : State) (o : Op) (_ _ : Nat) => s.launchFail id o frame
    if o.progress = 2 then s.launchFail id o frame else
    match s.frameLook o frame with
    | .bad _ => s.launchFail id o frame
    | .miss _ _ => s.missOp id o frame.toNat 1
    | .hit _ fpa =>
      if s.mute fpa then s.putOp id o else
      let s1 := if o.progress = 0 then s.launchFrame o desc frame count ctr add lflags fpa else s
      let o1 := { o with progress := 1 }
      let r := s1.gatherAt id o1 desc.toNat 64
      match r.2.2 with
      | .go =>
        if !r.2.1.isEmpty || !descriptorOk r.1 || (s1.launchDies dies).isEmpty then s1.launchFail id o1 frame
        else s1.launchRange id o1 (descriptorOf r.1) desc frame args count ctr add dies lflags fpa
      | g => s1.settleOp id o1 g (fun s _ => s) fail
  | _ => s

def execQlaunch (q : Nat) (s : State) : Out :=
  match s.parsed q 1 with
  | none => .next s
  | some f =>
    let b := f.bytes
    let s1 := s.startOp q b (.qlaunch (pktWord b 8) (pktWord b 16) (pktWord b 24) (pkt b 4 4) (pktWord b 32) (pkt b 40 4) (pkt b 44 1)
      (pkt b 45 1))
    .next (s1.withOp s.nextId fun s1 o => s1.launchRun s.nextId o)

/-! ## Queue operations (R25, R31, R34, R36) -/

/-- A queue operation whose data is written: its counter, then its completion (R31, R36). -/
def State.queueFinish (s : State) (id : Nat) (o : Op) (ctr add : Nat) : State :=
  let r := s.publishBump id o ctr add
  r.1.settleOp id r.2.1 r.2.2
    (fun s o =>
      match o.source with
      | .queue q seq => ({ s with ops := AMap.erase s.ops id }).completeRec q seq (if o.poisoned then 3 else 1)
      | _ => s)
    fun s o _ _ => s.queueOpFail id o

/-- The next piece of bytes that a queue operation writes (R25): those of one line, from where it has come to. -/
def State.writeStep (s : State) (id : Nat) (o : Op) (dst bytes : Nat) (byte : Nat → Byte) : State × Op × Going :=
  if bytes ≤ o.progress then (s, o, .go)
  else
    let a := (dst + o.progress) % 2 ^ 64
    let n := min (bytes - o.progress) (64 - a % 64)
    match s.scatterAt id o a ((List.range n).map fun i => byte (o.progress + i)) fun _ => false with
    | (s1, o1, .go) => (s1, { o1 with progress := o.progress + n }, .go)
    | r => r

/-- One piece of a queue operation's work; the last one is followed by its counter and its completion. -/
def State.queueRun (s : State) (id : Nat) (o : Op) : State :=
  let fail := fun (s : State) (o : Op) (_ _ : Nat) => s.queueOpFail id o
  let settle := fun (r : State × Op × Going) (bytes ctr add : Nat) =>
    r.1.settleOp id r.2.1 r.2.2 (fun s o => if bytes ≤ o.progress then s.queueFinish id o ctr add else s.putOp id o) fail
  match o.kind with
  | .qcopy src dst bytes ctr add payload =>
    settle (match payload with
      | some data => s.writeStep id o dst.toNat bytes fun i => data.getD i 0
      | none => s.copyStep id o src.toNat dst.toNat bytes 1 0 0) bytes ctr.toNat add
  | .qfill dst bytes value ctr add =>
    settle (s.writeStep id o dst.toNat bytes fun i => BitVec.ofNat 8 (value.toNat / 256 ^ (i % 4))) bytes ctr.toNat add
  | .qwrite dst value => settle (s.writeStep id o dst.toNat 8 fun i => BitVec.ofNat 8 (value.toNat / 256 ^ i)) 8 0 0
  | .qlaunch .. => s.launchRun id o
  | _ => s

/-- QOP_COMPLETE (R36): a queue operation runs on, as the lowest surviving die's, and completes when its last write is done; a root
range completes its launch with its own last write (R221). -/
def execQopComplete (op : Nat) (s : State) : Out :=
  match AMap.get? s.roots op with
  | some _ => .next s
  | none =>
    match AMap.get? s.ops op with
    | none => .next s
    | some o0 =>
      let o := { o0 with die := s.frontDie }
      .next (if s.opFree o then s.queueRun op o else s)

end Sys2Proof.Machine
end

