-- ==== Sys2Proof/Machine/HostLink.lean ====
section
/-! DEFINITION. The host link and the package's management: device registers (R7, R40), the memory window and CXL.mem
(R39, R40, R263), attestation (R40, R42), reset and boot (R41), throttling (R43), uncorrectable memory errors (R286). -/

namespace Sys2Proof.Machine

/-! ## The windows onto memory (R39, R40, R263) -/

/-- The fabric physical address of a byte of the memory window. -/
def State.windowFpa (s : State) (off : Nat) : Nat := bits s.winsel.toNat 36 20 * 2 ^ 36 + off

/-- A line a host access can reach. -/
def State.hostReaches (s : State) (fpa : Nat) : Bool := s.fpaValid fpa && s.reachable s.frontDie fpa

/-- The lines of a host read that are poisoned or fail their check: each posts a record (R287, exit 1). -/
def State.hostBad (s : State) (fpa len : Nat) : List Nat :=
  ((List.range ((fpa % 64 + len + 63) / 64)).map fun i => lineOf (s.visible (fpa / 64 * 64 + 64 * i))).filter fun l =>
    s.isPoisoned l || mem? l s.badCheck

/-- A read of an address that the host cannot reach returns all ones (R40). -/
def State.hostOnes (s : State) (len : Nat) : State :=
  { s with hostRead := some { bytes := List.replicate len 0xFF, invalid := true, poisoned := false } }

/-- A host read (R263): the bytes at their homes, of the visible frame of a shadow page (R278); all ones where the address is invalid, and
the link reports the error (R40). A die whose failure nothing has detected gives no answer (R331). -/
def State.readHost (s : State) (fpa len : Nat) : State :=
  if !s.hostReaches fpa then { s.hostOnes len with aer := s.aer + b2n (!s.fpaValid fpa) }
  else if s.mute fpa then s
  else
    let bad := s.hostBad fpa len
    let s1 := bad.foldl (fun s l => s.postPoison s.frontDie (l * 64) 1 0) s
    let bytes := (List.range len).map fun i => s.mem.read (s.visible (fpa + i))
    { s1 with hostRead := some { bytes := bytes, invalid := false, poisoned := !bad.isEmpty } }

/-- A host write (R263, R285): the bytes reach their homes; a multicast frame takes none (R368), and an invalid address is reported by
the link (R40). -/
def State.writeFromHost (s : State) (fpa : Nat) (data : List Byte) : State :=
  if !s.fpaValid fpa then { s with aer := s.aer + 1 }
  else if s.hostReaches fpa && !s.isMcast fpa then s.hostBytes fpa data
  else s

/-- The access lies in BAR4, which spans 64 GiB (R38); no other one reaches the package. -/
def inBar4 (off len : Nat) : Bool := off + len ≤ 2 ^ 36

/-- HOST_WINDOW_READ and HOST_WINDOW_WRITE (R38, R40, R263): accesses through BAR4. -/
def execHostWindowRead (off len : Nat) (s : State) : Out := .next (if inBar4 off len then s.readHost (s.windowFpa off) len else s)
def execHostWindowWrite (off : Nat) (data : List (BitVec 8)) (s : State) : Out :=
  .next (if inBar4 off data.length then s.writeFromHost (s.windowFpa off) data else s)

/-- A line lies in the driver's CXL.mem window (R39): the HBM from die 0's first byte on, in ascending addresses (log 29). -/
def State.inCxl (s : State) (fpa : Nat) : Bool :=
  fpaClass fpa == 0 && s.fpaValid fpa && fpaDie fpa * (192 * 2 ^ 30) + bits fpa 0 38 < s.cxlSteps * 2 ^ 28

/-- CXL_MEM_ACCESS (R39): a read of `len` bytes, or a write of `data`, at an address of this package's HBM (log 29); every device read after
the write sees it. -/
def execCxlMemAccess (off len : Nat) (data : List (BitVec 8)) (s : State) : Out :=
  .next (
    if data.isEmpty then (if s.inCxl off && s.inCxl (off + (len - 1)) then s.readHost off len else s.hostOnes len)
    else if s.inCxl off && s.inCxl (off + (data.length - 1)) then
      (s.writeFromHost off data).raiseHome [(lineOf off, lineOf (off + (data.length - 1)) + 1)]
    else s)

/-! ## Device registers (R7, R40) -/

/-- A value's bits that a register keeps. -/
def keep (v : DWord) (lo len : Nat) : DWord := BitVec.ofNat 64 (bits v.toNat lo len * 2 ^ lo)

/-- The machine with a context changed. -/
def State.modCtx (s : State) (c : Nat) (f : Ctx → Ctx) : State := s.putCtx c (f (s.ctx c))

/-- A context's configuration block (R272). -/
def State.writeCtxBlock (s : State) (c reg : Nat) (v : DWord) : State :=
  s.modCtx c fun x =>
    match reg with
    | 0 => { x with sup := bit v.toNat 0 }
    | 1 => { x with hidb := keep v 16 40 }
    | 2 => { x with hids := keep v 0 32 }
    | 3 => { x with fpool := keep v 16 41 }
    | 4 => { x with fpn := keep v 0 24 }
    | 5 => if 1 ≤ bits v.toNat 0 18 && bits v.toNat 0 18 ≤ 131072 then { x with asl := keep v 0 18 } else x
    | _ => x

/-- REPLCTL's stored fields (R267). -/
def State.writeReplctl (s : State) (c : Nat) (v : DWord) : State :=
  s.modCtx c fun x => { x with enable := bit v.toNat 0, pctx := bits v.toNat 48 16, ppkg := bits v.toNat 32 16 }

/-- The fault queue's and the event queue's registers (R283, R343). -/
def State.writeFaultReg (s : State) (d reg : Nat) (v : DWord) : State :=
  let x := s.die d
  s.putDie d (match reg with
    | 0 => { x with fqBase := keep v 12 44 }
    | 1 => { x with fqHead := loWord v }
    | _ => x)
def State.writeEventReg (s : State) (d reg : Nat) (v : DWord) : State :=
  let x := s.die d
  s.putDie d (match reg with
    | 0 => { x with eqBase := keep v 12 44 }
    | 1 => { x with eqHead := loWord v }
    | 3 => { x with eqLost := loWord v }
    | _ => x)

/-- The network registers (R380); clearing ENABLE ends what is outstanding. -/
def State.writeNetReg (s : State) (d reg : Nat) (v : DWord) : State :=
  if reg = 0 then s.writeNetcfg d v else
  s.modNet d fun n =>
    match reg with
    | 1 => { n with ipl := v }
    | 2 => { n with iph := v }
    | 3 => { n with peerBase := keep v 12 44 }
    | 4 => { n with regnBase := keep v 12 44 }
    | 5 => { n with railBase := keep v 12 44 }
    | _ => n

/-- Eight bytes of the attestation request written. -/
def putReq (m : Cells 8) (off : Nat) (v : DWord) : Cells 8 :=
  (List.range 8).foldl (fun m i => Cells.set m (off + i) (BitVec.ofNat 8 (v.toNat / 256 ^ i))) m

/-- REGISTER_WRITE (R7, R16, R40): a 64-bit write to a register that only stores its fields, at its offset in BAR0; QDESCA
lies at 2^26 and its offset in BAR2, and the size of the CXL.mem window, which the driver sets (R39), at 2^27 (log 30). Other offsets
ignore it. -/
def execRegisterWrite (off : Nat) (v : BitVec 64) (s : State) : Out :=
  .next (
    if 2 ^ 26 ≤ off ∧ off < 2 ^ 26 + 2 ^ 22 then
      if (off - 2 ^ 26) % 4096 = 0x18 then s.modQueue ((off - 2 ^ 26) / 4096) fun x => { x with desca := keep v 6 50 } else s
    else if off = 2 ^ 27 then (if v.toNat ≤ 4096 then { s with cxlSteps := v.toNat } else s)
    else if off = 0x100 then { s with winsel := keep v 36 20 }
    else if 0x1000 ≤ off ∧ off + 8 ≤ 0x2000 then { s with attreq := putReq s.attreq (off - 0x1000) v }
    else if 0x100000 ≤ off ∧ off < 0x108000 ∧ off % 8 = 0 then s.writeReplctl ((off - 0x100000) / 8) v
    else if 0x110000 ≤ off ∧ off < 0x118000 ∧ off % 8 = 0 then
      s.modCtx ((off - 0x110000) / 8) fun x => { x with ctxpt := keep v 9 47 ||| keep v 0 1 ||| BitVec.ofNat 64 (16 * min (bits v.toNat 4 5) 16) }
    else if 0x120000 ≤ off ∧ off < 0x120200 ∧ off % 8 = 0 then s.writeFaultReg ((off - 0x120000) / 64) (off % 64 / 8) v
    else if 0x130000 ≤ off ∧ off < 0x130200 ∧ off % 8 = 0 then s.writeEventReg ((off - 0x130000) / 64) (off % 64 / 8) v
    else if off = 0x150000 then { s with fabcfg := keep v 16 32 ||| keep v 7 1 ||| keep v 0 6 }
    else if 0x160000 ≤ off ∧ off < 0x160200 ∧ off % 8 = 0 then s.writeNetReg ((off - 0x160000) / 64) (off % 64 / 8) v
    else if 0x170000 ≤ off ∧ off < 0x1B0000 ∧ off % 8 = 0 then s.writeCtxBlock ((off - 0x170000) / 64) (off % 64 / 8) v
    else s)

/-! ## Attestation (R40, R42) -/

/-- ATTCTL_GO: a request is submitted, and read, unless one is busy. -/
def execAttctlGo (s : State) : Out :=
  if s.attStatus = 1 then .next s
  else .next { s with attStatus := 1, attHeld := (List.range 168).map fun i => Cells.get s.attreq i }

/-- The request is in order: its reserved bytes, its context, its count, and its descriptors' addresses. -/
def State.requestOk (s : State) : Bool :=
  let r := s.attHeld
  let ctx := fieldOf r 32 2
  let n := fieldOf r 34 1
  zeroBytes r 35 39 && ctx ≤ 4095 && n ≤ 16 && (List.range n).all fun i =>
    match s.peekAgent ctx (fieldOf r (40 + 8 * i) 8) with
    | .hit _ _ => true
    | _ => false

/-- The part number, NUL-padded (R1, R42). -/
def partNumber : List Byte :=
  [0x41, 0x5A, 0x2D, 0x51, 0x38, 0x2D, 0x31, 0x35, 0x33, 0x36, 0x2D, 0x4C, 0, 0, 0, 0]

/-- The report of R42: the digest and the version are those of the firmware that has been verified. Serial numbers, the other digests and the
signature are the part's own bytes (log 23). -/
def State.report (s : State) : List Byte :=
  let own := fun (lo n : Nat) => (List.range n).map fun i => Config.reportByte (lo + i)
  let now := fun (lo n : Nat) => (List.range n).map fun i => Config.reportByte (freeIndex s.fresh (lo + i))
  leBytes 4 1 ++ partNumber ++ own 20 64 ++ leBytes 32 (s.firmware.digests.headD 0).toNat ++ leBytes 4 s.firmware.version ++ now 120 32 ++ sliceBytes s.attHeld 0 32
    ++ leBytes 1 (fieldOf s.attHeld 34 1) ++ leBytes 7 0 ++ now 192 576

/-- ATTEST_REPORT_DONE: the request is refused, or its report stands at ATTRSP. -/
def execAttestReportDone (s : State) : Out :=
  if s.attStatus ≠ 1 then .next s
  else if !s.requestOk then .next ({ s with attStatus := 3 }.raise 1)
  else
    let m := (List.range 768).foldl (fun (m : Cells 8) i => Cells.set m i (s.report.getD i 0)) []
    .next ({ s with attStatus := 2, attrsp := m }.raise 1)

/-! ## Reset, boot and power (R41, R43) -/

/-- PACKAGE_RESET (R41): every register of the package takes its reset value and the boot ROMs verify. Memory, the nodes, the
firmware and the fuses, and the model's own counters stay; host writes that were held go home (log 31). -/
def execPackageReset (s : State) : Out :=
  .next ({ State.reset with
    mem := s.mem, poison := s.poison, badCheck := s.badCheck, heldWrites := s.heldWrites, instances := s.instances
    firmware := s.firmware, fuses := s.fuses, agenda := s.agenda
    fresh := s.fresh, nextId := s.nextId, ticks := s.ticks, time := s.time, stage := 1 }.releaseHeld.raise 0)

/-- The checks of R41 that the image fails, by BOOTSTAT's codes (R40): one that cannot be read is checked no further. -/
def State.bootFails (s : State) : List Nat :=
  let x := s.firmware
  if !x.readable then [4]
  else
    (if x.signed then [] else [1]) ++
    (if (List.range 8).all fun d => s.fuses.getD d 0 == 0 || s.fuses.getD d 0 ≤ x.version then [] else [2]) ++
    (if x.digests.all fun y => y == x.digests.headD 0 then [] else [3])

/-- BOOT_VERIFICATION_COMPLETE (R41): with no check failed, code 0, the firmware starts and runs; otherwise every die halts, with the code of
a check that failed (log 84). An outcome that the checks do not have does not come. -/
def execBootVerificationComplete (code : BitVec 8) (s : State) : Out :=
  if s.stage ≠ 1 then .next s
  else if code = 0#8 then
    if s.bootFails ≠ [] then .next s
    else
      let s1 := { s with stage := 2 }.raise 0
      .next ({ s1 with stage := 3 }.raise 0)
  else if mem? code.toNat s.bootFails then .next ({ s with stage := 15, code := code }.raise 0)
  else .next s

/-- The clock after a throttling event (R43): one step down, not below the floor; a cleared limit lets it rise to a value
that the part chooses (log 32). -/
def throttled (fresh mhz reason : Nat) : Nat :=
  if reason = 2 then mhz + Config.throttleStep * (Config.freeNat fresh % ((Config.ratedMHz - mhz) / Config.throttleStep + 1))
  else max Config.throttleFloor (mhz - Config.throttleStep)

/-- THROTTLE (R43, R344): reason 0 temperature, 1 current, 2 limit cleared. -/
def execThrottle (die reason : Nat) (s : State) : Out :=
  if 8 ≤ die ∨ 3 ≤ reason ∨ (s.die die).failed then .next s
  else
    let x := s.die die
    let m := throttled s.fresh x.mhz reason
    .next ((s.putDie die { x with mhz := m }).postEvent die 0x07 0 (payloadOf [(16, 2, m), (18, 1, reason)]))

/-- A line of a task's scratch becomes poison (R286). -/
def Task.poisonScratch (t : Task) (ln : Nat) : Task :=
  { t with scratchPoison := addNew t.scratchPoison ln, scratchBad := t.scratchBad.filter (· != ln) }

/-- ECC_UNCORRECTABLE_ERROR (R286, R287): the line is poisoned, and an event is posted. -/
def execEccUncorrectableError (site : EccSite) (s : State) : Out :=
  match site with
  | .line fpa => .next ((s.poisonLine (lineOf fpa)).postPoison (s.seenBy fpa) (lineOf fpa * 64) 0 0)
  | .scratch task off =>
    match s.task? task with
    | none => .next s
    | some t =>
      if t.desc.scratch ≤ off then .next s
      else
        .next ((s.putTask task (t.poisonScratch (off / 64))).postPoison t.die (scratchAliasBase + t.slot * 2 ^ 18 + off / 64 * 64) 0 t.ctx)

end Sys2Proof.Machine
end

