-- ==== Sys2Proof/Machine/Fabric.lean ====
section
/-! DEFINITION. What completes on its own: class V results (R48), the Satchel's age limit (R168), flits on their way (R363 to
R366) and peers' accesses (R365), walks (R280), and the driver's answers to fault records (R284). -/

namespace Sys2Proof.Machine

/-! ## Class V results and the Satchel -/

/-- CLASS_V_COMPLETE (R48, R53): a result that has come back is written. -/
def execClassVComplete (task party idx : Nat) (s : State) : Out :=
  match s.party? task party with
  | none => .next s
  | some p =>
    match p.pend[idx]? with
    | none => .next s
    | some x => .next (if x.wait = .ready then s.putParty task party (p.complete x) else s)

/-- SATCHEL_AGE_EXPIRE (R168): a line's age limit. -/
def execSatchelAgeExpire (die core line : Nat) (s : State) : Out := .next (s.drain die core fun l => l.line == line)

/-! ## Flits of this package (R363, R364) -/

/-- A flit refused or given up on its way: an error notice goes back. An ATOM's step is not: whether it can be performed is decided when it
issues, so that INT is exact (R162, R364, log 62). -/
def State.refuseFlit (s : State) (id : Nat) (f : Flit) : State :=
  if f.performed || f.sure then s else { s with flits := AMap.insert s.flits id { f with failed := true } }

/-- CUSTODY_ACK (R363): the first hop has the flit. -/
def execCustodyAck (flit : Nat) (s : State) : Out :=
  .next { s with flits := AMap.modify s.flits flit fun f => { f with custody := true } }

/-- HOP_TIMEOUT (R363): a hop held the flit for 50 µs and discards it. -/
def execHopTimeout (flit : Nat) (s : State) : Out :=
  match AMap.get? s.flits flit with
  | none => .next s
  | some f => .next (s.refuseFlit flit f)

/-- The old values of a lane's atomic put into a pending result (R173): the low words, and the high words of a pair. -/
def Pending.fill (x : Pending) (olds : List (Nat × DWord)) : Pending :=
  let put := fun (half : DWord → Word) (w : Nat × BitVec 32 × List Word) =>
    (w.1, w.2.1, (List.range 32).map fun l =>
      match olds.find? fun o => o.1 == l with | some o => half o.2 | none => w.2.2.getD l 0)
  { x with
    vwrites := match x.vwrites with
      | [] => []
      | lo :: hi => put loWord lo :: hi.map (put hiWord) }

/-- A pending result without one of the flits it waits for. -/
def Pending.landed (x : Pending) (flit : Nat) : Pending :=
  match x.wait with
  | .flits ids =>
    let r := ids.filter (· != flit)
    { x with wait := if r.isEmpty then .ready else .flits r }
  | _ => x

/-- An atomic's answer reaches its party (R173). -/
def Party.answer (p : Party) (pend flit : Nat) (olds : List (Nat × DWord)) : Party :=
  { p with pend := p.pend.map fun (x : Pending) => if x.id = pend then (x.fill olds).landed flit else x }

/-- DELIVERY_ACK (R363): the access has been performed at its home; a peer performs it now (R365). -/
def execDeliveryAck (flit : Nat) (s : State) : Out :=
  match AMap.get? s.flits flit with
  | none => .next s
  | some f0 =>
    let s1 := if fpaClass f0.fpa = 1 then s.performFlit flit f0 else s
    match AMap.get? s1.flits flit with
    | none => .next s1
    | some f =>
      if !f.performed then .next s1
      else
        let s2 := { s1 with flits := AMap.erase s1.flits flit }
        match f.work with
        | .atom _ _ (some pend) =>
          .next (f.who.foldl (fun s w => s.modParty w.1 w.2 fun p => p.answer pend flit f.olds) s2)
        | _ => .next s2

/-- ERROR_NOTICE (R364): a discarded store, ARED or SIGNAL posts a record. -/
def execErrorNotice (flit : Nat) (s : State) : Out :=
  match AMap.get? s.flits flit with
  | none => .next s
  | some f =>
    if !f.failed then .next s
    else .next ({ s with flits := AMap.erase s.flits flit }.postEngineError f.die 0 1 f.ctx f.va f.frame)

/-! ## Arrivals at homes (R363, R365) -/

/-- NODE_FLIT_ARRIVAL (R363, R368): a unicast flit reaches its node; stores and atomics to a multicast frame are
refused (an ATOM's step is decided when it issues, log 62). -/
def execNodeFlitArrival (node : Nat) (f : FlitRef) (s : State) : Out :=
  match f with
  | .own id =>
    (match AMap.get? s.flits id with
    | none => .next s
    | some x =>
      if fpaClass x.fpa ≠ 2 ∨ fpaNode x.fpa ≠ node then .next s
      else if s.isMcast x.fpa && !x.sure then .next (s.refuseFlit id x)
      else .next (s.performFlit id x))
  | .peer acc =>
    let a := peerAddr acc
    if fpaClass a ≠ 2 ∨ fpaNode a ≠ node ∨ s.fpaValid a = false ∨ s.isMcast a = true then .next s
    else .next (s.performPeer a acc)

/-- REMOTE_ACCESS_ARRIVAL (R365): a peer's access to this package is performed at its home slice; an access that names a
peer is that peer's own (log 33). -/
def execRemoteAccessArrival (acc : PeerAccess) (s : State) : Out :=
  let a := peerAddr acc
  if fpaClass a ≠ 1 ∨ 2 ^ 56 ≤ a then .next s
  else if fpaPkg a = s.pkg then
    .next (if bit s.fabcfg.toNat 7 then s.performPeer (a % 2 ^ 41) acc else s)
  else .next (s.performPeer a acc)

/-! ## Walks (R280) -/

/-- A party waits for a page. -/
def Hold.waitsFor (h : Hold) (page : Nat) : Bool :=
  match h with
  | .walk ps | .fault ps => mem? page ps
  | _ => false

/-- A party's wait for a page becomes a wait on the fault queue. -/
def Hold.queued (h : Hold) : Hold :=
  match h with
  | .walk ps => .fault ps
  | h => h

/-- A party's wait for a page is cancelled: its word issues again and takes PGF (R284). -/
def Party.cancelPage (p : Party) (page : Nat) : Party :=
  if p.hold.waitsFor page then { p with hold := .free, cancelled := addNew p.cancelled page } else p

/-- A function applied to every party among waiters. -/
def State.modWaiters (s : State) (ws : List Waiter) (f : Party → Party) : State :=
  ws.foldl (fun s w => match w with | .party t i | .range t i => s.modParty t i f | _ => s) s

/-- An agent without a TLB keeps an entry that a walk of a die has brought it (R280, R281). -/
def State.keepAgent (s : State) (die : Nat) (w : Waiter) (e : TlbEntry) : State :=
  let d := s.die die
  s.putDie die { d with agents := (w, e) :: d.agents.filter fun x => x != (w, e) }

/-- The entry that a walk brings reaches a waiter (R280): the TLBs of its core and cluster, the operation that asked for it, or another
agent itself. -/
def State.fillWaiter (s : State) (die : Nat) (e : TlbEntry) (w : Waiter) : State :=
  let core := fun (s : State) (t : Nat) => match s.task? t with | some x => s.fillTlb die x.core e | none => s
  match w with
  | .party t _ => core s t
  | .range t _ => (core s t).keepAgent die w e
  | .op id =>
    s.withOp id fun s o =>
      let s1 := s.putOp id { o with walked := (die, e) :: o.walked }
      match o.source with
      | .party _ => s1.fillTlb die o.core e
      | _ => s1
  | _ => s.keepAgent die w e

/-- It reaches every waiter. -/
def State.fillWaiters (s : State) (die : Nat) (ws : List Waiter) (e : TlbEntry) : State := ws.foldl (fun s w => s.fillWaiter die e w) s

/-- An operation goes on after a page. -/
def Op.resolved (o : Op) (page : Nat) : Op := { o with waiting := o.waiting.filter fun a => a / 65536 != page }

/-- An operation whose wait is cancelled ends with its fault error (R34, R177, R192, R200, R203, R391). -/
def State.cancelOp (s : State) (id : Nat) (o : Op) (va : Nat) : State :=
  match o.kind with
  | .acp .. | .stm .. | .comb .. => s.failOp id o 2 va
  | .press _ _ =>
    ((s.die o.die).pressQueues.filter fun q => mem? id q.ops).foldl (fun s q => s.pressPop o.die q.task q.key) (s.failOp id o 2 va)
  | .courier w => s.courierFault id o w va
  | .net w => s.netLocal id o w
  | .recv _ _ _ _ held =>
    (match held with
    | p :: _ => s.recvFail id o p
    | [] => (s.publish id o).endOp id o true)
  | .round fpa => s.failRound id o fpa va
  | .qlaunch _ frame .. => s.launchFail id o frame
  | .qcopy .. | .qfill .. | .qwrite .. => s.queueOpFail id o

/-! ### What a wait that ends means for an agent (R284) -/

/-- The front end goes on after a page: with a payload's check, or with a fence (R28, R32). -/
def State.resolveQueue (s : State) (q page : Nat) : State :=
  let x := s.queue q
  if !mem? page x.waiting then s
  else
    let s1 := s.putQueue q { x with waiting := x.waiting.filter (· != page) }
    match x.fence, x.fetched with
    | some _, _ => s1.evalFence q
    | none, some f => if f.checked then s1 else s1.checkPayload q f.bytes
    | none, none => s1

/-- The front end's wait is cancelled: FAULT in its queue (R28, R32, R34). -/
def State.cancelQueue (s : State) (q page : Nat) : State :=
  let x := s.queue q
  if !mem? page x.waiting then s
  else
    match x.fence with
    | some f => ((s.putQueue q { x with waiting := [], fence := none, resumed := false }).completeRec q f.1 2).raiseError q 4
    | none => (s.putQueue q { x with waiting := [] }).raiseError q 4

/-- The write that a task's frame waits for is made once its page is there or its home answers (R221, R331), and the troupe goes on from
there; an ended task's is its completion's. -/
def State.resolveImage (s : State) (tid : Nat) : State :=
  match s.task? tid with
  | none => s
  | some t =>
    match t.frameWait with
    | none => s
    | some w =>
      if t.failed || t.parties.all (·.ended) then s.putTask tid { t with frameWait := none }
      else ((s.writeFrame tid w).settleAwait tid).settleAwaitp tid

/-- A frame's write is cancelled (R221): the task fails, and one that has failed goes on without it. -/
def State.loseImage (s : State) (tid : Nat) : State :=
  match s.task? tid with
  | none => s
  | some t =>
    let s1 := s.putTask tid { t with frameWait := none, imageLost := t.imageLost || t.failed }
    if t.failed then s1 else s1.failTask tid 0x10 (Trap.notMapped 0 .write).info 0 false

/-- A join that goes on after a page (R255). -/
def Join.unblock (j : Join) : Join := { j with blocked := false }

/-- A page's wait is over, for one agent. -/
def State.resolveWaiter (s : State) (page : Nat) (w : Waiter) : State :=
  match w with
  | .party t i | .range t i => s.modParty t i fun p => { p with hold := p.hold.resolved page }
  | .op id => { s with ops := AMap.modify s.ops id fun o => o.resolved page }
  | .queue q => s.resolveQueue q page
  | .join t => s.modTask t fun x => { x with joining := x.joining.map Join.unblock }
  | .image t => s.resolveImage t
  | .root id true => { s with roots := AMap.modify s.roots id fun r => { r with joining := r.joining.map Join.unblock } }
  | .root id false => s.finishRoot id

/-- A page's wait is cancelled, for one agent. -/
def State.cancelWaiter (s : State) (page : Nat) (w : Waiter) : State :=
  match w with
  | .party t i | .range t i => s.modParty t i fun p => p.cancelPage page
  | .op id =>
    s.withOp id fun s o =>
      match o.waiting.find? fun a => a / 65536 == page with
      | some va => s.cancelOp id (o.resolved page) va
      | none => s
  | .queue q => s.cancelQueue q page
  | .join t => s.failJoin t 0x10 (Trap.notMapped 0 .write).info
  | .image t => s.loseImage t
  | .root id _ =>
    match AMap.get? s.roots id with
    | none => s
    | some r => s.endRoot id r 2

/-- Every waiter of a page goes on, or is cancelled. -/
def State.resolveAll (s : State) (ws : List Waiter) (page : Nat) : State := ws.foldl (fun s w => s.resolveWaiter page w) s
def State.cancelAll (s : State) (ws : List Waiter) (page : Nat) : State := ws.foldl (fun s w => s.cancelWaiter page w) s

/-- What the end of a walk comes to (R280, R283): a leaf reaches its waiters, and they go on; a page that is not mapped goes to the fault
queue, or counts as cancelled where there is none. -/
def State.walkEnds (s : State) (die : Nat) (w : Walk) (r : WalkResult) : State :=
  match r with
  | .leaf l =>
    (s.fillWaiters die w.waiters { ctx := w.ctx, va := pageBase l.size w.va, leaf := l }).resolveAll w.waiters w.page
  | .bad => s.resolveAll w.waiters w.page
  | .notMapped level =>
    if (s.die die).hasFaultRing then
      (s.postFault die w.ctx w.va w.access level w.waiters).modWaiters w.waiters fun p =>
        if p.hold.waitsFor w.page then { p with hold := p.hold.queued } else p
    else s.cancelAll w.waiters w.page

/-- WALK_COMPLETE (R280, R283): one of the running walks ends, and those that found no room try again. The walker of a die that has failed
stops, and a walk whose tables lie on one waits until that is known (R331). -/
def execWalkComplete (die ctx page : Nat) (s : State) : Out :=
  let d := s.die die
  match (d.walks.take Config.maxWalks).find? fun w => w.ctx == ctx && w.page == page with
  | none => .next s
  | some w =>
    if d.failed || s.walkWaits die ctx w.va then .next s
    else
      let s1 := s.putDie die { d with walks := d.walks.filter fun x => !(x.ctx == ctx && x.page == page) }
      .next (((s1.cacheWalk die ctx w.va).walkEnds die w (s.walkOn die ctx w.va)).admitWalks die)

/-! ## Answers to fault records (R284) -/

/-- The first miss that waited for room is posted, with the others of its page (R283). -/
def State.admitFault (s : State) (die : Nat) : State :=
  let d := s.die die
  match d.fqWaiting with
  | [] => s
  | w :: _ =>
    let here := fun (x : Walk) => x.ctx == w.ctx && x.page == w.page
    (d.fqWaiting.filter here).foldl (fun s x => s.postFault die x.ctx x.va x.access x.level x.waiters)
      (s.putDie die { d with fqWaiting := d.fqWaiting.filter fun x => !here x })

/-- A record is closed, and every agent attached to it acts at once (R284); another miss may take its place (R283). -/
def State.closeFault (s : State) (die id : Nat) (f : State → List Waiter → Nat → State) : State :=
  let d := s.die die
  match d.faults.find? fun x => x.id == id with
  | none => s
  | some r =>
    let s1 := s.putDie die { d with faults := d.faults.filter fun x => x.id != id }
    (f s1 r.waiters r.page).admitFault die

/-- FQRESP_RESOLVE and FQRESP_CANCEL (R283, R284). -/
def execFqrespResolve (die id : Nat) (s : State) : Out := .next (s.closeFault die id State.resolveAll)
def execFqrespCancel (die id : Nat) (s : State) : Out := .next (s.closeFault die id State.cancelAll)

end Sys2Proof.Machine
end

