-- ==== Sys2Proof/Machine/Failure.lean ====
section
/-! DEFINITION. Failures of bridges and dies, the wrap of the rings (R331 to R335), what a failed die takes with it (R356),
and the fabric's ports (R361). -/

namespace Sys2Proof.Machine

/-! ## The wrapped path (R331, R334) -/

/-- The path that the surviving dies wrap, or are about to wrap, into; none while the rings are whole. -/
def State.wrapPath (s : State) : Option (List Nat) :=
  match s.wrapNext with
  | some n => some n.2
  | none => if s.wrapped then some s.path else none

/-- Where a bridge stands on a path: before the second of two neighbours. -/
def bridgeAt (p : List Nat) (a : Nat) : Option Nat :=
  (List.range (p.length - 1)).find? fun i =>
    let x := p.getD i 8
    let y := p.getD (i + 1) 8
    (x == a && y == (a + 1) % 8) || (y == a && x == (a + 1) % 8)

/-- The piece of a split path that survives, and the one that is lost: the shorter one goes, or of equal ones the one
without die 0; where neither holds it, either may (log 34). -/
def keepPiece (fresh : Nat) (l r : List Nat) : List Nat × List Nat :=
  if r.length < l.length then (l, r)
  else if l.length < r.length then (r, l)
  else if mem? 0 l then (l, r)
  else if mem? 0 r then (r, l)
  else if Config.freeBit fresh then (l, r) else (r, l)

/-! ## The steps that a wrap aborts (R333, R335) -/

/-- A step has been formed, and its result acknowledged. -/
def CourierWork.stepDone (w : CourierWork) (c seg : Nat) : Bool :=
  w.formed.any (fun x => x == (c, seg)) && !(w.partials.any fun e => e.1 == keyKept c seg)

/-- The chunk of a rank's step in flight: the first one, in the order of its steps, that is not done. -/
def State.stepInWork (s : State) (o : Op) (w : CourierWork) : Option Nat :=
  let n := (s.courierRing w).length
  let j := s.localIndex o w
  ((List.range (n - 1)).map fun i => (j + 2 * n - 2 - i) % n).find? fun c => !w.segments.all (w.stepDone c)

/-- A transfer of a step: the operand on its way to a rank, or the result from it. -/
def Xfer.isStep (x : Xfer) (o : Op) (w : CourierWork) (c seg : Nat) : Bool :=
  !x.rail && x.phase == 1 && x.ctx == o.ctx && x.slot == w.slot && x.order == w.order && x.chunk == c && x.seg == seg

/-- One segment of a step aborted (R333): the receiver discards what it has formed, and the operand is sent again; a segment whose
result has been acknowledged is not formed again. -/
def State.abortSeg (s : State) (id c seg : Nat) : State :=
  s.withOp id fun s o =>
    match o.kind with
    | .courier w =>
      if w.stepDone c seg then s
      else
        let key := if w.partials.any fun e => e.1 == keyPartial c seg then keyPartial c seg else keyKept c seg
        let staged := w.partials.any fun e => e.1 == key
        let coming := s.xfers.any fun e => e.2.isStep o w c seg && e.2.dst == o.die
        if !staged && !coming then s
        else
          let w1 := ((w.unstage (keyPartial c seg)).unstage (keyKept c seg))
          let w2 := if c = s.localIndex o w then w1.unstage (keyResult seg) else w1
          let w3 := { w2 with formed := w.formed.filter fun x => x != (c, seg), aborted := (c, seg) :: w.aborted.filter fun x => x != (c, seg) }
          let s1 := { s with xfers := s.xfers.filter fun e => !(e.2.isStep o w c seg && e.2.src == o.die) }
          let s2 := s1.putOp id { o with kind := .courier w3 }
          let prev := s.courierPrev o w
          if staged then
            match (s.courierOps prev o.ctx w.slot).find? fun e => e.2.2.kind != 3 && e.2.2.order == w.order && e.2.2.check == w.check with
            | some e => s2.sendSeg e.1 e.2.1 e.2.2 1 o.die c seg (w.piece key) (w.runs key)
            | none => s2.sendSeg id { o with die := prev } w 1 o.die c seg (w.piece key) (w.runs key)
          else s2
    | _ => s

/-- The operand of a step is on its way to its rank, or staged there. -/
def State.stepStarted (s : State) (o : Op) (w : CourierWork) (c seg : Nat) : Bool :=
  (w.partials.any fun e => e.1 == keyPartial c seg || e.1 == keyKept c seg) || s.xfers.any fun e => e.2.isStep o w c seg && e.2.dst == o.die

/-- What a break cuts off of a Courier operation: the segments of its step in flight, where the operand has left for it and can no longer
come that way (R333, R335). -/
def State.cutWork (s : State) (o : Op) (w : CourierWork) : CourierWork :=
  let prev := s.courierPrev o w
  if w.step ≠ 2 ∨ (w.kind ≠ 1 ∧ w.kind ≠ 2) ∨ s.linksOk prev (s.route prev o.die w.ring 1) then w
  else
    match s.stepInWork o w with
    | some c => { w with cut := (w.segments.filter fun k => !w.stepDone c k && s.stepStarted o w c k).foldl (fun l k => addPair l (c, k)) w.cut }
    | none => w

/-- A break, as it happens, cuts off steps in flight; what is sent afterwards is in flight only over the wrapped path. -/
def State.cutSteps (s : State) : State :=
  { s with ops := s.ops.map fun e =>
      match e.2.kind with
      | .courier w => (e.1, { e.2 with kind := .courier (s.cutWork e.2 w) })
      | _ => e }

/-- The steps that the breaks cut off are aborted at the wrap, but for what has been acknowledged meanwhile (R333). -/
def State.abortSteps (s : State) : State :=
  s.ops.foldl (fun a e =>
    match e.2.kind with
    | .courier w =>
      (w.cut.foldl (fun a x => a.abortSeg e.1 x.1 x.2) a).withOp e.1 fun a o =>
        match o.kind with
        | .courier w => a.putOp e.1 { o with kind := .courier { w with cut := [] } }
        | _ => a
    | _ => a) s

/-! ## What a failed die takes with it (R356) -/

/-- The indices of an item's unstarted children. -/
def Kids.indices : Kids → List Nat
  | .lanes l => l.map (·.1)
  | .range i st n _ => (List.range n).map fun k => i + k * st

/-- The record of a lost task. -/
def State.postLost (s : State) (d ctx : Nat) (frame cidx : DWord) : State :=
  s.postEvent s.frontDie 0x0F 0 (payloadOf [(16, 2, ctx), (18, 1, d), (24, 8, frame.toNat), (32, 8, cidx.toNat)])

/-- What a lost child leaves its parent. -/
def lostKid (cidx : DWord) (det : Bool) (received : AMap Byte) : KidResult :=
  { cidx := cidx, failed := true, det := det, storeSet := [], tags := [], pages := [], received := received, steps := [], summary := []
    seen := Seen.none }

/-- A frame's memory lies in the HBM of a die that has just failed: where its page lay until then. -/
def State.frameOn (s : State) (d : Nat) (t : Task) : Bool :=
  match (s.putDie d { (s.die d) with failed := false }).peekAgent t.ctx t.frame.toNat with
  | .hit _ fpa => fpaClass fpa == 0 && fpaDie fpa == d
  | _ => false

/-- A context's carve-out lies in a die's HBM (R272). -/
def State.carveOn (s : State) (d ctx : Nat) : Bool :=
  let x := s.ctx ctx
  bits x.hids.toNat 0 32 != 0 && fpaDie x.hidb.toNat == d

/-- A task is lost with a die (R356): it stands there, or its image lies in the die's HBM. -/
def State.lostWith (s : State) (d : Nat) (t : Task) : Bool :=
  t.die == d || (s.carveOn d t.ctx &&
    match t.phase with
    | .running => false
    | .parked | .resuming => true
    | .out id => ((AMap.get? s.images id).map fun (i : Image) => i.ready).getD true)

/-- A task of the failed die: it is gone, and its parent counts it. -/
def State.loseTask (s : State) (d tid : Nat) : State :=
  match s.task? tid with
  | none => s
  | some t => ((s.postLost d t.ctx t.frame t.cidx).removeTask tid t.die).deliver t.parent (lostKid t.cidx t.det t.received)

/-- A task elsewhere whose frame is lost: it fails. -/
def State.loseFrame (s : State) (d tid : Nat) : State :=
  match s.task? tid with
  | none => s
  | some t =>
    (s.putTask tid { t with failed := true, tiles := [], kids := [], joinWait := false, joining := none }).postLost d t.ctx t.frame t.cidx

/-- Queued work of the failed die: every unstarted child of an item. -/
def State.loseItem (s : State) (d : Nat) (x : Item) : State :=
  x.kids.indices.foldl (fun s k =>
    (s.postLost d x.ctx 0 (cidxOf x.party x.seq k)).deliver x.parent (lostKid (cidxOf x.party x.seq k) x.det [])) s

/-- The die's tasks, its queued work, the images that it held, and the tasks elsewhere whose frames it held. -/
def State.loseWork (s : State) (d : Nat) : State :=
  let gone := s.tasks.filter fun e => s.lostWith d e.2
  let framed := s.tasks.filter fun e => !s.lostWith d e.2 && !e.2.failed && s.frameOn d e.2
  let items := (s.items.filter fun x => x.1.die == d).map (·.2)
  let parents := (gone.map (·.2.parent) ++ items.map (·.parent)).eraseDups
  let x := s.die d
  let lostImage := fun (i : Image) => i.die == d || (i.ready && s.carveOn d i.ctx)
  let lostId := fun (id : Nat) => ((AMap.get? s.images id).map lostImage).getD false
  let s1 := s.putDie d { x with queue := [], resumes := [], walks := [], stalled := [], agents := [], fqWaiting := [], pressQueues := [], rounds := [], rails := [] }
  let s2 := { s1 with
    cores := (s1.cores.filter fun e => e.1 / 96 != d).map fun e =>
      (e.1, if (e.2.fill.map lostId).getD false then { e.2 with fill := none } else e.2)
    dies := s1.dies.map fun e =>
      (e.1, { e.2 with resumes := e.2.resumes.filter fun r => match r with | .image id => !lostId id | .troupe _ => true })
    images := s1.images.filter fun e => !lostImage e.2
    ops := s1.ops.filter fun e => e.2.die != d || match e.2.source with | .queue _ _ => true | _ => false }
  let s3 := gone.foldl (fun s e => s.loseTask d e.1) s2
  let s4 := items.foldl (fun s x => s.loseItem d x) s3
  let s5 := framed.foldl (fun s e => s.loseFrame d e.1) s4
  parents.foldl State.settleParent s5

/-- The Courier operations in flight of groups that contain the die end with DEADRANK on every surviving rank (R200,
R334), those of other packages among them, where no operation of theirs stands here as well. -/
def State.deadRanks (s : State) (d : Nat) : State :=
  let s1 := (s.ops.filterMap fun e => match e.2.kind with | .courier w => if mem? d (s.courierRing w) then some e.1 else none | _ => none).foldl
    (fun s id => s.withOp id fun s o =>
      match o.kind with
      | .courier w => s.courierFail id o w 5 w.dst.toNat
      | _ => s) s
  let groups := (s1.dies.filter fun e => !e.2.failed).flatMap fun e => e.2.slots.filterMap fun x =>
    if mem? d (groupDies x.2.words s1.pkg) then some (e.1, x.1, x.2.words) else none
  (groups.foldl (fun l x => if l.any fun y => y.2 == x.2 then l else l ++ [x]) []).foldl
    (fun s x => s.tellDead x.1 (x.2.1 / 64) (x.2.1 % 64)) s1

/-- Parties that wait at a PBAR of a group that contains the die take CDG (R111). -/
def State.deadBars (s : State) (d : Nat) : State :=
  s.cdgBars fun b => b.die == d || ((s.slotWords b.die b.ctx b.slot).map fun w => mem? d (groupDies w s.pkg)).getD false

/-- What waited on the front end's own fault queue there is looked at again on the next one (R344). -/
def State.moveFront (s : State) (d : Nat) : State :=
  let s1 : State := { s with ops := s.ops.map fun e => (e.1, if e.2.die = d then { e.2 with die := s.frontDie, waiting := [] } else e.2) }
  if d < s.frontDie then
    { s1 with
      queues := s1.queues.map fun e => (e.1, { e.2 with waiting := [] })
      roots := s1.roots.map fun e => (e.1, { e.2 with joining := e.2.joining.map Join.unblock }) }
  else s1

/-- What has waited for an answer from a die goes on once its failure is known (R331): completions, frames, root ranges, and queues about to
be enabled. -/
def State.answerLost (s : State) : State :=
  let s1 := s.lateRecs.foldl (fun s x => s.completeRec x.1 x.2.1 x.2.2) { s with lateRecs := [] }
  let s2 := (s1.tasks.filter fun e => e.2.imageWait).foldl (fun s e => s.resolveImage e.1) s1
  let s3 := (s2.roots.filter fun e => e.2.joined).foldl (fun s e => s.finishRoot e.1) s2
  (s3.queues.filter fun e => e.2.enable && e.2.state == .stopped).foldl (fun s e =>
    (s.putQueue e.1 { (s.queue e.1) with enable := false }).enableQueue e.1) s3

/-- A die is marked failed (R334, R356). -/
def State.markFailed (s : State) (d : Nat) : State :=
  if (s.die d).detected then s
  else
    let s1 := s.putDie d { (s.die d) with failed := true, detected := true }
    ((((s1.deadRanks d).deadBars d).loseWork d).moveFront d).answerLost

/-! ## Events -/

/-- The failures that wait for the wrap (R331). -/
def State.pendingFailures (s : State) : List (Nat × Nat) := (s.wrapNext.map (·.1)).getD []

/-- A failure on a wrapped path, or on one about to be: what remains of it, and the dies cut off are marked failed
(R334). -/
def State.secondFailure (s : State) (kind at_ : Nat) (l r : List Nat) : State :=
  let k := if l.isEmpty then (r, []) else if r.isEmpty then (l, []) else keepPiece s.fresh l r
  k.2.foldl State.markFailed { s with wrapNext := some (s.pendingFailures ++ [(kind, at_)], k.1) }.cutSteps

/-- BRIDGE_FAILURE (R331, R334): the bridge between `a` and `a + 1`. -/
def execBridgeFailure (a : Nat) (s : State) : Out :=
  if 8 ≤ a then .next s
  else
    match s.wrapPath with
    | none => .next { s with wrapNext := some ([(0, a)], (List.range 8).map fun i => (a + 1 + i) % 8) }.cutSteps
    | some p =>
      match bridgeAt p a with
      | none => .next s
      | some i => .next (s.secondFailure 0 a (p.take (i + 1)) (p.drop (i + 1)))

/-- DIE_FAILURE (R331, R334): a die stops. -/
def execDieFailure (die : Nat) (s : State) : Out :=
  if 8 ≤ die ∨ (s.die die).failed then .next s
  else
    let s1 := s.putDie die { (s.die die) with failed := true }
    match s1.wrapPath with
    | none => .next { s1 with wrapNext := some ([(1, die)], (List.range 7).map fun i => (die + 1 + i) % 8) }.cutSteps
    | some p =>
      match p.findIdx? fun x => x == die with
      | none => .next s1
      | some i => .next (s1.secondFailure 1 die (p.take i) (p.drop (i + 1)))

/-- DIE_SILENCE_TIMEOUT (R331): 10 µs without an acknowledgement from a failed die. -/
def execDieSilenceTimeout (die : Nat) (s : State) : Out :=
  .next (if die < 8 && (s.die die).failed then s.markFailed die else s)

/-- DEADMASK: the dies marked failed. -/
def State.deadBits (s : State) : Nat := ((List.range 8).map fun d => if (s.die d).detected then 2 ^ d else 0).sum

/-- Every die that has failed has been detected (R331). -/
def State.allDetected (s : State) : Bool := (List.range 8).all fun d => !(s.die d).failed || (s.die d).detected

/-- RING_WRAP_COMPLETE (R331, R333, R335): the wrap of the failures that have been detected, with a record for each in the event queue of
every surviving die; the steps in flight that they cut are formed again. -/
def execRingWrapComplete (s : State) : Out :=
  match s.wrapNext with
  | none => .next s
  | some (fails, p) =>
    if !s.allDetected then .next s
    else
      let dead := s.deadBits
      let s1 := { s.abortSteps with wrapped := true, path := p, wrapNext := none, deadMask := BitVec.ofNat 8 dead }
      let bytes := (List.range 8).map fun i => (20 + i, 1, p.getD i 0xFF)
      let dies := (List.range 8).filter fun d => !(s1.die d).failed
      .next (fails.foldl (fun s x => dies.foldl (fun s d =>
        s.postEvent d 0x04 0 (payloadOf ([(16, 1, x.1), (17, 1, x.2), (18, 1, dead)] ++ bytes))) s) s1)

/-- FABRIC_PORT_STATE_CHANGE (R361, R365): FABSTAT.PORTUP, or the port of a peer package to a node, the other end of a path. -/
def execFabricPortStateChange (node : FabricPort) (up : Bool) (s : State) : Out :=
  match node with
  | .own n =>
    if 32 ≤ n then .next s
    else .next { s with portUp := (s.portUp &&& ~~~BitVec.ofNat 32 (2 ^ n)) ||| BitVec.ofNat 32 (2 ^ n * b2n up) }
  | .far n p =>
    let rest := s.farDown.filter fun x => !(x == (n, p))
    .next (if 32 ≤ n then s else { s with farDown := if up then rest else (n, p) :: rest })

end Sys2Proof.Machine
end

