-- ==== Sys2Proof/Machine/Lanes.lean ====
section
/-! DEFINITION. Instructions that combine the lanes of a party (R130 to R133). Each is party-wide (R230). -/

namespace Sys2Proof.Machine

/-! ## SHFL (R130) -/

/-- d[l] := a[source l] in each active lane, every source read first. -/
def shuffle (d a : BitVec 7) (src : Party → Nat → Nat) (more : List RegUse) : PartyFn := fun env p => do
  useRegs env p ([.v d.toNat, .v a.toNat] ++ more)
  pure (p.setV d.toNat fun l => p.vreg a.toNat (src p l))

def execShflIdx (d a b : BitVec 7) (s : State) : Out :=
  s.runWide 1 (shuffle d a (fun p l => (p.vreg b.toNat l).toNat % 32) [.v b.toNat])
def execShflUp (d a : BitVec 7) (n : BitVec 5) (s : State) : Out :=
  s.runWide 1 (shuffle d a (fun _ l => if l < n.toNat then l else l - n.toNat) [])
def execShflDn (d a : BitVec 7) (n : BitVec 5) (s : State) : Out :=
  s.runWide 1 (shuffle d a (fun _ l => if 31 < l + n.toNat then l else l + n.toNat) [])
def execShflXor (d a : BitVec 7) (n : BitVec 5) (s : State) : Out :=
  s.runWide 1 (shuffle d a (fun _ l => l ^^^ n.toNat) [])

/-! ## VOTE (R131) -/

/-- The active lanes in which VOTE's condition holds. -/
def Party.voteLanes (p : Party) (n : BitVec 1) (k : BitVec 3) : BitVec 32 := p.predLanes (n == 1#1) k.toNat p.exm

def execVoteAny (q : BitVec 3) (n : BitVec 1) (k : BitVec 3) (s : State) : Out :=
  s.runWide 1 fun _ p => .ok (p.setQ q.toNat (p.voteLanes n k != 0#32))
def execVoteAll (q : BitVec 3) (n : BitVec 1) (k : BitVec 3) (s : State) : Out :=
  s.runWide 1 fun _ p => .ok (p.setQ q.toNat (p.voteLanes n k == p.exm))
def execVoteBallot (d : BitVec 7) (n : BitVec 1) (k : BitVec 3) (s : State) : Out :=
  s.runWide 1 fun env p => do
    useRegs env p [.u d.toNat]
    pure (p.setU d.toNat (p.voteLanes n k))
def execVoteUni (q : BitVec 3) (n : BitVec 1) (k : BitVec 3) (s : State) : Out :=
  s.runWide 1 fun _ p => .ok (p.setQ q.toNat (p.voteLanes n k == p.exm || p.voteLanes n k == 0#32))

/-! ## LRED and LSCAN (R132) -/

/-- FADD's operator with its flags. -/
def laneFadd (mode : Nat) (x y : Word) : Word × BitVec 5 :=
  let r := fp32.add mode x.toNat y.toNat
  (BitVec.ofNat 32 r.1, r.2)

/-- LRED's operators by code. -/
def lredOp (mode : Nat) (o : BitVec 3) (x y : Word) : Word × BitVec 5 :=
  match o.toNat with
  | 0 => (x + y, 0#5)
  | 1 => (iminSW x y, 0#5)
  | 2 => (imaxSW x y, 0#5)
  | 3 => (x &&& y, 0#5)
  | 4 => (x ||| y, 0#5)
  | 5 => (x ^^^ y, 0#5)
  | 6 => laneFadd mode x y
  | _ =>
    let r := fp32.minMax true true x.toNat y.toNat
    (BitVec.ofNat 32 r.1, r.2)

/-- LSCAN's operators by code, with the exclusive identity. -/
def lscanOp (mode : Nat) (o : BitVec 3) : (Word → Word → Word × BitVec 5) × Word :=
  match o.toNat / 2 with
  | 0 => (fun x y => (x + y, 0#5), 0#32)
  | 1 => (laneFadd mode, 0x80000000#32)
  | _ => (fun x y => (imaxSW x y, 0#5), 0x80000000#32)

/-- The inclusive values of a list, left to right, with the flags raised. -/
def prefixes (f : Word → Word → Word × BitVec 5) : Word → List Word → List Word × BitVec 5
  | acc, [] => ([acc], 0#5)
  | acc, x :: xs =>
    let r := f acc x
    let t := prefixes f r.1 xs
    (acc :: t.1, r.2 ||| t.2)

/-- The inclusive values over the active lanes. -/
def Party.scan (p : Party) (a : Nat) (f : Word → Word → Word × BitVec 5) : List Word × BitVec 5 :=
  match (lanesOf p.exm).map fun l => p.vreg a l with
  | [] => ([], 0#5)
  | x :: xs => prefixes f x xs

def execLred (d a : BitVec 7) (o : BitVec 3) (s : State) : Out :=
  s.runWide 1 fun env p => do
    useRegs env p [.u d.toNat, .v a.toNat]
    let r := p.scan a.toNat (lredOp p.rnd o)
    pure ((p.setU d.toNat (r.1.getLastD 0)).raise r.2)

def execLscan (d a : BitVec 7) (o : BitVec 3) (s : State) : Out :=
  s.runWide 1 fun env p => do
    useRegs env p [.v d.toNat, .v a.toNat]
    let (f, id) := lscanOp p.rnd o
    let r := p.scan a.toNat f
    let vals := if o.toNat % 2 = 0 then r.1 else id :: r.1
    pure ((p.setV d.toNat fun l => vals.getD ((lanesOf p.exm).findIdx (· == l)) 0).raise r.2)

/-! ## MATCH (R133) -/

def execMatchLanes (d a : BitVec 7) (s : State) : Out :=
  s.runWide 1 fun env p => do
    useRegs env p [.v d.toNat, .v a.toNat]
    pure (p.setV d.toNat fun l => maskOf fun m => p.exm.getLsbD m && p.vreg a.toNat m == p.vreg a.toNat l)

end Sys2Proof.Machine
end

