-- ==== Sys2Proof/Machine/Dispatch.lean ====
section
/-! DEFINITION. The dispatch: one arm per step of the part, each one direct call of its meaning. -/

namespace Sys2Proof.Machine

def exec (i : Instr) (s : State) : Host.Outcome State Fault Refusal :=
  match i with
  | .clh w a b l y => Sys2Proof.Machine.execClh w a b l y s
  | .bra n p o => Sys2Proof.Machine.execBra n p o s
  | .brd n p o t => Sys2Proof.Machine.execBrd n p o t s
  | .jtab a b t => Sys2Proof.Machine.execJtab a b t s
  | .jmpi a => Sys2Proof.Machine.execJmpi a s
  | .call n p o => Sys2Proof.Machine.execCall n p o s
  | .wbase m r im => Sys2Proof.Machine.execWbase m r im s
  | .trapi im => Sys2Proof.Machine.execTrapi im s
  | .ppt tv tu tc => Sys2Proof.Machine.execPpt tv tu tc s
  | .mark im => Sys2Proof.Machine.execMark im s
  | .spawn d a b c => Sys2Proof.Machine.execSpawn d a b c s
  | .spawnr d a b c => Sys2Proof.Machine.execSpawnr d a b c s
  | .await a => Sys2Proof.Machine.execAwait a s
  | .awaitp a => Sys2Proof.Machine.execAwaitp a s
  | .awaitc a b => Sys2Proof.Machine.execAwaitc a b s
  | .bclose d => Sys2Proof.Machine.execBclose d s
  | .bwait a => Sys2Proof.Machine.execBwait a s
  | .bstat d f => Sys2Proof.Machine.execBstat d f s
  | .bar a im => Sys2Proof.Machine.execBar a im s
  | .pbar a => Sys2Proof.Machine.execPbar a s
  | .signal a b => Sys2Proof.Machine.execSignal a b s
  | .iadd d a b u => Sys2Proof.Machine.execIadd d a b u s
  | .isub d a b u => Sys2Proof.Machine.execIsub d a b u s
  | .iaddSs d a b u => Sys2Proof.Machine.execIaddSs d a b u s
  | .iaddZs d a b u => Sys2Proof.Machine.execIaddZs d a b u s
  | .isubSs d a b u => Sys2Proof.Machine.execIsubSs d a b u s
  | .isubZs d a b u => Sys2Proof.Machine.execIsubZs d a b u s
  | .iabsd d a b u => Sys2Proof.Machine.execIabsd d a b u s
  | .iavg d a b u => Sys2Proof.Machine.execIavg d a b u s
  | .iadd64 d a b u => Sys2Proof.Machine.execIadd64 d a b u s
  | .isub64 d a b u => Sys2Proof.Machine.execIsub64 d a b u s
  | .shl64 d a b u => Sys2Proof.Machine.execShl64 d a b u s
  | .shr64 d a b u => Sys2Proof.Machine.execShr64 d a b u s
  | .sar64 d a b u => Sys2Proof.Machine.execSar64 d a b u s
  | .imulw d a b u => Sys2Proof.Machine.execImulw d a b u s
  | .imulwZ d a b u => Sys2Proof.Machine.execImulwZ d a b u s
  | .imul d a b u => Sys2Proof.Machine.execImul d a b u s
  | .imulhS d a b u => Sys2Proof.Machine.execImulhS d a b u s
  | .imulhZ d a b u => Sys2Proof.Machine.execImulhZ d a b u s
  | .imad d a b u => Sys2Proof.Machine.execImad d a b u s
  | .idot4S d a b u => Sys2Proof.Machine.execIdot4S d a b u s
  | .idot4Z d a b u => Sys2Proof.Machine.execIdot4Z d a b u s
  | .idot2 d a b u => Sys2Proof.Machine.execIdot2 d a b u s
  | .iminS d a b u => Sys2Proof.Machine.execIminS d a b u s
  | .iminZ d a b u => Sys2Proof.Machine.execIminZ d a b u s
  | .imaxS d a b u => Sys2Proof.Machine.execImaxS d a b u s
  | .imaxZ d a b u => Sys2Proof.Machine.execImaxZ d a b u s
  | .iabs d a u => Sys2Proof.Machine.execIabs d a u s
  | .ineg d a u => Sys2Proof.Machine.execIneg d a u s
  | .isgn d a u => Sys2Proof.Machine.execIsgn d a u s
  | .and d a b u => Sys2Proof.Machine.execAnd d a b u s
  | .or d a b u => Sys2Proof.Machine.execOr d a b u s
  | .xor d a b u => Sys2Proof.Machine.execXor d a b u s
  | .andn d a b u => Sys2Proof.Machine.execAndn d a b u s
  | .orn d a b u => Sys2Proof.Machine.execOrn d a b u s
  | .xnor d a b u => Sys2Proof.Machine.execXnor d a b u s
  | .not d a u => Sys2Proof.Machine.execNot d a u s
  | .shl d a b u => Sys2Proof.Machine.execShl d a b u s
  | .shr d a b u => Sys2Proof.Machine.execShr d a b u s
  | .sar d a b u => Sys2Proof.Machine.execSar d a b u s
  | .rol d a b u => Sys2Proof.Machine.execRol d a b u s
  | .ror d a b u => Sys2Proof.Machine.execRor d a b u s
  | .fshl d a b u => Sys2Proof.Machine.execFshl d a b u s
  | .fshr d a b u => Sys2Proof.Machine.execFshr d a b u s
  | .popc d a u => Sys2Proof.Machine.execPopc d a u s
  | .clz d a u => Sys2Proof.Machine.execClz d a u s
  | .ctz d a u => Sys2Proof.Machine.execCtz d a u s
  | .brev d a u => Sys2Proof.Machine.execBrev d a u s
  | .bfeZ d a b u => Sys2Proof.Machine.execBfeZ d a b u s
  | .bfeS d a b u => Sys2Proof.Machine.execBfeS d a b u s
  | .bfi d a b u => Sys2Proof.Machine.execBfi d a b u s
  | .prmt d a b u => Sys2Proof.Machine.execPrmt d a b u s
  | .isetp d a b u c => Sys2Proof.Machine.execIsetp d a b u c s
  | .sel d a b u n => Sys2Proof.Machine.execSel d a b u n s
  | .mov d a u => Sys2Proof.Machine.execMov d a u s
  | .mfs d a => Sys2Proof.Machine.execMfs d a s
  | .mts d a => Sys2Proof.Machine.execMts d a s
  | .vxget d k b => Sys2Proof.Machine.execVxget d k b s
  | .vxput d k b => Sys2Proof.Machine.execVxput d k b s
  | .p2v d a => Sys2Proof.Machine.execP2v d a s
  | .v2p d a => Sys2Proof.Machine.execV2p d a s
  | .uvget d a b => Sys2Proof.Machine.execUvget d a b s
  | .iaddi d a im => Sys2Proof.Machine.execIaddi d a im s
  | .movi d im => Sys2Proof.Machine.execMovi d im s
  | .movl d a lit => Sys2Proof.Machine.execMovl d a lit s
  | .lea d a b => Sys2Proof.Machine.execLea d a b s
  | .leaG d a b => Sys2Proof.Machine.execLeaG d a b s
  | .sadd d a b => Sys2Proof.Machine.execSadd d a b s
  | .ssub d a b => Sys2Proof.Machine.execSsub d a b s
  | .smul d a b => Sys2Proof.Machine.execSmul d a b s
  | .sand d a b => Sys2Proof.Machine.execSand d a b s
  | .sor d a b => Sys2Proof.Machine.execSor d a b s
  | .sxor d a b => Sys2Proof.Machine.execSxor d a b s
  | .sshl d a b => Sys2Proof.Machine.execSshl d a b s
  | .sshr d a b => Sys2Proof.Machine.execSshr d a b s
  | .sminS d a b => Sys2Proof.Machine.execSminS d a b s
  | .smaxS d a b => Sys2Proof.Machine.execSmaxS d a b s
  | .sminZ d a b => Sys2Proof.Machine.execSminZ d a b s
  | .smaxZ d a b => Sys2Proof.Machine.execSmaxZ d a b s
  | .sadd64 d a b => Sys2Proof.Machine.execSadd64 d a b s
  | .ssub64 d a b => Sys2Proof.Machine.execSsub64 d a b s
  | .ssar d a b => Sys2Proof.Machine.execSsar d a b s
  | .spopc d a => Sys2Proof.Machine.execSpopc d a s
  | .ssetq d a b c => Sys2Proof.Machine.execSsetq d a b c s
  | .saddi d a im => Sys2Proof.Machine.execSaddi d a im s
  | .smovi d im => Sys2Proof.Machine.execSmovi d im s
  | .slea d a b => Sys2Proof.Machine.execSlea d a b s
  | .sleaG d a b => Sys2Proof.Machine.execSleaG d a b s
  | .shflIdx d a b => Sys2Proof.Machine.execShflIdx d a b s
  | .shflUp d a n => Sys2Proof.Machine.execShflUp d a n s
  | .shflDn d a n => Sys2Proof.Machine.execShflDn d a n s
  | .shflXor d a n => Sys2Proof.Machine.execShflXor d a n s
  | .voteAny q n p => Sys2Proof.Machine.execVoteAny q n p s
  | .voteAll q n p => Sys2Proof.Machine.execVoteAll q n p s
  | .voteBallot d n p => Sys2Proof.Machine.execVoteBallot d n p s
  | .voteUni q n p => Sys2Proof.Machine.execVoteUni q n p s
  | .lred d a o => Sys2Proof.Machine.execLred d a o s
  | .lscan d a o => Sys2Proof.Machine.execLscan d a o s
  | .matchLanes d a => Sys2Proof.Machine.execMatchLanes d a s
  | .fadd d a b u => Sys2Proof.Machine.execFadd d a b u s
  | .fsub d a b u => Sys2Proof.Machine.execFsub d a b u s
  | .fmul d a b u => Sys2Proof.Machine.execFmul d a b u s
  | .fmin d a b u => Sys2Proof.Machine.execFmin d a b u s
  | .fmax d a b u => Sys2Proof.Machine.execFmax d a b u s
  | .fminn d a b u => Sys2Proof.Machine.execFminn d a b u s
  | .fmaxn d a b u => Sys2Proof.Machine.execFmaxn d a b u s
  | .fcsgn d a b u => Sys2Proof.Machine.execFcsgn d a b u s
  | .ffma d a b u => Sys2Proof.Machine.execFfma d a b u s
  | .ffms d a b u => Sys2Proof.Machine.execFfms d a b u s
  | .fnfma d a b u => Sys2Proof.Machine.execFnfma d a b u s
  | .fnfms d a b u => Sys2Proof.Machine.execFnfms d a b u s
  | .fsetp d a b u c => Sys2Proof.Machine.execFsetp d a b u c s
  | .fclass d a u => Sys2Proof.Machine.execFclass d a u s
  | .frnd d a u => Sys2Proof.Machine.execFrnd d a u s
  | .fldexp d a b u => Sys2Proof.Machine.execFldexp d a b u s
  | .fgetx d a u => Sys2Proof.Machine.execFgetx d a u s
  | .ffrac d a u => Sys2Proof.Machine.execFfrac d a u s
  | .fabs d a u => Sys2Proof.Machine.execFabs d a u s
  | .fneg d a u => Sys2Proof.Machine.execFneg d a u s
  | .fsat d a u => Sys2Proof.Machine.execFsat d a u s
  | .rcp d a f u => Sys2Proof.Machine.execRcp d a f u s
  | .rsq d a f u => Sys2Proof.Machine.execRsq d a f u s
  | .sqrt d a f u => Sys2Proof.Machine.execSqrt d a f u s
  | .ex2 d a f u => Sys2Proof.Machine.execEx2 d a f u s
  | .lg2 d a f u => Sys2Proof.Machine.execLg2 d a f u s
  | .sinpi d a f u => Sys2Proof.Machine.execSinpi d a f u s
  | .cospi d a f u => Sys2Proof.Machine.execCospi d a f u s
  | .fdiv d a f b u => Sys2Proof.Machine.execFdiv d a f b u s
  | .hadd2 d a b t => Sys2Proof.Machine.execHadd2 d a b t s
  | .hsub2 d a b t => Sys2Proof.Machine.execHsub2 d a b t s
  | .hmul2 d a b t => Sys2Proof.Machine.execHmul2 d a b t s
  | .hfma2 d a b t => Sys2Proof.Machine.execHfma2 d a b t s
  | .hmin2 d a b t => Sys2Proof.Machine.execHmin2 d a b t s
  | .hmax2 d a b t => Sys2Proof.Machine.execHmax2 d a b t s
  | .hrcp d a f t => Sys2Proof.Machine.execHrcp d a f t s
  | .hrsq d a f t => Sys2Proof.Machine.execHrsq d a f t s
  | .hsqrt d a f t => Sys2Proof.Machine.execHsqrt d a f t s
  | .hex2 d a f t => Sys2Proof.Machine.execHex2 d a f t s
  | .hlg2 d a f t => Sys2Proof.Machine.execHlg2 d a f t s
  | .hsinpi d a f t => Sys2Proof.Machine.execHsinpi d a f t s
  | .hcospi d a f t => Sys2Proof.Machine.execHcospi d a f t s
  | .cvt d a e sf x p => Sys2Proof.Machine.execCvt d a e sf x p s
  | .fmtset sf a => Sys2Proof.Machine.execFmtset sf a s
  | .qscale d a f => Sys2Proof.Machine.execQscale d a f s
  | .qcvt d a b f => Sys2Proof.Machine.execQcvt d a b f s
  | .qst d a b f => Sys2Proof.Machine.execQst d a b f s
  | .dqld d a b x f => Sys2Proof.Machine.execDqld d a b x f s
  | .dq d a b f => Sys2Proof.Machine.execDq d a b f s
  | .rekey d a b f => Sys2Proof.Machine.execRekey d a b f s
  | .ld d a b x w => Sys2Proof.Machine.execLd d a b x w s
  | .ldi d a im f => Sys2Proof.Machine.execLdi d a im f s
  | .st d a b w => Sys2Proof.Machine.execSt d a b w s
  | .sti d a im => Sys2Proof.Machine.execSti d a im s
  | .lds d a f b w => Sys2Proof.Machine.execLds d a f b w s
  | .sts d a b w => Sys2Proof.Machine.execSts d a b w s
  | .ldu d a b x w => Sys2Proof.Machine.execLdu d a b x w s
  | .atom d a f b o => Sys2Proof.Machine.execAtom d a f b o s
  | .ared a b o => Sys2Proof.Machine.execAred a b o s
  | .acp a => Sys2Proof.Machine.execAcp a s
  | .cwb a b => Sys2Proof.Machine.execCwb a b s
  | .cinvD d a b => Sys2Proof.Machine.execCinvD d a b s
  | .cinvW a b => Sys2Proof.Machine.execCinvW a b s
  | .pref a l => Sys2Proof.Machine.execPref a l s
  | .cprobe d a f => Sys2Proof.Machine.execCprobe d a f s
  | .stm a => Sys2Proof.Machine.execStm a s
  | .comb a => Sys2Proof.Machine.execComb a s
  | .gang a b => Sys2Proof.Machine.execGang a b s
  | .pmma d a b p => Sys2Proof.Machine.execPmma d a b p s
  | .paccZero d => Sys2Proof.Machine.execPaccZero d s
  | .paccLda d a => Sys2Proof.Machine.execPaccLda d a s
  | .paccSta d a => Sys2Proof.Machine.execPaccSta d a s
  | .paccStaq d a f => Sys2Proof.Machine.execPaccStaq d a f s
  | .paccRda d a b f => Sys2Proof.Machine.execPaccRda d a b f s
  | .paccScale d a => Sys2Proof.Machine.execPaccScale d a s
  | .cgrp a => Sys2Proof.Machine.execCgrp a s
  | .cag a => Sys2Proof.Machine.execCag a s
  | .crs a => Sys2Proof.Machine.execCrs a s
  | .car a => Sys2Proof.Machine.execCar a s
  | .chand a => Sys2Proof.Machine.execChand a s
  | .cstat d a f => Sys2Proof.Machine.execCstat d a f s
  | .npost a => Sys2Proof.Machine.execNpost a s
  | .npoll d a f => Sys2Proof.Machine.execNpoll d a f s
  | .syscallVersion a => Sys2Proof.Machine.execSyscallVersion a s
  | .rdtime d => Sys2Proof.Machine.execRdtime d s
  | .digestValue d => Sys2Proof.Machine.execDigestValue d s
  | .digestCount d => Sys2Proof.Machine.execDigestCount d s
  | .tmask d a b => Sys2Proof.Machine.execTmask d a b s
  | .aflags d a b => Sys2Proof.Machine.execAflags d a b s
  | .ctxmode a => Sys2Proof.Machine.execCtxmode a s
  | .tlbi a b => Sys2Proof.Machine.execTlbi a b s
  | .yieldHoldoffExpire task party => Sys2Proof.Machine.execYieldHoldoffExpire task party s
  | .pbarRelease ctx slot => Sys2Proof.Machine.execPbarRelease ctx slot s
  | .pressServe die cluster => Sys2Proof.Machine.execPressServe die cluster s
  | .courierStep op => Sys2Proof.Machine.execCourierStep op s
  | .syscallUserEvent a => Sys2Proof.Machine.execSyscallUserEvent a s
  | .syscallClock a => Sys2Proof.Machine.execSyscallClock a s
  | .syscallUnknown a => Sys2Proof.Machine.execSyscallUnknown a s
  | .classVComplete task party idx => Sys2Proof.Machine.execClassVComplete task party idx s
  | .engineOpComplete op => Sys2Proof.Machine.execEngineOpComplete op s
  | .satchelAgeExpire die core line => Sys2Proof.Machine.execSatchelAgeExpire die core line s
  | .deliveryAck flit => Sys2Proof.Machine.execDeliveryAck flit s
  | .errorNotice flit => Sys2Proof.Machine.execErrorNotice flit s
  | .walkComplete die ctx page => Sys2Proof.Machine.execWalkComplete die ctx page s
  | .taskStart die core => Sys2Proof.Machine.execTaskStart die core s
  | .taskComplete task => Sys2Proof.Machine.execTaskComplete task s
  | .troupeResume die core => Sys2Proof.Machine.execTroupeResume die core s
  | .coreSwap die core => Sys2Proof.Machine.execCoreSwap die core s
  | .porterSpillComplete die core => Sys2Proof.Machine.execPorterSpillComplete die core s
  | .imageRestore die core => Sys2Proof.Machine.execImageRestore die core s
  | .refetch q => Sys2Proof.Machine.execRefetch q s
  | .qlaunch q => Sys2Proof.Machine.execQlaunch q s
  | .qcopy q => Sys2Proof.Machine.execQcopy q s
  | .qfill q => Sys2Proof.Machine.execQfill q s
  | .qwrite q => Sys2Proof.Machine.execQwrite q s
  | .qfence q => Sys2Proof.Machine.execQfence q s
  | .qmark q => Sys2Proof.Machine.execQmark q s
  | .qnop q => Sys2Proof.Machine.execQnop q s
  | .fencePoll q => Sys2Proof.Machine.execFencePoll q s
  | .qopComplete op => Sys2Proof.Machine.execQopComplete op s
  | .ringTransferArrival xfer => Sys2Proof.Machine.execRingTransferArrival xfer s
  | .multicastFlitArrival op ready => Sys2Proof.Machine.execMulticastFlitArrival op ready s
  | .netPacketSend die => Sys2Proof.Machine.execNetPacketSend die s
  | .unassignedEncoding w => Sys2Proof.Machine.execUnassignedEncoding w s
  | .nodeFlitArrival node f => Sys2Proof.Machine.execNodeFlitArrival node f s
  | .awaitcPoll task party => Sys2Proof.Machine.execAwaitcPoll task party s
  | .counterUpdateWake fpa => Sys2Proof.Machine.execCounterUpdateWake fpa s
  | .wakeNotice task party => Sys2Proof.Machine.execWakeNotice task party s
  | .rendezvousTimeout task lead => Sys2Proof.Machine.execRendezvousTimeout task lead s
  | .custodyAck flit => Sys2Proof.Machine.execCustodyAck flit s
  | .remoteAccessArrival acc => Sys2Proof.Machine.execRemoteAccessArrival acc s
  | .hopTimeout flit => Sys2Proof.Machine.execHopTimeout flit s
  | .fqrespResolve die id => Sys2Proof.Machine.execFqrespResolve die id s
  | .fqrespCancel die id => Sys2Proof.Machine.execFqrespCancel die id s
  | .framePoolWaitExpire die ctx => Sys2Proof.Machine.execFramePoolWaitExpire die ctx s
  | .storeSetWaitExpire task party => Sys2Proof.Machine.execStoreSetWaitExpire task party s
  | .progressSwitchExpire task => Sys2Proof.Machine.execProgressSwitchExpire task s
  | .priorityWaitExpire die => Sys2Proof.Machine.execPriorityWaitExpire die s
  | .deferralExpire die core => Sys2Proof.Machine.execDeferralExpire die core s
  | .qdbDoorbell q v => Sys2Proof.Machine.execQdbDoorbell q v s
  | .qctlEnable q => Sys2Proof.Machine.execQctlEnable q s
  | .qctlDisable q => Sys2Proof.Machine.execQctlDisable q s
  | .qctlReset q => Sys2Proof.Machine.execQctlReset q s
  | .qctlResume q => Sys2Proof.Machine.execQctlResume q s
  | .refetchDeadline q => Sys2Proof.Machine.execRefetchDeadline q s
  | .hostWindowRead off len => Sys2Proof.Machine.execHostWindowRead off len s
  | .hostWindowWrite off data => Sys2Proof.Machine.execHostWindowWrite off data s
  | .cxlMemAccess off len data => Sys2Proof.Machine.execCxlMemAccess off len data s
  | .replctlRelease ctx => Sys2Proof.Machine.execReplctlRelease ctx s
  | .replctlMismatchClear ctx => Sys2Proof.Machine.execReplctlMismatchClear ctx s
  | .partnerDigestArrival ctx k digest => Sys2Proof.Machine.execPartnerDigestArrival ctx k digest s
  | .partnerSilentExpire ctx k => Sys2Proof.Machine.execPartnerSilentExpire ctx k s
  | .ctxswSuspend ctx => Sys2Proof.Machine.execCtxswSuspend ctx s
  | .ctxswResume ctx => Sys2Proof.Machine.execCtxswResume ctx s
  | .registerWrite off v => Sys2Proof.Machine.execRegisterWrite off v s
  | .throttle die reason => Sys2Proof.Machine.execThrottle die reason s
  | .bridgeFailure a => Sys2Proof.Machine.execBridgeFailure a s
  | .dieSilenceTimeout die => Sys2Proof.Machine.execDieSilenceTimeout die s
  | .fabricPortStateChange node up => Sys2Proof.Machine.execFabricPortStateChange node up s
  | .multicastBranchTimeout op member => Sys2Proof.Machine.execMulticastBranchTimeout op member s
  | .combContributionArrival node c => Sys2Proof.Machine.execCombContributionArrival node c s
  | .netPacketReceive die p => Sys2Proof.Machine.execNetPacketReceive die p s
  | .sackReceive die peer psns => Sys2Proof.Machine.execSackReceive die peer psns s
  | .nakReceive die peer psn => Sys2Proof.Machine.execNakReceive die peer psn s
  | .retransmitTimeout die peer psn => Sys2Proof.Machine.execRetransmitTimeout die peer psn s
  | .netPortDownTimeout die => Sys2Proof.Machine.execNetPortDownTimeout die s
  | .netPortStateChange die up => Sys2Proof.Machine.execNetPortStateChange die up s
  | .dieFailure die => Sys2Proof.Machine.execDieFailure die s
  | .eccUncorrectableError site => Sys2Proof.Machine.execEccUncorrectableError site s
  | .nodeReset node => Sys2Proof.Machine.execNodeReset node s
  | .netcfgEnableClear die v => Sys2Proof.Machine.execNetcfgEnableClear die v s
  | .bootVerificationComplete code => Sys2Proof.Machine.execBootVerificationComplete code s
  | .ret => Sys2Proof.Machine.execRet s
  | .exit => Sys2Proof.Machine.execExit s
  | .yield => Sys2Proof.Machine.execYield s
  | .tfence => Sys2Proof.Machine.execTfence s
  | .tret => Sys2Proof.Machine.execTret s
  | .flushwc => Sys2Proof.Machine.execFlushwc s
  | .slotFetch => Sys2Proof.Machine.execSlotFetch s
  | .attctlGo => Sys2Proof.Machine.execAttctlGo s
  | .attestReportDone => Sys2Proof.Machine.execAttestReportDone s
  | .packageReset => Sys2Proof.Machine.execPackageReset s
  | .ringWrapComplete => Sys2Proof.Machine.execRingWrapComplete s

end Sys2Proof.Machine
end

