-- ==== Sys2Proof/Machine/Turns.lean ====
section
/-! DEFINITION. Whose turn it is (log 2): what a party's turn comes to (R47, R51, R225), and the turns that are there to be
taken when the agenda names none. -/

namespace Sys2Proof.Machine

/-! ## A party's turn -/

/-- What a party's turn comes to: nothing, an instruction, or a change of the machine without one. -/
inductive Issue where
  | idle
  | word (i : Instr) (s : State)
  | done (s : State)
  deriving DecidableEq, Repr

/-- A party that waits in a word that issues again (R225). -/
def Hold.again : Hold → Bool
  | .await | .awaitc _ _ | .bwait _ | .bar _ | .pbar _ | .rendezvous | .ppt _ _ _ => true
  | _ => false

/-- The party may issue: its troupe is resident and has not failed, its die works, and nothing holds it (R224, R225). -/
def State.mayIssue (s : State) (x : Task) (p : Party) : Bool :=
  x.phase == .running && !x.failed && !x.imageWait && !p.ended && !(s.die x.die).failed && (p.hold == .free || p.hold.again)

/-- SYSCALL's service is named by its register (R205). -/
def selectService (p : Party) (i : Instr) : Instr :=
  match i with
  | .syscallVersion a =>
    match (p.ureg a.toNat).toNat with
    | 0 => .syscallVersion a
    | 1 => .syscallUserEvent a
    | 2 => .syscallClock a
    | _ => .syscallUnknown a
  | i => i

/-- The step that the next word of a clause stands for (R83, R205). -/
def clauseInstr (p : Party) (ws : List Word) : Instr :=
  match decode ws with
  | .ok (i, _) => selectService p i
  | .error _ => .unassignedEncoding (ws.headD 0)

/-- A clause's start: the stack is reconciled, and the word at the PC must be a header (R47, R51, R87). -/
def State.issueHeader (s : State) (c : Exec) : Issue :=
  let p := c.party.reconcile
  let a := p.top.pc
  let s1 := s.putParty c.tid c.pi p
  if a.toNat % 4 ≠ 0 then .done (s1.takeTrap c.tid c.pi (Trap.cls 0 a))
  else
    match s1.codeWord { c with party := p } a.toNat with
    | .bad t => .done (s1.takeTrap c.tid c.pi (t.at a))
    | .wait va => .done (s1.waitWalks c.tid c.pi c.task.die c.task.ctx 3 [va])
    | .stall => .done s1
    | .words ws =>
      match decode ws with
      | .ok (.clh w x y l h, _) => .word (.clh w x y l h) s1
      | .error .zeroWord => .done (s1.takeTrap c.tid c.pi (Trap.zwf.at a))
      | _ => .done (s1.takeTrap c.tid c.pi (Trap.cls 0 a))

/-- A party about to issue its word: one that does not go on from it stalls there (R349). -/
def Party.tries (p : Party) : Party := p.modTop fun e => { e with tried := true }

/-- A party's turn (R225). Where the paths that Reconcile pops uncover one that stopped inside its clause, that path goes on with
its word, and the clause's wait is not tested again (R87, R230). -/
def State.issue (s : State) (tid pi : Nat) : Issue :=
  let s1 := { s with cur := some (tid, pi) }
  match s1.current with
  | none => .idle
  | some c =>
    if !s.mayIssue c.task c.party then .idle
    else
      match c.party.top.clause with
      | none =>
        match c.party.reconcile.top.clause with
        | none => s1.issueHeader c
        | some k => .word (clauseInstr c.party.reconcile k.words) (s1.putParty tid pi c.party.reconcile.tries)
      | some k => .word (clauseInstr c.party k.words) (s1.putParty tid pi c.party.tries)

/-! ## Turns that are there to be taken -/

/-- Every party of the machine with its task. -/
def State.everyParty (s : State) : List (Nat × Nat × Party) :=
  s.tasks.flatMap fun e => (List.range e.2.parties.length).filterMap fun i => e.2.parties[i]?.map fun p => (e.1, i, p)

/-- What a party can do: complete a class V result, end its hold-off, or issue. -/
def State.partyTurns (s : State) (e : Nat × Nat × Party) : List Turn :=
  let p := e.2.2
  ((List.range p.pend.length).filter fun i => (p.pend[i]?.map fun x => x.wait == .ready).getD false).map
      (fun i => .ev (.classVComplete e.1 e.2.1 i)) ++
    (if p.hold = .yield then [.ev (.yieldHoldoffExpire e.1 e.2.1)] else []) ++
    (match s.task? e.1 with | some x => if s.mayIssue x p then [.issue e.1 e.2.1] else [] | none => [])

/-- What an engine operation can do. -/
def State.opTurns (s : State) (e : Nat × Op) : List Turn :=
  if !s.opFree e.2 then []
  else
    match e.2.kind with
    | .press _ _ => [.ev (.pressServe e.2.die (clusterOf e.2.core))]
    | .courier _ => [.ev (.courierStep e.1)]
    | .stm .. => [.ev (.multicastFlitArrival e.1 (BitVec.allOnes 64))]
    | .qcopy .. | .qfill .. | .qwrite .. | .qlaunch .. => [.ev (.qopComplete e.1)]
    | .net _ => [.ev (.netPacketSend e.2.die), .ev (.engineOpComplete e.1)]
    | _ => [.ev (.engineOpComplete e.1)]

/-- What becomes of a flit next; that its first hop has it is part of its delivery. -/
def flitTurns (e : Nat × Flit) : List Turn :=
  if e.2.failed then [.ev (.errorNotice e.1)]
  else if e.2.performed || fpaClass e.2.fpa == 1 then [.ev (.deliveryAck e.1)]
  else [.ev (.nodeFlitArrival (fpaNode e.2.fpa) (.own e.1))]

/-- A queue's next packet, fetch or fence. -/
def State.queueTurns (s : State) (e : Nat × Queue) : List Turn :=
  let row := fun (n : Nat) (i : Instr) => if (s.parsed e.1 n).isSome then [Turn.ev i] else []
  row 1 (.qlaunch e.1) ++ row 2 (.qcopy e.1) ++ row 3 (.qfill e.1) ++ row 4 (.qwrite e.1) ++ row 5 (.qfence e.1)
    ++ row 6 (.qmark e.1) ++ row 7 (.qnop e.1) ++ (if e.2.state = .refetch then [.ev (.refetch e.1)] else [])
    ++ (if e.2.fence.isSome then [.ev (.fencePoll e.1)] else [])

/-- The lowest-numbered core of a die that a test picks. -/
def firstCore (f : Nat → Bool) : Option Nat := (List.range 96).find? f

/-- A die's work: walks, resumptions, and starts. -/
def State.dieTurns (s : State) (d : Nat) : List Turn :=
  let resume := match firstCore fun c => (s.pickResume d c).isSome with
    | none => []
    | some c => (match s.pickResume d c with
      | some (.image _) => [Turn.ev (.imageRestore d c)]
      | _ => [.ev (.troupeResume d c)])
  let start := match firstCore fun c => (s.pickWork d c).isSome with
    | none => []
    | some c => [Turn.ev (.taskStart d c)]
  (((s.die d).walks.take Config.maxWalks).map fun w => .ev (.walkComplete d w.ctx w.page)) ++
    (if (s.die d).resumes.isEmpty then [] else resume) ++
    (if s.items.any fun y => y.1.die == d then start else [])

/-- A core's own events: its Satchel's age limit, a requested swap, a spill. -/
def State.coreTurns (s : State) (e : Nat × Core) : List Turn :=
  let d := e.1 / 96
  let c := e.1 % 96
  (e.2.satchel.map fun l => .ev (.satchelAgeExpire d c l.line)) ++
    (if s.switchable d c then [.ev (.coreSwap d c)] else []) ++
    (if e.2.spill.isSome then [.ev (.porterSpillComplete d c)] else [])

/-- Everything that can go on by itself now. -/
def State.turns (s : State) : List Turn :=
  (if s.stage = 0 then [.ev .packageReset] else []) ++
    s.everyParty.flatMap s.partyTurns ++
    s.ops.flatMap s.opTurns ++
    (s.merges.map Turn.merge) ++
    ((s.tasks.filter fun e => s.taskEnded e.1 e.2).map fun e => .ev (.taskComplete e.1)) ++
    s.flits.flatMap flitTurns ++
    ((s.xfers.filter fun e => !e.2.rail && s.xferOpen e.2).map fun e => .ev (.ringTransferArrival e.1)) ++
    ((s.groupBars.filter fun b => !(s.wholeBars b.ctx b.slot false).isEmpty).map fun b => .release b.ctx b.slot) ++
    (List.range 8).flatMap s.dieTurns ++
    s.cores.flatMap s.coreTurns ++
    (if s.nextQueue.isSome then [.ev .slotFetch] else []) ++
    s.queues.flatMap s.queueTurns

/-! ## Taking a turn -/

/-- Time after some nanoseconds: it never decreases, so at its greatest value it stays (R128, log 25). -/
def later (t : DWord) (n : Nat) : DWord := BitVec.ofNat 64 (min (t.toNat + n) (2 ^ 64 - 1))

/-- A step begins: time passes (log 25), and the step has free values of its own (log 4). -/
def State.begin (s : State) : State :=
  { s with time := later s.time (Config.stepNs s.fresh), fresh := s.fresh + 1, ticks := s.ticks + 1, cur := none }

/-- The turn that a step takes: the agenda's next one, or where it names none one of those that are there. -/
def State.nextTurn (s : State) : Option Turn × State :=
  match s.agenda with
  | t :: r => (some t, { s with agenda := r })
  | [] => (s.turns[s.ticks % s.turns.length]?, s)

/-- A package whose boot has failed takes no turn but a reset (R41, log 6). -/
def State.halted (s : State) (t : Turn) : Bool := s.stage == 15 && t != .ev .packageReset

/-- A core and its cluster lose a translation (R280, R281). -/
def State.dropPage (s : State) (die core ctx va : Nat) : State :=
  let c := s.core die core
  let keep := fun (l : List TlbEntry) => l.filter fun e => !e.covers ctx va
  let s1 := s.putCore die core { c with tlb := keep c.tlb }
  let d := s1.die die
  s1.putDie die { d with clusterTlb := AMap.modify d.clusterTlb (clusterOf core) keep }

/-- What a turn asks of the machine: nothing, a step of the part, or a change of a cache's or a party's own. -/
def State.take (s : State) (t : Turn) : Issue :=
  match t with
  | .ev i => .word i s
  | .issue k p => s.issue k p
  | .evict d c a => .done (s.evict d c a)
  | .fill d c id => .done (s.fillShadow d c id)
  | .merge p => .done (s.merge p)
  | .release ctx slot => .done (s.releaseBars ctx slot false)
  | .dropPage d c ctx va => .done (s.dropPage d c ctx va)

/-! ## Where a word is fetched -/

/-- The page, the core and the party that a fetched word stands before: a page of code at its own address, mapped by tables in the pages
after it, and a party of one troupe on core 0 of die 0 with every register name in its allotment (log 35). -/
def fetchPage : Nat := 65536
def fetchRoot : Nat := 5 * 65536

/-- The table entries that map it, by address (R273, R274): three pointers and the leaf. -/
def fetchTables : List (Nat × Nat) :=
  [(2 * 65536, 3 * 65536 + 1), (3 * 65536, 4 * 65536 + 1), (4 * 65536 + 16, fetchPage + 0xDF), (fetchRoot, 2 * 65536 + 1)]
def fetchLeaf : Leaf :=
  { size := 65536, frame := fetchPage, r := true, w := true, x := true, home := .nocache, typ := .normal, shadow := false
    contrib := false, op := 0, format := 0, slot := 0, chunk := 0, rtoff := 0 }
def fetchDesc : Descriptor :=
  { entry := BitVec.ofNat 64 fetchPage, trap := 0, scratch := 0, parties := 1, vregs := 512, uregs := 512, stage := 0, ord := false
    nd := false, det := false, ranges := [] }

/-- The words of an instruction numbered as the opcode table numbers its bits, its trailers with it. -/
def fetchWords (nbits w : Nat) : List Word :=
  let ws := wordsOfBytes (tableBytes nbits w)
  ws.take (1 + trailersOf ((ws.headD 0).toNat / 2 ^ 25))

/-- The path that stands before the words: at a header, or inside a clause that holds them. -/
def fetchEntry (ws : List Word) : Entry :=
  let header := (ws.headD 0).toNat / 2 ^ 25 = 1
  { pc := BitVec.ofNat 64 (fetchPage + 4), mask := 0xFFFFFFFF#32, rpc := none, fmt := 0
    clause := if header then none else some { header := BitVec.ofNat 64 fetchPage, seta := 0, setb := 0, words := ws }
    stopped := none, go := false, tried := false, told := false }

/-- The task whose one party is about to issue the words. -/
def fetchTask (ws : List Word) : Task :=
  let item : Item :=
    { kids := .lanes [], desc := fetchDesc, wrt := 0, fmt := 0, parent := .root 0, party := 0, seq := 0, ctx := 0, prio := 0, det := false
      nd := false, ord := false, stage := 0, base := [], seen := Seen.none, told := false }
  let t := item.task 0 0 0 0 0 0 0
  { t with parties := [{ (Party.start fetchDesc 0 0 Seen.none) with stack := [fetchEntry ws] }] }

/-- The machine with an instruction where its next step fetches it: the code page, the party before it, and the turn. -/
def State.placeWord (s : State) (nbits w : Nat) : State :=
  let ws := fetchWords nbits w
  let code := s.mem.writeBytes (fetchPage + 4) (tableBytes nbits w)
  let s1 := { s with stage := 3, mem := fetchTables.foldl (fun (m : Memory) (e : Nat × Nat) => m.writeNat e.1 16 e.2) code, agenda := [.issue 0 0] }
  let s2 := (s1.putTask 0 (fetchTask ws)).putCtx 0 { (s.ctx 0) with ctxpt := BitVec.ofNat 64 (fetchRoot + 1) }
  s2.putCore 0 0 { (s.core 0 0) with tlb := [{ ctx := 0, va := fetchPage, leaf := fetchLeaf }] }

end Sys2Proof.Machine
end

