-- ==== Sys2Proof/Machine/Step.lean ====
section
/-! DEFINITION. One step of the machine: a turn is taken, and where it calls for a step of the part, that step runs. -/

namespace Sys2Proof.Machine

/-- What a turn does. -/
def runTurn (s : State) (t : Turn) : Host.Outcome State Fault Refusal :=
  match s.take t with
  | .idle => .next s
  | .done s1 => .next s1
  | .word i s1 => exec i s1

/-- One step (log 2). -/
def step (s : State) : Host.Outcome State Fault Refusal :=
  match s.begin.nextTurn with
  | (none, s1) => .next s1
  | (some t, s1) => if s1.halted t then .fault (.bootHalted s1.code) else runTurn s1 t

/-- The machine with an instruction where its next step fetches it (log 35). -/
def State.withFetchWord (s : State) (nbits w : Nat) : State := s.placeWord nbits w

end Sys2Proof.Machine
end

