-- ==== Sys2Proof/Machine/Registers.lean ====
section
/-! DEFINITION. What the host reads in the device register window (BAR0) and in a queue's register page (BAR2): every
register of R16, R40, R42, R267, R271, R272, R283, R343, R346, R361 and R380, write-only and reserved fields reading 0 (R7). -/

namespace Sys2Proof.Machine

/-- The codes of QSTAT.STATE (R16). -/
def QState.code : QState → Nat
  | .stopped => 0
  | .running => 1
  | .fence => 2
  | .refetch => 3
  | .error => 4
  | .draining => 5

/-- QSTAT (R16). -/
def Queue.stat (x : Queue) : DWord :=
  BitVec.ofNat 64 (x.head % 2 ^ 16 + 2 ^ 16 * (x.tail % 2 ^ 16) + 2 ^ 32 * x.state.code + 2 ^ 40 * (x.err % 16)
    + 2 ^ 48 * (x.inflight % 2 ^ 16))

/-- A queue's register page (R16): QDB reads 0, QCTL its ENABLE, then QSTAT and QDESCA. -/
def Queue.readRegister (x : Queue) (off : Nat) : DWord :=
  match off with
  | 0x008 => BitVec.ofNat 64 (b2n x.enable)
  | 0x010 => x.stat
  | 0x018 => x.desca
  | _ => 0

/-- Eight bytes of a byte window, low byte first. -/
def windowWord (m : Cells 8) (off : Nat) : DWord :=
  BitVec.ofNat 64 (natOfBytes ((List.range 8).map fun i => Cells.get m (off + i)))

/-- A context's configuration block (R272). -/
def Ctx.readBlock (c : Ctx) (reg : Nat) : DWord :=
  match reg with
  | 0 => BitVec.ofNat 64 (b2n c.sup)
  | 1 => c.hidb
  | 2 => c.hids
  | 3 => c.fpool
  | 4 => c.fpn
  | 5 => c.asl
  | _ => 0

/-- REPLCTL (R267): RELEASE reads 0. -/
def Ctx.replctl (c : Ctx) : DWord :=
  BitVec.ofNat 64 (2 ^ 48 * (c.pctx % 2 ^ 16) + 2 ^ 32 * (c.ppkg % 2 ^ 16) + 8 * b2n c.held + 2 * b2n c.mismatch + b2n c.enable)

/-- The fault queue's registers (R283): FQRESP reads 0. -/
def Die.readFault (x : Die) (reg : Nat) : DWord :=
  match reg with
  | 0 => x.fqBase
  | 1 => x.fqHead.setWidth 64
  | 2 => x.fqTail.setWidth 64
  | _ => 0

/-- The event queue's registers (R343). -/
def Die.readEvent (x : Die) (reg : Nat) : DWord :=
  match reg with
  | 0 => x.eqBase
  | 1 => x.eqHead.setWidth 64
  | 2 => x.eqTail.setWidth 64
  | 3 => x.eqLost.setWidth 64
  | _ => 0

/-- The network registers (R380). -/
def NetEngine.readRegister (n : NetEngine) (reg : Nat) : DWord :=
  match reg with
  | 0 => n.cfg
  | 1 => n.ipl
  | 2 => n.iph
  | 3 => n.peerBase
  | 4 => n.regnBase
  | 5 => n.railBase
  | _ => 0

/-- A register of the device register window (R40); an offset that names none reads 0. -/
def State.readBar0 (s : State) (off : Nat) : DWord :=
  if off % 8 ≠ 0 then 0
  else if off = 0 then BitVec.ofNat 64 (s.stage % 16 + 256 * s.code.toNat)
  else if 0x40 ≤ off ∧ off < 0x80 then BitVec.ofNat 64 ((s.die ((off - 0x40) / 8)).mhz % 2 ^ 16)
  else if off = 0x100 then s.winsel
  else if off = 0x200 then BitVec.ofNat 64 (16 * (s.attStatus % 16))
  else if 0x1000 ≤ off ∧ off < 0x2000 then windowWord s.attreq (off - 0x1000)
  else if 0x2000 ≤ off ∧ off < 0x2300 then windowWord s.attrsp (off - 0x2000)
  else if 0x100000 ≤ off ∧ off < 0x108000 then (s.ctx ((off - 0x100000) / 8)).replctl
  else if 0x110000 ≤ off ∧ off < 0x118000 then (s.ctx ((off - 0x110000) / 8)).ctxpt
  else if 0x120000 ≤ off ∧ off < 0x120200 then (s.die ((off - 0x120000) / 64)).readFault (off % 64 / 8)
  else if 0x130000 ≤ off ∧ off < 0x130200 then (s.die ((off - 0x130000) / 64)).readEvent (off % 64 / 8)
  else if 0x140000 ≤ off ∧ off < 0x148000 then BitVec.ofNat 64 (4 * b2n (s.suspended ((off - 0x140000) / 8)))
  else if off = 0x150000 then s.fabcfg
  else if off = 0x150008 then s.portUp.setWidth 64
  else if 0x160000 ≤ off ∧ off < 0x160200 then (s.die ((off - 0x160000) / 64)).net.readRegister (off % 64 / 8)
  else if 0x170000 ≤ off ∧ off < 0x1B0000 then (s.ctx ((off - 0x170000) / 64)).readBlock (off % 64 / 8)
  else 0

/-- A register of a queue's page in BAR2, which spans 4 MiB (R16, R38). -/
def State.readBar2 (s : State) (off : Nat) : DWord := if off < 2 ^ 22 then (s.queue (off / 4096)).readRegister (off % 4096) else 0

end Sys2Proof.Machine
end

