-- ==== Sys2Proof/Safety.lean ====
section
/-! DEFINITION. The terms that claims about the machine use: what a run keeps, which register names a party may use, which
addresses its lanes reach, and the shapes of a next state. -/

namespace Sys2Proof.Machine

/-! ## What every step keeps -/

/-- Memory is in its canonical form: addresses rise and no byte that reads 0 is listed (log 1). -/
abbrev State.MemOk (s : State) : Prop := Memory.wf s.mem = true

/-- A run goes on: the step answers a next state, neither a fault nor a refusal. -/
def GoesOn (o : Out) : Prop := ∃ t, o = .next t

/-! ## Register names (R55, R56, R58) -/

/-- A vector or uniform register name lies inside the party's allotment under its window. -/
abbrev Exec.VOk (c : Exec) (n : Nat) : Prop := c.party.vwb.toNat + n < c.task.desc.vregs
abbrev Exec.UOk (c : Exec) (n : Nat) : Prop := c.party.swb.toNat + n < c.task.desc.uregs

/-- A register pair: an even name, both registers inside the allotment. -/
abbrev Exec.VPairOk (c : Exec) (n : Nat) : Prop := n % 2 = 0 ∧ c.VOk (n + 1)
abbrev Exec.UPairOk (c : Exec) (n : Nat) : Prop := n % 2 = 0 ∧ c.UOk (n + 1)

/-- A block of `k` uniform registers from an even name. -/
abbrev Exec.UBlockOk (c : Exec) (n k : Nat) : Prop := n % 2 = 0 ∧ c.UOk (n + k - 1)

/-- Operand A of an ALU word, vector or uniform by its bit (R114). -/
abbrev Exec.AOk (c : Exec) (a : BitVec 7) (u : BitVec 1) : Prop := if u = 1#1 then c.UOk a.toNat else c.VOk a.toNat
abbrev Exec.APairOk (c : Exec) (a : BitVec 7) (u : BitVec 1) : Prop :=
  if u = 1#1 then c.UPairOk a.toNat else c.VPairOk a.toNat

/-- The registers of a load or store of a width code: one, an even pair, or a quad at a multiple of 4 (R161). -/
abbrev Exec.VWidthOk (c : Exec) (w : BitVec 3) (n : Nat) : Prop :=
  if w = 5#3 then c.VPairOk n else if w = 6#3 then n % 4 = 0 ∧ c.VOk (n + 3) else c.VOk n
abbrev Exec.UWidthOk (c : Exec) (w : BitVec 3) (n : Nat) : Prop :=
  if w = 5#3 then c.UPairOk n else if w = 6#3 then n % 4 = 0 ∧ c.UOk (n + 3) else c.UOk n

/-- The offset of LD, ST and LDU (R160): an immediate, or a uniform register. -/
abbrev Exec.OffOk (c : Exec) (b : BitVec 7) : Prop := b.getLsbD 6 = true ∨ c.UOk (b.toNat % 64)

/-- The registers of a position block (R151). -/
abbrev Exec.PosOk (c : Exec) (n : Nat) : Prop := c.UOk (n + 2)

/-! ## Next states -/

/-- The executing party is now `p`, and nothing else has changed. -/
def State.became (s : State) (c : Exec) (p : Party) : Out := .next (s.putParty c.tid c.pi p)

/-- The executing party is `p` with its PC `n` words on, and nothing else has changed. -/
def State.passed (s : State) (c : Exec) (n : Nat) (p : Party) : Out := s.became c (p.advance n)

/-- The executing party has raised a cause. -/
def State.trapped (s : State) (c : Exec) (tr : Trap) : Out := .next (s.takeTrap c.tid c.pi tr)

/-- A class V word has issued (R48): its result is pending under the flag that covers it, and its number is taken. -/
def State.pended (s : State) (c : Exec) (fs : BitVec 1) (r : VResult) : Out :=
  .next ({ s with nextId := s.nextId + 1 }.putParty c.tid c.pi
    ((c.party.addPending (r.pending s.nextId (c.party.coverFlag fs))).advance 1))

/-- A class V word has room under its flag (R48). -/
abbrev Exec.CanPend (c : Exec) (fs : BitVec 1) : Prop := c.party.cfCount (c.party.coverFlag fs) < 255

/-- A party-wide word issues on the party `p` (R230). -/
abbrev Exec.IssuesWide (c : Exec) (p : Party) : Prop := c.party.reconverge = .issue p

/-! ## Addresses that lanes reach (R162) -/

/-- Every active lane passes the checks of an access of `size` bytes at `ea`, and reaches `tgt`. -/
def State.Reaches (s : State) (c : Exec) (a : Access) (size : Nat) (ea : Nat → Nat) (tgt : Nat → Target) : Prop :=
  ∀ l, l < 32 → c.party.exm.getLsbD l = true → s.checkLane (c.env s) c.party a size l (ea l) = .ok (.ok (tgt l))

/-- The active lanes with their targets, lowest lane first. -/
def Exec.targets (c : Exec) (tgt : Nat → Target) : List (Nat × Target) := (lanesOf c.party.exm).map fun l => (l, tgt l)

/-- A load of these targets reads at once and exactly: no home is silent, what comes before it has reached its homes, and no line is
poisoned or fails its check (R162, R245, R287, R331). -/
def State.Readable (s : State) (c : Exec) (a : Access) (ts : List (Nat × Target)) : Prop :=
  s.loadWaits c ts = false ∧ s.intOf c.task.die a ts = .ok ()

/-- A target in memory at its home alone: a NORMAL page of this package that no cache holds, whose home works and whose line
verifies (R277, R285). -/
def State.PlainTarget (s : State) (c : Exec) (x : Target) : Prop :=
  ∃ va fpa l, x = .mem va fpa l ∧ l.typ = .normal ∧ l.home = .nocache ∧ l.contrib = false ∧ l.shadow = false
    ∧ c.task.det = false ∧ isRemote fpa = false ∧ s.homeFailed fpa = false ∧ lineOf fpa ∉ s.badCheck

/-- The home address of a target in memory. -/
def Target.fpa : Target → Nat
  | .scratch _ _ => 0
  | .mem _ a _ => a

end Sys2Proof.Machine
end

