-- ==== Sys2Proof/Certificates/Slice0/Obligations.lean ====
section
/-! DEFINITION. The statements about the machine that are to be proved: what reset leaves, what a step keeps, that the
decoder reads what the encoder writes, and for every step of the part what it does when it completes. -/

open Sys2Proof Sys2Proof.Machine

/-! ## The machine -/

/-- Reset (R16, R40, R41, R343, R380): memory lists nothing, so that every byte reads 0, which is the model's choice (log 1); nothing
runs, no queue is enabled, no event is pending, BOOT reads stage 0 with code 0, and every die stands as it was built. -/
def Obligations.ResetLeavesNothingRunning : Prop :=
  State.reset.mem = [] ∧ State.reset.tasks = [] ∧ State.reset.ops = [] ∧ State.reset.flits = [] ∧ State.reset.stage = 0 ∧
  State.reset.code = 0#8 ∧ State.reset.wrapped = false ∧ State.reset.fabcfg = 0#64 ∧ State.reset.vectors = [] ∧
  (∀ q, (State.reset.queue q).state = .stopped ∧ (State.reset.queue q).enable = false ∧ (State.reset.queue q).head = 0) ∧
  (∀ c, bit (State.reset.ctx c).ctxpt.toNat 0 = false ∧ (State.reset.ctx c).suspend = false) ∧
  ∀ d, (State.reset.die d).failed = false ∧ (State.reset.die d).faults = [] ∧ (State.reset.die d).eqTail = 0#32 ∧
    (State.reset.die d).mhz = 1050

/-- The memory of the machine at reset is in its canonical form (log 1). -/
def Obligations.ResetMemoryCanonical : Prop := State.reset.MemOk

/-- Whatever a step does, it leaves memory in its canonical form: addresses rise, and no byte that reads 0 is listed, so that
equal memories are equal data (log 1). -/
def Obligations.StepKeepsMemoryCanonical : Prop :=
  ∀ s t : State, s.MemOk → step s = .next t → t.MemOk

/-- Decoding what the encoder writes gives the instruction back, with every operand at every value its encoding admits, and
leaves the words that follow unread (R45, R75 to R83). The four services of SYSCALL share one word, which decodes to the first
(R205); a word that no row assigns stands for itself and is no instruction. -/
def Claim.DecodeReadsWhatEncodeWrites : Prop :=
  (∀ (i : Instr) (rest : List Word), encode i ≠ [] → (∀ w, i ≠ .unassignedEncoding w) →
    (∀ a, i ≠ .syscallUserEvent a ∧ i ≠ .syscallClock a ∧ i ≠ .syscallUnknown a) → i.WellFormed →
    decode (encode i ++ rest) = .ok (i, rest)) ∧
  ∀ (a : BitVec 7) (rest : List Word), ∀ i ∈ [Instr.syscallUserEvent a, .syscallClock a, .syscallUnknown a],
    decode (encode i ++ rest) = .ok (.syscallVersion a, rest)

/-- What the decoder reads is an instruction that the opcode map assigns, and encoding it gives the words read (R77 to R83). -/
def Claim.DecodedIsWellFormed : Prop :=
  ∀ (ws rest : List Word) (i : Instr), decode ws = .ok (i, rest) → i.WellFormed ∧ encode i ++ rest = ws

/-- Decode and encode agree on every instruction that has an encoding, and what decodes is well formed (R45, R75 to R83). -/
def Obligations.DecodeAndEncodeAgree : Prop := Claim.DecodeReadsWhatEncodeWrites ∧ Claim.DecodedIsWellFormed

/-- Words written out from the spec's encodings, with what they stand for: the worked words of R49, R91, R125, R181, R196,
R201, R211 and others. -/
def Obligations.SpecWordsDecode : Prop :=
  decode [0x640448A0#32] = .ok (.ssetq 1 9 10 0, []) ∧
  decode [0x05900003#32] = .ok (.bra 1 9 3, []) ∧
  decode [0xC2106004#32] = .ok (.cprobe 4 12 0, []) ∧
  decode [0xE000C000#32] = .ok (.cgrp 24, []) ∧
  decode [0xE2008001#32] = .ok (.crs 16, []) ∧
  decode [0xE4385000#32] = .ok (.cstat 14 10 0, []) ∧
  decode [0x12000002#32] = .ok (.wbase 0 0 2, []) ∧
  decode [0x06100006#32, 0x00000008#32] = .ok (.brd 0 1 6 8, []) ∧
  decode [0x08001080#32, 0x00400008#32] = .ok (.jtab 2 8 0x00400008, []) ∧
  decode [0x04F00003#32] = .ok (.bra 0 15 3, [])

/-- A party's turn on the agenda is taken: the step is the execution of the instruction that the words at its PC decode to,
SYSCALL by its service, on the machine with the turn taken, time on, and that party executing, its path marked as having tried
its word (R47, R225, R349). The words are those that the path's clause keeps since it began (log 13). -/
def Claim.StepExecutesDecodedInstruction : Prop :=
  ∀ (s : State) (tid pi : Nat) (rest : List Turn) (x : Task) (p : Party) (k : Clause) (i : Instr) (ws : List Word),
    s.agenda = .issue tid pi :: rest → s.stage ≠ 15 → s.task? tid = some x → x.parties[pi]? = some p →
    s.mayIssue x p = true → p.top.clause = some k → decode k.words = .ok (i, ws) →
    step s = exec (selectService p i)
      (State.putParty { s with
        time := later s.time (Config.stepNs s.fresh), fresh := s.fresh + 1, ticks := s.ticks + 1, agenda := rest
        cur := some (tid, pi) } tid pi p.tries)

/-- Where the paths that Reconcile pops uncover one that stopped inside its clause, a party's turn executes that path's word
(R87, R230). -/
def Claim.StepResumesStoppedPath : Prop :=
  ∀ (s : State) (tid pi : Nat) (rest : List Turn) (x : Task) (p : Party) (k : Clause) (i : Instr) (ws : List Word),
    s.agenda = .issue tid pi :: rest → s.stage ≠ 15 → s.task? tid = some x → x.parties[pi]? = some p →
    s.mayIssue x p = true → p.top.clause = none → p.reconcile.top.clause = some k → decode k.words = .ok (i, ws) →
    step s = exec (selectService p.reconcile i)
      (State.putParty { s with
        time := later s.time (Config.stepNs s.fresh), fresh := s.fresh + 1, ticks := s.ticks + 1, agenda := rest
        cur := some (tid, pi) } tid pi p.reconcile.tries)

/-- A step of the part on the agenda that no party's word asks for is executed on the machine with the turn taken. -/
def Claim.StepExecutesAgendaEvent : Prop :=
  ∀ (s : State) (i : Instr) (rest : List Turn), s.agenda = .ev i :: rest → s.stage ≠ 15 →
    step s = exec i
      { s with
        time := later s.time (Config.stepNs s.fresh), fresh := s.fresh + 1, ticks := s.ticks + 1, agenda := rest
        cur := none }

/-- A package whose boot verification has failed (stage 15) takes no step but a reset (R41, log 6): every other turn stops. -/
def Claim.FailedBootStops : Prop :=
  ∀ (s : State) (t : Turn) (rest : List Turn), s.stage = 15 → s.agenda = t :: rest → t ≠ .ev .packageReset →
    step s = .fault (.bootHalted s.code)

/-- What a step does with the agenda: a party's turn executes the instruction that the words at its PC decode to, a path that
stopped inside its clause and is uncovered goes on there, an event is executed as it stands, and a package whose boot has failed takes no turn but a reset (R41, R47, R225, log 2, log 6). -/
def Obligations.StepTakesTheNextTurn : Prop :=
  Claim.StepExecutesDecodedInstruction ∧ Claim.StepResumesStoppedPath ∧ Claim.StepExecutesAgendaEvent ∧ Claim.FailedBootStops

/-- A path in header position whose word is a header issues CLH; a word that is none raises CLS of row 0 (the all-zero word ZWF)
and executes nothing, and a PC that is no multiple of 4 is no header (R44, R47, R51). -/
def Claim.HeaderPositionIssuesHeader : Prop :=
  ∀ (s : State) (c : Exec) (ws : List Word),
    let c1 : Exec := { c with party := c.party.reconcile }
    let s1 := s.putParty c.tid c.pi c.party.reconcile
    let pc := c.party.reconcile.top.pc
    (pc.toNat % 4 ≠ 0 → s.issueHeader c = .done (s1.takeTrap c.tid c.pi (Trap.cls 0 pc))) ∧
    (pc.toNat % 4 = 0 → s1.codeWord c1 pc.toNat = .words ws →
      (∀ w a b l y r, decode ws = .ok (.clh w a b l y, r) → s.issueHeader c = .word (.clh w a b l y) s1) ∧
      (decode ws = .error .zeroWord → s.issueHeader c = .done (s1.takeTrap c.tid c.pi { Trap.zwf with addr := some pc })) ∧
      (decode ws ≠ .error .zeroWord → (∀ w a b l y r, decode ws ≠ .ok (.clh w a b l y, r)) →
        s.issueHeader c = .done (s1.takeTrap c.tid c.pi (Trap.cls 0 pc))))

/-! ## Registers, causes and traps -/

/-- Register names (R55, R58, R59): a vector write reaches the named register in the active lanes alone and every other
register and lane keeps its value; a uniform write reaches the named register alone; q7 reads 1 and takes no write. -/
def Claim.RegisterWritesReadBack : Prop :=
  ∀ (p : Party) (n m l : Nat) (f : Nat → Word) (x : Word) (g : Nat → Bool) (b : Bool),
    (l < 32 → (p.setV n f).vreg m l = if m = n ∧ p.exm.getLsbD l = true then f l else p.vreg m l) ∧
    (p.setU n x).ureg m = (if m = n then x else p.ureg m) ∧
    (l < 32 → p.preds.length = 8 → n < 8 →
      ((p.setPred n g).pred m).getLsbD l = if m = n ∧ p.exm.getLsbD l = true then g l else (p.pred m).getLsbD l) ∧
    p.upred 7 = true ∧ p.setQ 7 b = p ∧
    (n < 7 → m < 7 → (p.setQ n b).upred m = if m = n then b else p.upred m) ∧
    (p.setV n f).u = p.u ∧ (p.setU n x).v = p.v ∧ (p.setV n f).stack = p.stack ∧ (p.setU n x).stack = p.stack

/-- The allotment (R56, R58): the check that every word's register names pass. It holds exactly where pairs are even, quads are
multiples of 4 and every register lies inside the allotment; else ILL comes before RBX, and RBX names a register that is
outside, in its class. Which of several it names is a free choice (log 7). -/
def Claim.AllotmentIsChecked : Prop :=
  ∀ (env : Env) (p : Party) (l : List RegUse),
    (useRegs env p l = .ok () ↔ (∀ r ∈ l, r.misaligned = false) ∧ ∀ r ∈ l, r.outside env p = []) ∧
    ((∃ r ∈ l, r.misaligned = true) → useRegs env p l = .error (Trap.ill 5)) ∧
    (∀ tr, (∀ r ∈ l, r.misaligned = false) → useRegs env p l = .error tr →
      ∃ r ∈ l, ∃ k u, (k, u) ∈ r.outside env p ∧ tr = Trap.rbx k u) ∧
    ∀ (uni : Bool) (n k u r : Nat), (r, u) ∈ (if uni then RegUse.ub n k else RegUse.vb n k).outside env p ↔
      u = b2n uni ∧ (if uni then env.desc.uregs else env.desc.vregs) ≤ r ∧
        (if uni then p.swb.toNat else p.vwb.toNat) + n ≤ r ∧ r < (if uni then p.swb.toNat else p.vwb.toNat) + n + k

/-- Register names: what a write leaves in every register (R55, R58, R59), and the check of names (R56, R58). -/
def Obligations.RegistersReadBackAndAreChecked : Prop := Claim.RegisterWritesReadBack ∧ Claim.AllotmentIsChecked

/-- Taking a trap (R340): with a handler and traps not masked, tcause holds CAUSE and INFO, xpc the cause's address or the
word's, MASK is set, the depth, the clause and MASK = 0 are saved, and the path goes to the handler's header; mask, `fmt`,
registers, predicates, flags, every other path, party and task, and memory stay. Where the cause's address is not the word's own, no
clause is saved (log 47). -/
def Claim.TrapEntrySavesAndJumps : Prop :=
  ∀ (s : State) (t i : Nat) (x : Task) (p : Party) (e : Entry) (r : List Entry) (tr : Trap),
    s.task? t = some x → x.parties[i]? = some p → p.stack = e :: r → p.masked = false → x.desc.trap ≠ 0#64 →
    ∃ q, s.takeTrap t i tr = s.putTask t (x.putParty i q) ∧
      q.tcause = BitVec.ofNat 32 (tr.cause * 2 ^ 24 + tr.info) ∧ q.xpc = tr.addr.getD e.pc ∧ q.masked = true ∧
      q.tmask.toNat % 256 = p.tmask.toNat % 256 ∧
      (∃ k, q.ts = some { depth := r.length + 1, clause := k, addr := tr.addr.getD e.pc, mask := false } ∧
        k = if tr.addr.getD e.pc = e.pc then e.clause else none) ∧
      (∃ e', q.stack = e' :: r ∧ e'.pc = x.desc.trap ∧ e'.clause = none ∧ e'.mask = e.mask ∧ e'.fmt = e.fmt ∧ e'.rpc = e.rpc) ∧
      q.v = p.v ∧ q.u = p.u ∧ q.preds = p.preds ∧ q.q = p.q ∧ q.aflags = p.aflags ∧ q.cf = p.cf ∧ q.pend = p.pend ∧
      q.lnk = p.lnk ∧ q.vwb = p.vwb ∧ q.swb = p.swb ∧ q.ix = p.ix ∧ q.gang = p.gang ∧ q.openBatch = p.openBatch ∧
      (s.takeTrap t i tr).mem = s.mem

/-- A cause raised with MASK set, or in a task without a handler, enters none (R341): the task fails, its Press tiles are free
(R317), and a record of TYPE 0x03
with CAUSE, INFO, the address, context, core, frame and index is posted, HANDLER saying that MASK was set. -/
def Claim.CauseWithoutHandlerFailsTask : Prop :=
  ∀ (s : State) (t i : Nat) (x : Task) (p : Party) (tr : Trap),
    s.task? t = some x → x.parties[i]? = some p → (p.masked = true ∨ x.desc.trap = 0#64) →
    (x.failed = true → s.takeTrap t i tr = s) ∧
    (x.failed = false → s.takeTrap t i tr = (s.putTask t { x with failed := true, tiles := [] }).postEvent x.die 0x03 (b2n p.masked)
      (payloadOf [(16, 1, tr.cause), (20, 4, tr.info), (24, 8, (tr.addr.getD p.top.pc).toNat), (32, 2, x.ctx), (34, 2, x.core),
        (40, 8, x.frame.toNat), (48, 8, x.cidx.toNat)]))

/-- Traps: entry with a handler (R340), and a cause without one (R341). -/
def Obligations.TrapsEnterOrFailTheTask : Prop := Claim.TrapEntrySavesAndJumps ∧ Claim.CauseWithoutHandlerFailsTask

/-- An event (R343, R344): with room in the ring the 64 bytes of the record go to the slot that TAIL names, TAIL and the
sequence number go on, and the die's vector is raised; without a ring or without room the record is lost and counted. Of
memory nothing but the slot's 64 bytes changes; a slot that the die cannot reach takes none (log 105). -/
def Obligations.EventGoesToItsSlot : Prop :=
  ∀ (s : State) (d type flags : Nat) (pl : List Byte) (a : Nat),
    let base := bits (s.die d).eqBase.toNat 12 44 * 4096
    let slot := base + 64 * ((s.die d).eqTail.toNat % 4096)
    let t := s.postEvent d type flags pl
    (base = 0 ∨ (s.die d).eqTail - (s.die d).eqHead = 4096#32 →
      t.mem = s.mem ∧ (t.die d).eqTail = (s.die d).eqTail ∧ t.vectors = s.vectors ∧
      (t.die d).eqLost = if (s.die d).eqLost = 0xFFFFFFFF#32 then 0xFFFFFFFF#32 else (s.die d).eqLost + 1) ∧
    (base ≠ 0 → (s.die d).eqTail - (s.die d).eqHead ≠ 4096#32 → (s.die d).eqLost = (t.die d).eqLost ∧
      (t.die d).eqTail = (s.die d).eqTail + 1 ∧ t.vectors = s.vectors ++ [24 + d]) ∧
    (s.MemOk → (a < slot ∨ slot + 64 ≤ a) → t.mem.read a = s.mem.read a) ∧
    (s.MemOk → base ≠ 0 → (s.die d).eqTail - (s.die d).eqHead ≠ 4096#32 → s.homeFailed slot = false →
      s.farLost d slot slot = false → t.mem.read slot = BitVec.ofNat 8 type ∧ t.mem.read (slot + 1) = BitVec.ofNat 8 d ∧
      t.mem.readNat (slot + 4) 4 = (s.die d).eqTail.toNat ∧ t.mem.readNat (slot + 8) 8 = s.time.toNat)

/-! ## Integer words (spec/06) -/

/-- The words of MAJ 0x18, 0x1A, 0x1B and 0x1C: D, A, B and M, M[3] the broadcast bit; a unary form has B zero, and M[2:0] = 7
is assigned in the first alone (R77, R114 to R118). -/
def Claim.VectorIntegerEncodings : Prop :=
  ∀ (d a b : BitVec 7) (u : BitVec 1),
    let word := fun (maj : BitVec 7) (m : BitVec 3) => (maj ++ d ++ a ++ b ++ u ++ m : Word)
    let reads := fun (maj : BitVec 7) (m : BitVec 3) (i : Instr) => decode [word maj m] = .ok (i, [])
    reads 0x18 0 (.iadd d a b u) ∧ reads 0x18 1 (.isub d a b u) ∧ reads 0x18 2 (.iaddSs d a b u) ∧
    reads 0x18 3 (.iaddZs d a b u) ∧ reads 0x18 4 (.isubSs d a b u) ∧ reads 0x18 5 (.isubZs d a b u) ∧
    reads 0x18 6 (.iabsd d a b u) ∧ reads 0x18 7 (.iavg d a b u) ∧ reads 0x1A 0 (.imul d a b u) ∧
    reads 0x1A 1 (.imulhS d a b u) ∧ reads 0x1A 2 (.imulhZ d a b u) ∧ reads 0x1A 3 (.imad d a b u) ∧
    reads 0x1A 4 (.idot4S d a b u) ∧ reads 0x1A 5 (.idot4Z d a b u) ∧ reads 0x1A 6 (.idot2 d a b u) ∧
    reads 0x1B 0 (.iminS d a b u) ∧ reads 0x1B 1 (.iminZ d a b u) ∧ reads 0x1B 2 (.imaxS d a b u) ∧
    reads 0x1B 3 (.imaxZ d a b u) ∧ reads 0x1C 0 (.and d a b u) ∧ reads 0x1C 1 (.or d a b u) ∧ reads 0x1C 2 (.xor d a b u) ∧
    reads 0x1C 3 (.andn d a b u) ∧ reads 0x1C 4 (.orn d a b u) ∧ reads 0x1C 5 (.xnor d a b u) ∧
    (b = 0#7 → reads 0x1B 4 (.iabs d a u) ∧ reads 0x1B 5 (.ineg d a u) ∧ reads 0x1B 6 (.isgn d a u)) ∧
    (b ≠ 0#7 → decode [word 0x1B 4] = .error .reserved ∧ decode [word 0x1B 5] = .error .reserved ∧ decode [word 0x1B 6] = .error .reserved) ∧
    (b = 0#7 → reads 0x1C 6 (.not d a u)) ∧ (b ≠ 0#7 → decode [word 0x1C 6] = .error .reserved) ∧
    (∀ maj ∈ [0x1A#7, 0x1B#7, 0x1C#7], decode [word maj 7] = .error .unassigned)

/-- MAJ 0x18: the next state of each add and subtract, in each active lane of d (R115). -/
def Claim.AddSubtractCompletes : Prop :=
  ∀ (s : State) (c : Exec) (d a b : BitVec 7) (u : BitVec 1),
    s.current = some c → c.VOk d.toNat → c.AOk a u → c.VOk b.toNat →
    let x := c.party.opA a u
    let y := c.party.vreg b.toNat
    let wrote := fun (f : Nat → Word) => s.passed c 1 (c.party.setV d.toNat f)
    exec (.iadd d a b u) s = wrote (fun l => x l + y l) ∧
    exec (.isub d a b u) s = wrote (fun l => x l - y l) ∧
    exec (.iaddSs d a b u) s = wrote (fun l =>
      BitVec.ofInt 32 (max (-2147483648) (min 2147483647 ((x l).toInt + (y l).toInt)))) ∧
    exec (.iaddZs d a b u) s = wrote (fun l => if (x l).toNat + (y l).toNat < 4294967296 then x l + y l else 0xFFFFFFFF#32) ∧
    exec (.isubSs d a b u) s = wrote (fun l =>
      BitVec.ofInt 32 (max (-2147483648) (min 2147483647 ((x l).toInt - (y l).toInt)))) ∧
    exec (.isubZs d a b u) s = wrote (fun l => if (y l).toNat ≤ (x l).toNat then x l - y l else 0#32) ∧
    exec (.iabsd d a b u) s = wrote (fun l => if (y l).toInt ≤ (x l).toInt then x l - y l else y l - x l) ∧
    exec (.iavg d a b u) s = wrote (fun l =>
      (((x l).signExtend 33 + (y l).signExtend 33 + 1#33).sshiftRight 1).setWidth 32)

/-- MAJ 0x1A: the products, high halves, the multiply-add and the dot products, which read d and wrap (R116). -/
def Claim.MultiplyCompletes : Prop :=
  ∀ (s : State) (c : Exec) (d a b : BitVec 7) (u : BitVec 1),
    s.current = some c → c.VOk d.toNat → c.AOk a u → c.VOk b.toNat →
    let x := c.party.opA a u
    let y := c.party.vreg b.toNat
    let z := c.party.vreg d.toNat
    let wrote := fun (f : Nat → Word) => s.passed c 1 (c.party.setV d.toNat f)
    let sb := fun (w : Word) (i : Nat) => (w.extractLsb' (8 * i) 8).signExtend 32
    let zb := fun (w : Word) (i : Nat) => (w.extractLsb' (8 * i) 8).setWidth 32
    let sh := fun (w : Word) (i : Nat) => (w.extractLsb' (16 * i) 16).signExtend 32
    exec (.imul d a b u) s = wrote (fun l => x l * y l) ∧
    exec (.imulhS d a b u) s = wrote (fun l => (((x l).signExtend 64 * (y l).signExtend 64) >>> 32).setWidth 32) ∧
    exec (.imulhZ d a b u) s = wrote (fun l => (((x l).setWidth 64 * (y l).setWidth 64) >>> 32).setWidth 32) ∧
    exec (.imad d a b u) s = wrote (fun l => x l * y l + z l) ∧
    exec (.idot4S d a b u) s = wrote (fun l => z l + sb (x l) 0 * sb (y l) 0 + sb (x l) 1 * sb (y l) 1
      + sb (x l) 2 * sb (y l) 2 + sb (x l) 3 * sb (y l) 3) ∧
    exec (.idot4Z d a b u) s = wrote (fun l => z l + zb (x l) 0 * zb (y l) 0 + zb (x l) 1 * zb (y l) 1
      + zb (x l) 2 * zb (y l) 2 + zb (x l) 3 * zb (y l) 3) ∧
    exec (.idot2 d a b u) s = wrote (fun l => z l + sh (x l) 0 * sh (y l) 0 + sh (x l) 1 * sh (y l) 1)

/-- MAJ 0x1B and 0x1C: minimum, maximum, sign operations and bitwise logic (R117, R118). -/
def Claim.MinMaxSignLogicComplete : Prop :=
  ∀ (s : State) (c : Exec) (d a b : BitVec 7) (u : BitVec 1),
    s.current = some c → c.VOk d.toNat → c.AOk a u →
    let x := c.party.opA a u
    let y := c.party.vreg b.toNat
    let wrote := fun (f : Nat → Word) => s.passed c 1 (c.party.setV d.toNat f)
    exec (.iabs d a u) s = wrote (fun l => if (x l).toInt < 0 then -(x l) else x l) ∧
    exec (.ineg d a u) s = wrote (fun l => 0#32 - x l) ∧
    exec (.isgn d a u) s = wrote (fun l => if (x l).msb then 0xFFFFFFFF#32 else if x l = 0#32 then 0#32 else 1#32) ∧
    exec (.not d a u) s = wrote (fun l => ~~~(x l)) ∧
    (c.VOk b.toNat →
      exec (.iminS d a b u) s = wrote (fun l => if (x l).sle (y l) then x l else y l) ∧
      exec (.iminZ d a b u) s = wrote (fun l => if x l ≤ y l then x l else y l) ∧
      exec (.imaxS d a b u) s = wrote (fun l => if (y l).sle (x l) then x l else y l) ∧
      exec (.imaxZ d a b u) s = wrote (fun l => if y l ≤ x l then x l else y l) ∧
      exec (.and d a b u) s = wrote (fun l => x l &&& y l) ∧
      exec (.or d a b u) s = wrote (fun l => x l ||| y l) ∧
      exec (.xor d a b u) s = wrote (fun l => x l ^^^ y l) ∧
      exec (.andn d a b u) s = wrote (fun l => x l &&& ~~~(y l)) ∧
      exec (.orn d a b u) s = wrote (fun l => x l ||| ~~~(y l)) ∧
      exec (.xnor d a b u) s = wrote (fun l => ~~~(x l ^^^ y l)))

/-- MAJ 0x18, 0x1A, 0x1B and 0x1C: their words and the next state of each (R115 to R118). -/
def Obligations.VectorIntegerWordsComplete : Prop := Claim.VectorIntegerEncodings ∧ Claim.AddSubtractCompletes ∧ Claim.MultiplyCompletes ∧ Claim.MinMaxSignLogicComplete

/-- The words of MAJ 0x1D, 0x1E and 0x19 (R77, R114, R119 to R121). -/
def Claim.VectorShiftEncodings : Prop :=
  ∀ (d a b : BitVec 7) (u : BitVec 1),
    let word := fun (maj : BitVec 7) (m : BitVec 3) => (maj ++ d ++ a ++ b ++ u ++ m : Word)
    let reads := fun (maj : BitVec 7) (m : BitVec 3) (i : Instr) => decode [word maj m] = .ok (i, [])
    reads 0x1D 0 (.shl d a b u) ∧ reads 0x1D 1 (.shr d a b u) ∧ reads 0x1D 2 (.sar d a b u) ∧ reads 0x1D 3 (.rol d a b u) ∧
    reads 0x1D 4 (.ror d a b u) ∧ reads 0x1D 5 (.fshl d a b u) ∧ reads 0x1D 6 (.fshr d a b u) ∧ reads 0x1E 4 (.bfeZ d a b u) ∧
    reads 0x1E 5 (.bfeS d a b u) ∧ reads 0x1E 6 (.bfi d a b u) ∧ reads 0x1E 7 (.prmt d a b u) ∧ reads 0x19 0 (.iadd64 d a b u) ∧
    reads 0x19 1 (.isub64 d a b u) ∧ reads 0x19 2 (.shl64 d a b u) ∧ reads 0x19 3 (.shr64 d a b u) ∧
    reads 0x19 4 (.sar64 d a b u) ∧ reads 0x19 5 (.imulw d a b u) ∧ reads 0x19 6 (.imulwZ d a b u) ∧
    (b = 0#7 → reads 0x1E 0 (.popc d a u) ∧ reads 0x1E 1 (.clz d a u) ∧ reads 0x1E 2 (.ctz d a u) ∧ reads 0x1E 3 (.brev d a u)) ∧
    (b ≠ 0#7 → decode [word 0x1E 0] = .error .reserved ∧ decode [word 0x1E 1] = .error .reserved ∧ decode [word 0x1E 2] = .error .reserved ∧ decode [word 0x1E 3] = .error .reserved) ∧
    (∀ maj ∈ [0x19#7, 0x1D#7], decode [word maj 7] = .error .unassigned)

/-- MAJ 0x1D: shifts, whose counts of 32 and more leave zeros or sign bits, rotations, and the funnel shifts, which read their
count from d (R119). -/
def Claim.ShiftsComplete : Prop :=
  ∀ (s : State) (c : Exec) (d a b : BitVec 7) (u : BitVec 1),
    s.current = some c → c.VOk d.toNat → c.AOk a u → c.VOk b.toNat →
    let x := c.party.opA a u
    let y := c.party.vreg b.toNat
    let z := c.party.vreg d.toNat
    let wrote := fun (f : Nat → Word) => s.passed c 1 (c.party.setV d.toNat f)
    exec (.shl d a b u) s = wrote (fun l => x l <<< (y l).toNat) ∧
    exec (.shr d a b u) s = wrote (fun l => x l >>> (y l).toNat) ∧
    exec (.sar d a b u) s = wrote (fun l => (x l).sshiftRight (y l).toNat) ∧
    exec (.rol d a b u) s = wrote (fun l => (x l).rotateLeft ((y l).toNat % 32)) ∧
    exec (.ror d a b u) s = wrote (fun l => (x l).rotateRight ((y l).toNat % 32)) ∧
    exec (.fshl d a b u) s = wrote (fun l => ((x l ++ y l) <<< ((z l).toNat % 32)).extractLsb' 32 32) ∧
    exec (.fshr d a b u) s = wrote (fun l => ((x l ++ y l) >>> ((z l).toNat % 32)).extractLsb' 0 32)

/-- MAJ 0x1E: counts, reversal, and bit fields at POS = b[4:0] of length min(b[13:8], 32 - POS); PRMT's selectors take the bytes
of a and of the old d, or 0 (R120). -/
def Claim.CountsAndFieldsComplete : Prop :=
  ∀ (s : State) (c : Exec) (d a b : BitVec 7) (u : BitVec 1),
    s.current = some c → c.VOk d.toNat → c.AOk a u →
    let x := c.party.opA a u
    let y := c.party.vreg b.toNat
    let z := c.party.vreg d.toNat
    let wrote := fun (f : Nat → Word) => s.passed c 1 (c.party.setV d.toNat f)
    let pos := fun (w : Word) => w.toNat % 32
    let len := fun (w : Word) => min (w.toNat / 256 % 64) (32 - w.toNat % 32)
    let mask := fun (w : Word) => BitVec.ofNat 32 ((2 ^ len w - 1) * 2 ^ pos w)
    let sel := fun (w p q : Word) (i : Nat) =>
      let k := w.toNat / 16 ^ i % 16
      if 8 ≤ k then 0#8 else ((q ++ p) >>> (8 * k)).setWidth 8
    exec (.popc d a u) s = wrote (fun l => BitVec.ofNat 32 ((List.range 32).countP fun i => (x l).getLsbD i)) ∧
    exec (.clz d a u) s = wrote (fun l =>
      BitVec.ofNat 32 (((List.range 32).takeWhile fun i => !(x l).getLsbD (31 - i)).length)) ∧
    exec (.ctz d a u) s = wrote (fun l => BitVec.ofNat 32 (((List.range 32).takeWhile fun i => !(x l).getLsbD i).length)) ∧
    exec (.brev d a u) s = wrote (fun l => (x l).reverse) ∧
    (c.VOk b.toNat →
      exec (.bfeZ d a b u) s = wrote (fun l => (x l &&& mask (y l)) >>> pos (y l)) ∧
      exec (.bfeS d a b u) s = wrote (fun l => if len (y l) = 0 then 0#32
        else ((x l) <<< (32 - pos (y l) - len (y l))).sshiftRight (32 - len (y l))) ∧
      exec (.bfi d a b u) s = wrote (fun l => (z l &&& ~~~(mask (y l))) ||| ((x l <<< pos (y l)) &&& mask (y l))) ∧
      exec (.prmt d a b u) s = wrote (fun l =>
        sel (y l) (x l) (z l) 3 ++ sel (y l) (x l) (z l) 2 ++ sel (y l) (x l) (z l) 1 ++ sel (y l) (x l) (z l) 0))

/-- MAJ 0x19: 64-bit sums and shifts of pairs and the full products of words; shift counts of 64 and more leave zeros or sign
bits (R121). -/
def Claim.PairArithmeticCompletes : Prop :=
  ∀ (s : State) (c : Exec) (d a b : BitVec 7) (u : BitVec 1),
    s.current = some c → c.VPairOk d.toNat →
    let x := c.party.opAPair a u
    let wrote := fun (f : Nat → DWord) => s.passed c 1 (c.party.setVPair d.toNat f)
    (c.APairOk a u → c.VPairOk b.toNat →
      exec (.iadd64 d a b u) s = wrote (fun l => x l + c.party.vpair b.toNat l) ∧
      exec (.isub64 d a b u) s = wrote (fun l => x l - c.party.vpair b.toNat l)) ∧
    (c.APairOk a u → c.VOk b.toNat →
      exec (.shl64 d a b u) s = wrote (fun l => x l <<< (c.party.vreg b.toNat l).toNat) ∧
      exec (.shr64 d a b u) s = wrote (fun l => x l >>> (c.party.vreg b.toNat l).toNat) ∧
      exec (.sar64 d a b u) s = wrote (fun l => (x l).sshiftRight (c.party.vreg b.toNat l).toNat)) ∧
    (c.AOk a u → c.VOk b.toNat →
      exec (.imulw d a b u) s = wrote (fun l => (c.party.opA a u l).signExtend 64 * (c.party.vreg b.toNat l).signExtend 64) ∧
      exec (.imulwZ d a b u) s = wrote (fun l => (c.party.opA a u l).setWidth 64 * (c.party.vreg b.toNat l).setWidth 64))

/-- MAJ 0x1D, 0x1E and 0x19: their words and the next state of each (R119 to R121). -/
def Obligations.VectorShiftsAndPairsComplete : Prop := Claim.VectorShiftEncodings ∧ Claim.ShiftsComplete ∧ Claim.CountsAndFieldsComplete ∧ Claim.PairArithmeticCompletes

/-- The words of ISETP, SSETQ and SEL: D[6:3] of a predicate destination and M[3] of SSETQ are zero (R122, R123). -/
def Claim.ComparisonEncodings : Prop :=
  ∀ (d a b : BitVec 7) (u : BitVec 1),
    let word := fun (maj : BitVec 7) (m : BitVec 3) => (maj ++ d ++ a ++ b ++ u ++ m : Word)
    let reads := fun (maj : BitVec 7) (m : BitVec 3) (i : Instr) => decode [word maj m] = .ok (i, [])
    (∀ k : BitVec 3, reads 0x20 k (.sel d a b u k)) ∧
    (∀ q k : BitVec 3, d = 0#4 ++ q → reads 0x1F k (.isetp q a b u k) ∧ (u = 0#1 → reads 0x32 k (.ssetq q a b k))) ∧
    (∀ k : BitVec 3, 8 ≤ d.toNat → decode [word 0x1F k] = .error .reserved ∧ decode [word 0x32 k] = .error .reserved) ∧
    (∀ k : BitVec 3, u = 1#1 → decode [word 0x32 k] = .error .reserved)

/-- ISETP and SSETQ by their eight conditions, SEL by the lanes of its predicate (R122, R123). -/
def Claim.ComparisonsWrite : Prop :=
  ∀ (s : State) (c : Exec) (d k : BitVec 3) (e a b : BitVec 7) (u : BitVec 1), s.current = some c →
    let holds := fun (i : Nat) (p q : Word) =>
      match i with
      | 0 => decide (p = q)
      | 1 => decide (p ≠ q)
      | 2 => p.slt q
      | 3 => p.sle q
      | 4 => q.slt p
      | 5 => q.sle p
      | 6 => p.ult q
      | _ => q.ule p
    let x := c.party.opA a u
    let y := c.party.vreg b.toNat
    (c.AOk a u → c.VOk b.toNat →
      exec (.isetp d a b u k) s = s.passed c 1 (c.party.setPred d.toNat fun l => holds k.toNat (x l) (y l))) ∧
    (c.UOk a.toNat → c.UOk b.toNat →
      exec (.ssetq d a b k) s
        = s.passed c 1 (c.party.setQ d.toNat (holds k.toNat (c.party.ureg a.toNat) (c.party.ureg b.toNat)))) ∧
    (c.VOk e.toNat → c.AOk a u → c.VOk b.toNat →
      exec (.sel e a b u k) s
        = s.passed c 1 (c.party.setV e.toNat fun l => if (c.party.pred k.toNat).getLsbD l then x l else y l))

/-- ISETP, SSETQ and SEL: their words and the next state of each (R122, R123). -/
def Obligations.ComparisonsComplete : Prop := Claim.ComparisonEncodings ∧ Claim.ComparisonsWrite

/-- Immediates sign-extend; MOVL writes its trailer to a vector or a uniform register and passes two words; LEA and SLEA form
base + sx(offset), and their .G forms name a window byte that exists by its toGlobal (R124, R125, R269). -/
def Claim.ImmediatesAndAddressesComplete : Prop :=
  ∀ (s : State) (c : Exec) (d a b : BitVec 7) (i : BitVec 11) (w : Word), s.current = some c →
    let imm := i.signExtend 32
    let toGlobal := fun (l : Nat) (x : DWord) =>
      if 0xFFFFFFFE00000000 ≤ x.toNat ∧ x.toNat < 0xFFFFFFFE00000000 + (s.ctx c.task.ctx).privSize then
        BitVec.ofNat 64 (0xFFFFE00000000000 + c.task.slot * 2 ^ 27 + (32 * c.pi + l) * 2 ^ 16 + (x.toNat - 0xFFFFFFFE00000000))
      else if 0xFFFFFFFF00000000 ≤ x.toNat ∧ x.toNat < 0xFFFFFFFF00000000 + c.task.desc.scratch then
        BitVec.ofNat 64 (0xFFFFF00000000000 + c.task.slot * 2 ^ 18 + (x.toNat - 0xFFFFFFFF00000000))
      else x
    let ea := fun l => c.party.vpair a.toNat l + (c.party.vreg b.toNat l).signExtend 64
    let uea := c.party.upair a.toNat + (c.party.ureg b.toNat).signExtend 64
    (c.VOk d.toNat → exec (.movi d i) s = s.passed c 1 (c.party.setV d.toNat fun _ => imm)) ∧
    (c.VOk d.toNat → c.VOk a.toNat →
      exec (.iaddi d a i) s = s.passed c 1 (c.party.setV d.toNat fun l => c.party.vreg a.toNat l + imm)) ∧
    (c.UOk d.toNat → exec (.smovi d i) s = s.passed c 1 (c.party.setU d.toNat imm)) ∧
    (c.UOk d.toNat → c.UOk a.toNat → exec (.saddi d a i) s = s.passed c 1 (c.party.setU d.toNat (c.party.ureg a.toNat + imm))) ∧
    (c.VOk d.toNat → exec (.movl d 0 w) s = s.passed c 2 (c.party.setV d.toNat fun _ => w)) ∧
    (c.UOk d.toNat → exec (.movl d 1 w) s = s.passed c 2 (c.party.setU d.toNat w)) ∧
    (c.VPairOk d.toNat → c.VPairOk a.toNat → c.VOk b.toNat →
      exec (.lea d a b) s = s.passed c 1 (c.party.setVPair d.toNat ea) ∧
      exec (.leaG d a b) s = s.passed c 1 (c.party.setVPair d.toNat fun l => toGlobal l (ea l))) ∧
    (c.UPairOk d.toNat → c.UPairOk a.toNat → c.UOk b.toNat →
      exec (.slea d a b) s = s.passed c 1 (c.party.setUPair d.toNat uea) ∧
      exec (.sleaG d a b) s = s.passed c 1 (c.party.setUPair d.toNat (toGlobal ((lanesOf c.party.exm).headD 0) uea)))

/-- Moves between register classes, and the reads and writes past the window by an index register, checked against the
allotment alone (R60, R126). -/
def Claim.MovesComplete : Prop :=
  ∀ (s : State) (c : Exec) (d a b : BitVec 7) (u : BitVec 1) (k : BitVec 2), s.current = some c →
    let r := (c.party.ix.getD k.toNat 0).toNat + b.toNat
    (c.VOk d.toNat → c.AOk a u → exec (.mov d a u) s = s.passed c 1 (c.party.setV d.toNat (c.party.opA a u))) ∧
    (c.VOk d.toNat → r < c.task.desc.vregs → r ≤ 511 →
      exec (.vxget d k b) s = s.passed c 1 (c.party.setV d.toNat (c.party.vphys r)) ∧
      exec (.vxput d k b) s = s.passed c 1 (c.party.setPhys r c.party.exm (c.party.vreg d.toNat))) ∧
    (c.VOk d.toNat → (c.task.desc.vregs ≤ r ∨ 511 < r) →
      exec (.vxget d k b) s = s.trapped c (Trap.rbx r 0) ∧ exec (.vxput d k b) s = s.trapped c (Trap.rbx r 0)) ∧
    (c.UOk d.toNat → c.VOk a.toNat → c.UOk b.toNat →
      exec (.uvget d a b) s = s.passed c 1 (c.party.setU d.toNat (c.party.vreg a.toNat ((c.party.ureg b.toNat).toNat % 32)))) ∧
    (c.VOk d.toNat → ∃ f, exec (.p2v d 0) s = s.passed c 1 (c.party.setV d.toNat f) ∧
      ∀ l i, i < 32 → (f l).getLsbD i = (decide (i < 8) && (c.party.pred i).getLsbD l)) ∧
    (c.UOk d.toNat → ∃ x, exec (.p2v d 1) s = s.passed c 1 (c.party.setU d.toNat x) ∧
      ∀ i, i < 32 → x.getLsbD i = (decide (i < 8) && c.party.upred i)) ∧
    (c.VOk a.toNat → c.party.preds.length = 8 → ∃ p, exec (.v2p 0 a) s = s.passed c 1 p ∧ p = { c.party with preds := p.preds } ∧
      ∀ i l, i < 8 → l < 32 → (p.pred i).getLsbD l =
        if c.party.exm.getLsbD l then (c.party.vreg a.toNat l).getLsbD i else (c.party.pred i).getLsbD l) ∧
    (c.UOk a.toNat → ∃ p, exec (.v2p 1 a) s = s.passed c 1 p ∧ p = { c.party with q := p.q } ∧ p.upred 7 = true ∧
      ∀ i, i < 7 → p.upred i = (c.party.ureg a.toNat).getLsbD i)

/-- Immediates, address sums and moves (R60, R124 to R126, R269). -/
def Obligations.MovesAndAddressesComplete : Prop := Claim.ImmediatesAndAddressesComplete ∧ Claim.MovesComplete

/-- MFS: what each special register reads as (R62), and the causes of an unassigned number; MTS: what each writable one becomes
(R57, R60, R63, R64, R127), a path whose last lane `exm` clears doing nothing more in its clause and the party ending where it was the
bottom one (R228), RBX for a window base that R57 does not admit, ILL for a read-only register. -/
def Obligations.SpecialRegistersReadAndWrite : Prop :=
  ∀ (s : State) (c : Exec) (d : BitVec 7), s.current = some c →
    let p := c.party
    let get := fun (n : BitVec 7) (x : Word) => c.UOk d.toNat → exec (.mfs d n) s = s.passed c 1 (p.setU d.toNat x)
    let get64 := fun (n : BitVec 7) (x : DWord) => c.UPairOk d.toNat → exec (.mfs d n) s = s.passed c 1 (p.setUPair d.toNat x)
    let x := p.ureg d.toNat
    let y := p.upair d.toNat
    let put := fun (n : BitVec 7) (q : Party) => c.UOk d.toNat → exec (.mts n d) s = s.passed c 1 q
    get 0x00 p.exm ∧ get 0x01 p.top.fmt ∧ get 0x02 p.gang ∧ get 0x03 p.vwb ∧ get 0x04 p.swb ∧
    (∀ k : BitVec 7, k < 4 → get (0x05 + k) ((p.ix.getD k.toNat 0).setWidth 32)) ∧
    get64 0x09 p.lnk ∧ (c.VOk d.toNat → exec (.mfs d 0x10) s = s.passed c 1 (p.setV d.toNat fun l => BitVec.ofNat 32 l)) ∧
    get 0x11 (BitVec.ofNat 32 c.pi) ∧ get64 0x12 c.task.cidx ∧ get64 0x13 c.task.frame ∧ get 0x14 (BitVec.ofNat 32 c.task.stage) ∧
    get 0x15 (BitVec.ofNat 32 c.task.die) ∧ get 0x16 (BitVec.ofNat 32 c.task.core) ∧ get 0x18 (p.aflags.setWidth 32) ∧
    get 0x19 p.tmask ∧ get 0x1A p.tcause ∧ get64 0x1B p.xpc ∧ get64 0x1C s.time ∧
    (∀ n : BitVec 7, (0x0A ≤ n ∧ n ≤ 0x0F) ∨ n = 0x17 ∨ 0x1D ≤ n → exec (.mfs d n) s = s.trapped c (Trap.ill 0)) ∧
    put 0x01 (p.modTop fun e => { e with fmt := x &&& 0xFFFF0007#32 }) ∧
    (∀ k : BitVec 7, k < 4 → put (0x05 + k) { p with ix := p.ix.set k.toNat (x.setWidth 9) }) ∧
    put 0x18 { p with aflags := x.setWidth 5 } ∧ put 0x19 { p with tmask := x &&& 0x11F#32 } ∧
    (c.UPairOk d.toNat → exec (.mts 0x09 d) s = s.passed c 1 { p with lnk := y }) ∧
    (c.UPairOk d.toNat → exec (.mts 0x1B d) s = s.passed c 1 { p with xpc := y }) ∧
    (x.toNat % 16 = 0 → x.toNat < c.task.desc.vregs → put 0x03 { p with vwb := x }) ∧
    (x.toNat % 16 = 0 → x.toNat < c.task.desc.uregs → put 0x04 { p with swb := x }) ∧
    (c.UOk d.toNat → (x.toNat % 16 ≠ 0 ∨ c.task.desc.vregs ≤ x.toNat) → exec (.mts 0x03 d) s = s.trapped c (Trap.rbx x.toNat 2)) ∧
    (c.UOk d.toNat → (x.toNat % 16 ≠ 0 ∨ c.task.desc.uregs ≤ x.toNat) → exec (.mts 0x04 d) s = s.trapped c (Trap.rbx x.toNat 2)) ∧
    (x &&& p.exm ≠ 0#32 → p.stack ≠ [] → put 0x00 (p.modTop fun e => { e with mask := e.mask &&& x })) ∧
    (∀ e r, p.stack = e :: r → x &&& p.exm = 0#32 → c.UOk d.toNat →
      let off : Entry := { e.jump (e.pc + BitVec.ofNat 64 (4 * (match e.clause with | some k => k.words.length | none => 1))) with mask := 0#32 }
      exec (.mts 0x00 d) s = s.became c
        (if r = [] then { p with stack := [off], ended := true, gang := 0 } else { p with stack := off :: r })) ∧
    (∀ n : BitVec 7, n = 0x02 ∨ (0x0A ≤ n ∧ n ≤ 0x17) ∨ n = 0x1A ∨ 0x1C ≤ n → exec (.mts n d) s = s.trapped c (Trap.ill 0))

/-- The words of MAJ 0x30 and 0x31: M[3] is zero, and SPOPC has B zero (R129). -/
def Claim.UniformEncodings : Prop :=
  ∀ (d a b : BitVec 7) (u : BitVec 1),
    let word := fun (maj : BitVec 7) (m : BitVec 3) => (maj ++ d ++ a ++ b ++ u ++ m : Word)
    let reads := fun (maj : BitVec 7) (m : BitVec 3) (i : Instr) => decode [word maj m] = .ok (i, [])
    (u = 0#1 →
      reads 0x30 0 (.sadd d a b) ∧ reads 0x30 1 (.ssub d a b) ∧ reads 0x30 2 (.smul d a b) ∧ reads 0x30 3 (.sand d a b) ∧
      reads 0x30 4 (.sor d a b) ∧ reads 0x30 5 (.sxor d a b) ∧ reads 0x30 6 (.sshl d a b) ∧ reads 0x30 7 (.sshr d a b) ∧
      reads 0x31 0 (.sminS d a b) ∧ reads 0x31 1 (.smaxS d a b) ∧ reads 0x31 2 (.sminZ d a b) ∧ reads 0x31 3 (.smaxZ d a b) ∧
      reads 0x31 4 (.sadd64 d a b) ∧ reads 0x31 5 (.ssub64 d a b) ∧ reads 0x31 6 (.ssar d a b) ∧
      (b = 0#7 → reads 0x31 7 (.spopc d a)) ∧ (b ≠ 0#7 → decode [word 0x31 7] = .error .reserved)) ∧
    (u = 1#1 → ∀ m : BitVec 3, decode [word 0x30 m] = .error .reserved ∧ decode [word 0x31 m] = .error .reserved)

/-- The uniform families compute once per party on uniform registers what the vector words do in a lane (R129). -/
def Claim.UniformWordsWrite : Prop :=
  ∀ (s : State) (c : Exec) (d a b : BitVec 7), s.current = some c →
    let x := c.party.ureg a.toNat
    let y := c.party.ureg b.toNat
    let wrote := fun (w : Word) => s.passed c 1 (c.party.setU d.toNat w)
    (c.UOk d.toNat → c.UOk a.toNat → c.UOk b.toNat →
      exec (.sadd d a b) s = wrote (x + y) ∧ exec (.ssub d a b) s = wrote (x - y) ∧ exec (.smul d a b) s = wrote (x * y) ∧
      exec (.sand d a b) s = wrote (x &&& y) ∧ exec (.sor d a b) s = wrote (x ||| y) ∧ exec (.sxor d a b) s = wrote (x ^^^ y) ∧
      exec (.sshl d a b) s = wrote (x <<< y.toNat) ∧ exec (.sshr d a b) s = wrote (x >>> y.toNat) ∧
      exec (.ssar d a b) s = wrote (x.sshiftRight y.toNat) ∧
      exec (.sminS d a b) s = wrote (if x.sle y then x else y) ∧ exec (.smaxS d a b) s = wrote (if y.sle x then x else y) ∧
      exec (.sminZ d a b) s = wrote (if x ≤ y then x else y) ∧ exec (.smaxZ d a b) s = wrote (if y ≤ x then x else y)) ∧
    (c.UOk d.toNat → c.UOk a.toNat →
      exec (.spopc d a) s = wrote (BitVec.ofNat 32 ((List.range 32).countP fun i => x.getLsbD i))) ∧
    (c.UPairOk d.toNat → c.UPairOk a.toNat → c.UPairOk b.toNat →
      exec (.sadd64 d a b) s = s.passed c 1 (c.party.setUPair d.toNat (c.party.upair a.toNat + c.party.upair b.toNat)) ∧
      exec (.ssub64 d a b) s = s.passed c 1 (c.party.setUPair d.toNat (c.party.upair a.toNat - c.party.upair b.toNat)))

/-- MAJ 0x30 and 0x31: their words and the next state of each (R129). -/
def Obligations.UniformWordsComplete : Prop := Claim.UniformEncodings ∧ Claim.UniformWordsWrite

/-- Lane operations issue on the reconverged party (R230): SHFL reads every source first, VOTE reads the active lanes alone, and
MATCH gives each active lane the active lanes that hold its value (R130, R131, R133). -/
def Claim.LaneExchangesComplete : Prop :=
  ∀ (s : State) (c : Exec) (p : Party) (d a b : BitVec 7) (n : BitVec 5) (q k : BitVec 3) (inv : BitVec 1),
    s.current = some c → c.IssuesWide p →
    let v := p.vwb.toNat
    let okV := fun (r : BitVec 7) => v + r.toNat < c.task.desc.vregs
    let from_ := fun (f : Nat → Nat) => s.passed c 1 (p.setV d.toNat fun l => p.vreg a.toNat (f l))
    let yes := p.exm &&& (if inv = 1#1 then ~~~(p.pred k.toNat) else p.pred k.toNat)
    (okV d → okV a → okV b → exec (.shflIdx d a b) s = from_ (fun l => (p.vreg b.toNat l).toNat % 32)) ∧
    (okV d → okV a →
      exec (.shflUp d a n) s = from_ (fun l => if n.toNat ≤ l then l - n.toNat else l) ∧
      exec (.shflDn d a n) s = from_ (fun l => if l + n.toNat ≤ 31 then l + n.toNat else l) ∧
      exec (.shflXor d a n) s = from_ (fun l => l ^^^ n.toNat) ∧
      (∃ f, exec (.matchLanes d a) s = s.passed c 1 (p.setV d.toNat f) ∧
        ∀ l m, m < 32 → (f l).getLsbD m = (p.exm.getLsbD m && decide (p.vreg a.toNat m = p.vreg a.toNat l)))) ∧
    exec (.voteAny q inv k) s = s.passed c 1 (p.setQ q.toNat (decide (yes ≠ 0#32))) ∧
    exec (.voteAll q inv k) s = s.passed c 1 (p.setQ q.toNat (decide (yes = p.exm))) ∧
    exec (.voteUni q inv k) s = s.passed c 1 (p.setQ q.toNat (decide (yes = p.exm ∨ yes = 0#32))) ∧
    (p.swb.toNat + d.toNat < c.task.desc.uregs → exec (.voteBallot d inv k) s = s.passed c 1 (p.setU d.toNat yes))

/-- LRED folds the active lanes' values from the lowest lane up; LSCAN gives each active lane the fold of the lanes up to it, or
before it, starting from the operator's identity (R132). -/
def Claim.LaneReductionsComplete : Prop :=
  ∀ (s : State) (c : Exec) (p : Party) (d a : BitVec 7) (o : BitVec 3) (l0 : Nat) (ls : List Nat),
    s.current = some c → c.IssuesWide p → lanesOf p.exm = l0 :: ls → p.vwb.toNat + a.toNat < c.task.desc.vregs →
    let at_ := p.vreg a.toNat
    let f := lredOp p.rnd o
    let g := (lscanOp p.rnd o).1
    let upTo := fun (l : Nat) => (ls.filter (· ≤ l)).foldl (fun x k => (g x (at_ k)).1) (at_ l0)
    (p.swb.toNat + d.toNat < c.task.desc.uregs → ∃ e, exec (.lred d a o) s
      = s.passed c 1 ((p.setU d.toNat (ls.foldl (fun x k => (f x (at_ k)).1) (at_ l0))).raise e) ∧ (o.toNat < 6 → e = 0#5)) ∧
    (p.vwb.toNat + d.toNat < c.task.desc.vregs → o.toNat ≤ 5 → ∃ e vals, exec (.lscan d a o) s
      = s.passed c 1 ((p.setV d.toNat vals).raise e) ∧ (o.toNat / 2 ≠ 1 → e = 0#5) ∧
      ∀ l ∈ l0 :: ls,
        (o.toNat % 2 = 0 → vals l = upTo l) ∧
        (o.toNat % 2 = 1 → vals l = match ((l0 :: ls).filter (· < l)).getLast? with
          | none => (lscanOp p.rnd o).2
          | some k => upTo k))

/-- The words that cross lanes (R130 to R133, R230). -/
def Obligations.LaneWordsComplete : Prop := Claim.LaneExchangesComplete ∧ Claim.LaneReductionsComplete

/-! ## Floating-point words (spec/07) -/

/-- MAJ 0x40 and 0x41 in each active lane, the flags of the active lanes raised (R135 to R138): the sums, products and fused
forms rounded once by the path's mode, the min and max operations by their own order, FCSGN bit by bit. -/
def Claim.FloatArithmeticCompletes : Prop :=
  ∀ (s : State) (c : Exec) (d a b : BitVec 7) (u : BitVec 1),
    s.current = some c → c.VOk d.toNat → c.AOk a u → c.VOk b.toNat →
    let m := c.party.top.fmt.toNat % 4
    let x := fun l => (c.party.opA a u l).toNat
    let y := fun l => (c.party.vreg b.toNat l).toNat
    let z := fun l => (c.party.vreg d.toNat l).toNat
    let wrote := fun (r : Nat → FloatRes) => s.passed c 1 (c.party.setF d.toNat r)
    exec (.fadd d a b u) s = wrote (fun l => fp32.add m (x l) (y l)) ∧
    exec (.fsub d a b u) s = wrote (fun l => fp32.sub m (x l) (y l)) ∧
    exec (.fmul d a b u) s = wrote (fun l => fp32.mul m (x l) (y l)) ∧
    exec (.fmin d a b u) s = wrote (fun l => fp32.minMax true false (x l) (y l)) ∧
    exec (.fmax d a b u) s = wrote (fun l => fp32.minMax true true (x l) (y l)) ∧
    exec (.fminn d a b u) s = wrote (fun l => fp32.minMax false false (x l) (y l)) ∧
    exec (.fmaxn d a b u) s = wrote (fun l => fp32.minMax false true (x l) (y l)) ∧
    exec (.fcsgn d a b u) s = wrote (fun l =>
      (if (fp32.val (x l)).isNan then 0x7FC00000 else x l % 2 ^ 31 + 2 ^ 31 * (y l / 2 ^ 31), 0#5)) ∧
    exec (.ffma d a b u) s = wrote (fun l => fp32.fma m false false (x l) (y l) (z l)) ∧
    exec (.ffms d a b u) s = wrote (fun l => fp32.fma m false true (x l) (y l) (z l)) ∧
    exec (.fnfma d a b u) s = wrote (fun l => fp32.fma m true true (x l) (y l) (z l)) ∧
    exec (.fnfms d a b u) s = wrote (fun l => fp32.fma m true false (x l) (y l) (z l))

/-- FSETP by its eight conditions, and the unary words of MAJ 0x43 with FLDEXP (R139, R140). -/
def Claim.FloatCompareAndMiscComplete : Prop :=
  ∀ (s : State) (c : Exec) (q k : BitVec 3) (d a b : BitVec 7) (u : BitVec 1), s.current = some c → c.AOk a u →
    let m := c.party.top.fmt.toNat % 4
    let x := fun l => (c.party.opA a u l).toNat
    let y := fun l => (c.party.vreg b.toNat l).toNat
    let nan := fun l => (fp32.val (x l)).isNan
    let snan := fun l => (fp32.val (x l)).sig
    let un := fun l => nan l || (fp32.val (y l)).isNan
    let holds := fun l =>
      match k.toNat with
      | 0 => !un l && decide (fpKey (x l) = fpKey (y l))
      | 1 => un l || decide (fpKey (x l) ≠ fpKey (y l))
      | 2 => !un l && decide (fpKey (x l) < fpKey (y l))
      | 3 => !un l && decide (fpKey (x l) ≤ fpKey (y l))
      | 4 => !un l && decide (fpKey (x l) > fpKey (y l))
      | 5 => !un l && decide (fpKey (x l) ≥ fpKey (y l))
      | 6 => un l
      | _ => !un l
    let invalid := fun l => snan l || (fp32.val (y l)).sig || (un l && decide (2 ≤ k.toNat ∧ k.toNat ≤ 5))
    let wrote := fun (r : Nat → FloatRes) => s.passed c 1 (c.party.setF d.toNat r)
    (c.VOk b.toNat → exec (.fsetp q a b u k) s = s.passed c 1 ((c.party.setPred q.toNat holds).raise
      (orFlags c.party.exm fun l => if invalid l then 0x10#5 else 0#5))) ∧
    (c.VOk d.toNat →
      exec (.fclass d a u) s = wrote (fun l => fclassW (x l)) ∧
      exec (.frnd d a u) s = wrote (fun l => frndW m (x l)) ∧
      exec (.fgetx d a u) s = wrote (fun l => fgetxW (x l)) ∧
      exec (.ffrac d a u) s = wrote (fun l => ffracW (x l)) ∧
      exec (.fabs d a u) s = wrote (fun l => (if nan l then 0x7FC00000 else x l % 2 ^ 31, 0#5)) ∧
      exec (.fneg d a u) s = wrote (fun l =>
        (if nan l then 0x7FC00000 else if x l < 2 ^ 31 then x l + 2 ^ 31 else x l - 2 ^ 31, 0#5)) ∧
      exec (.fsat d a u) s = wrote (fun l =>
        (if nan l || decide (2 ^ 31 ≤ x l) then 0 else min (x l) 0x3F800000, if snan l then 0x10#5 else 0#5))) ∧
    (c.VOk d.toNat → c.VOk b.toNat → exec (.fldexp d a b u) s = wrote (fun l => fldexpW m (x l) (y l)))

/-- The FP32 words of class A (R135 to R140). -/
def Obligations.FloatWordsComplete : Prop := Claim.FloatArithmeticCompletes ∧ Claim.FloatCompareAndMiscComplete

/-- Every NaN result of FP32 arithmetic is 0x7FC0_0000, and a signalling NaN operand, whichever it is, raises NV (R135, R137, R138,
R141). -/
def Obligations.NanResultsAreCanonical : Prop :=
  ∀ (m a b x : Nat) (neg1 neg2 number mx : Bool), m < 4 → a < 2 ^ 32 → b < 2 ^ 32 → x < 2 ^ 32 →
    let canon := fun (r : FloatRes) => (fp32.val r.1).isNan = true → r.1 = 0x7FC00000
    let sig := fun (n : Nat) => (fp32.val n).sig = true
    let nv := fun (r : FloatRes) => r.2.getLsbD 4 = true
    canon (fp32.add m a b) ∧ canon (fp32.sub m a b) ∧ canon (fp32.mul m a b) ∧ canon (fp32.div m a b) ∧
    canon (fp32.fma m neg1 neg2 a b x) ∧ canon (fp32.minMax number mx a b) ∧ canon (fp32.sqrt m a) ∧
    (sig a ∨ sig b → nv (fp32.add m a b) ∧ nv (fp32.sub m a b) ∧ nv (fp32.mul m a b) ∧ nv (fp32.div m a b) ∧
      nv (fp32.minMax number mx a b)) ∧
    (sig a ∨ sig b ∨ sig x → nv (fp32.fma m neg1 neg2 a b x)) ∧ (sig a → nv (fp32.sqrt m a))

/-- The long FP32 words and FDIV leave a pending result of the active lanes under the flag their select bit names; no register
and no flag of `aflags` changes until it completes (R48, R136, R141, R142). -/
def Claim.LongFloatWordsPend : Prop :=
  ∀ (s : State) (c : Exec) (d a : BitVec 7) (b : BitVec 6) (f u : BitVec 1),
    s.current = some c → c.CanPend f → c.VOk d.toNat → c.AOk a u →
    let m := c.party.top.fmt.toNat % 4
    let x := fun l => (c.party.opA a u l).toNat
    let pends := fun (r : Nat → FloatRes) => s.pended c f (c.party.floatResult d.toNat r)
    exec (.rcp d a f u) s = pends (fun l => fLong m .rcp (x l)) ∧
    exec (.rsq d a f u) s = pends (fun l => fLong m .rsq (x l)) ∧
    exec (.sqrt d a f u) s = pends (fun l => fLong m .sqrt (x l)) ∧
    exec (.ex2 d a f u) s = pends (fun l => fLong m .ex2 (x l)) ∧
    exec (.lg2 d a f u) s = pends (fun l => fLong m .lg2 (x l)) ∧
    exec (.sinpi d a f u) s = pends (fun l => fLong m .sinpi (x l)) ∧
    exec (.cospi d a f u) s = pends (fun l => fLong m .cospi (x l)) ∧
    (c.VOk b.toNat → exec (.fdiv d a f b u) s = pends (fun l => fp32.div m (x l) (c.party.vreg b.toNat l).toNat))

/-- The packed words act on both halves of a register, BF16 or F16, and raise the flags of both (R143). -/
def Claim.PackedWordsComplete : Prop :=
  ∀ (s : State) (c : Exec) (d a b : BitVec 7) (f t : BitVec 1), s.current = some c → c.VOk d.toNat → c.VOk a.toNat →
    let m := c.party.top.fmt.toNat % 4
    let g := if t = 0#1 then bf16 else fp16
    let lo := fun (n : BitVec 7) l => (c.party.vreg n.toNat l).toNat % 65536
    let hi := fun (n : BitVec 7) l => (c.party.vreg n.toNat l).toNat / 65536
    let both := fun (r0 r1 : FloatRes) => ((r0.1 + 65536 * r1.1, r0.2 ||| r1.2) : FloatRes)
    let wrote := fun (r : Nat → FloatRes) => s.passed c 1 (c.party.setF d.toNat r)
    let pends := fun (op : LongOp) => s.pended c f (c.party.floatResult d.toNat fun l =>
      both (g.long16 m op (lo a l)) (g.long16 m op (hi a l)))
    (c.VOk b.toNat →
      exec (.hadd2 d a b t) s = wrote (fun l => both (g.add m (lo a l) (lo b l)) (g.add m (hi a l) (hi b l))) ∧
      exec (.hsub2 d a b t) s = wrote (fun l => both (g.sub m (lo a l) (lo b l)) (g.sub m (hi a l) (hi b l))) ∧
      exec (.hmul2 d a b t) s = wrote (fun l => both (g.mul m (lo a l) (lo b l)) (g.mul m (hi a l) (hi b l))) ∧
      exec (.hmin2 d a b t) s = wrote (fun l =>
        both (g.minMax true false (lo a l) (lo b l)) (g.minMax true false (hi a l) (hi b l))) ∧
      exec (.hmax2 d a b t) s = wrote (fun l =>
        both (g.minMax true true (lo a l) (lo b l)) (g.minMax true true (hi a l) (hi b l))) ∧
      exec (.hfma2 d a b t) s = wrote (fun l => both (g.fma m false false (lo a l) (lo b l) (lo d l))
        (g.fma m false false (hi a l) (hi b l) (hi d l)))) ∧
    (c.CanPend f →
      exec (.hrcp d a f t) s = pends .rcp ∧ exec (.hrsq d a f t) s = pends .rsq ∧ exec (.hsqrt d a f t) s = pends .sqrt ∧
      exec (.hex2 d a f t) s = pends .ex2 ∧ exec (.hlg2 d a f t) s = pends .lg2 ∧ exec (.hsinpi d a f t) s = pends .sinpi ∧
      exec (.hcospi d a f t) s = pends .cospi)

/-- The long FP32 words and the packed words (R136, R141 to R143). -/
def Obligations.LongAndPackedFloatWordsComplete : Prop := Claim.LongFloatWordsPend ∧ Claim.PackedWordsComplete

/-- CVT converts in each active lane; FMTSET replaces the fields of `fmt` that its selector names on the current path; QCVT and DQ
quantise and decode at a position block, REKEY from one block to another; QSCALE takes the block's scale from the reconverged
party's active lanes (R144, R147, R153, R154). -/
def Obligations.ConversionsComplete : Prop :=
  ∀ (s : State) (c : Exec) (p : Party) (d a b : BitVec 7) (e : BitVec 4) (k f : BitVec 3) (x : BitVec 1) (q : BitVec 2),
    s.current = some c →
    let fmt := c.party.top.fmt
    let at_ := fun (r : Nat) l => (c.party.vreg r l).toNat
    let col := fun (r : Nat) l => ((c.party.ureg (r + 1)).toNat + l) % 2 ^ 32
    let row := fun (r : Nat) => (c.party.ureg r).toNat
    let md := fun (r : Nat) => posMeta (c.party.ureg (r + 2))
    let wrote := fun (r : Nat → FloatRes) => s.passed c 1 (c.party.setF d.toNat r)
    let quant := fun (r l : Nat) (v : FloatVal) => quantiseVal f.toNat (fmtE5inf fmt) v (row r) (col r l) (fmtKey fmt) (md r)
    let dec := fun (l : Nat) => decodeCode f.toNat (at_ a.toNat l % (if f = 2#3 then 16 else 256)) (row b.toNat) (col b.toNat l)
      (fmtKey fmt) (md b.toNat)
    (c.VOk d.toNat → c.VOk a.toNat →
      exec (.cvt d a e k x q) s = wrote (fun l => cvtWord (fmt.toNat % 4) e.toNat k.toNat q.toNat (cvtDstBits e) (cvtSrcBits k)
        (fmtE5inf fmt) (x == 1#1) (c.party.vreg a.toNat l) (c.party.vreg d.toNat l))) ∧
    (c.UOk a.toNat → k ≠ 0#3 → ∃ g : Word, exec (.fmtset k a) s = s.passed c 1 (c.party.modTop fun y => { y with fmt := g }) ∧
      ∀ i, i < 32 → g.getLsbD i = if (i < 2 ∧ k.getLsbD 0 = true) ∨ (i = 2 ∧ k.getLsbD 1 = true) ∨ (16 ≤ i ∧ k.getLsbD 2 = true)
        then (c.party.ureg a.toNat).getLsbD i else fmt.getLsbD i) ∧
    (c.UOk a.toNat → exec (.fmtset 0 a) s = s.trapped c (Trap.ill 0)) ∧
    (c.VOk d.toNat → c.VOk a.toNat → c.PosOk b.toNat →
      exec (.qcvt d a b f) s = wrote (fun l => quant b.toNat l (fp32.val (at_ a.toNat l))) ∧
      exec (.dq d a b f) s = wrote (fun l => decodeF32 (dec l)) ∧
      (c.UOk (b.toNat + 5) → exec (.rekey d a b f) s = wrote (fun l =>
        quant (b.toNat + 3) l (fp32.val (decodeF32 (dec l)).1)))) ∧
    (c.IssuesWide p → p.swb.toNat + d.toNat < c.task.desc.uregs → p.vwb.toNat + a.toNat < c.task.desc.vregs →
      let r := qscale f.toNat ((List.range 32).map fun l => if p.exm.getLsbD l then (p.vreg a.toNat l).toNat else 0)
      ∃ fl, exec (.qscale d a f) s
        = s.passed c 1 ((p.setU d.toNat (BitVec.ofNat 32 (r.1 * 2 ^ 16 + r.2.1 * 2 ^ 8 + r.2.2))).raise fl) ∧
        (fl = 0x10#5 ∨ fl = 0#5) ∧
        (fl = 0x10#5 ↔ ∃ l, l < 32 ∧ p.exm.getLsbD l = true ∧ (fp32.val (p.vreg a.toNat l).toNat).sig = true))

/-- A class V result that has come back is written to the registers bound at issue, one, a pair or a quad, vector registers in the lanes
that were active then, and every other register and lane keeps its value; its flags are merged, and its count is taken back; one that has not stays (R48, R53, R136). -/
def Obligations.ClassVResultCompletes : Prop :=
  ∀ (s : State) (t i k : Nat) (p : Party) (x : Pending),
    s.party? t i = some p → p.pend[k]? = some x →
    (x.wait ≠ .ready → exec (.classVComplete t i k) s = .next s) ∧
    (x.wait = .ready → ∃ q, exec (.classVComplete t i k) s = .next (s.putParty t i q) ∧
      q.aflags = p.aflags ||| x.aflags ∧ q.pend = p.pend.filter (fun y => y.id != x.id) ∧
      q.stack = p.stack ∧ q.preds = p.preds ∧ q.q = p.q ∧ q.tmask = p.tmask ∧
      (x.flag < p.cf.length → q.cfCount x.flag = p.cfCount x.flag - 1) ∧
      (∀ g, g ≠ x.flag → q.cfCount g = p.cfCount g) ∧
      (∀ n l, l < 32 → q.vphys n l = match (x.vwrites.filter fun w => w.1 == n && w.2.1.getLsbD l).getLast? with
        | some w => w.2.2.getD l 0
        | none => p.vphys n l) ∧
      (∀ n, Cells.get q.u n = match (x.uwrites.filter fun w => w.1 == n).getLast? with
        | some w => w.2
        | none => Cells.get p.u n) ∧
      (x.vwrites = [] → q.v = p.v) ∧ (x.uwrites = [] → q.u = p.u))

/-! ## Memory words (spec/08) -/

/-- LD, LDI, LDU and LDS whose lanes all pass their checks and whose homes answer with good data (R160 to R166): the values that
the lanes' accesses see are pending for the registers of the width, extended by it, and the party goes on. -/
def Obligations.LoadsComplete : Prop :=
  ∀ (s : State) (c : Exec) (d a b : BitVec 7) (b6 : BitVec 6) (i : BitVec 10) (w : BitVec 3) (x : BitVec 1) (tgt : Nat → Target)
    (ut : Target), s.current = some c → c.CanPend x → w ≠ 7#3 →
    let size := fun (w : BitVec 3) => match w.toNat with | 0 => 1 | 1 => 1 | 2 => 2 | 3 => 2 | 4 => 4 | 5 => 8 | _ => 16
    let off := if b.getLsbD 6 then (((b.toNat % 64) * size w : Nat) : Int) else (c.party.ureg (b.toNat % 64)).toInt
    let val := fun (w : BitVec 3) (bs : List Byte) (k : Nat) =>
      let n := natOfBytes bs
      match w.toNat with
      | 0 => BitVec.ofNat 32 n
      | 1 => (BitVec.ofNat 8 n).signExtend 32
      | 2 => BitVec.ofNat 32 n
      | 3 => (BitVec.ofNat 16 n).signExtend 32
      | _ => BitVec.ofNat 32 (n / 2 ^ (32 * k))
    let regs := fun (w : BitVec 3) => if w = 5#3 then 2 else if w = 6#3 then 4 else 1
    let nth := fun l => (lanesOf c.party.exm).findIdx (· == l)
    let vec := fun (w : BitVec 3) (t : Nat → Target) => s.pended c x (VResult.loads ((List.range (regs w)).map fun k =>
      c.party.vwrite (d.toNat + k) fun l =>
        if l < 32 ∧ c.party.exm.getLsbD l = true then val w (s.targetBytes c.task c.party.seen (t l) (size w) (nth l)) k else 0#32) [])
    (c.VWidthOk w d.toNat → c.VPairOk a.toNat → c.OffOk b →
      s.Reaches c .read (size w) (fun l => ea64 (c.party.vpair a.toNat l) off) tgt → s.Readable c .read (c.targets tgt) →
      exec (.ld d a b x w) s = vec w tgt) ∧
    (c.VOk d.toNat → c.VPairOk a.toNat → s.Reaches c .read 4 (fun l => ea64 (c.party.vpair a.toNat l) (4 * i.toInt)) tgt →
      s.Readable c .read (c.targets tgt) → exec (.ldi d a i x) s = vec 4 tgt) ∧
    (c.VWidthOk w d.toNat → c.VOk a.toNat → c.UOk b6.toNat →
      (∀ l, l < 32 → c.party.exm.getLsbD l = true → (c.party.vreg a.toNat l + c.party.ureg b6.toNat).toNat % size w = 0 ∧
        (c.party.vreg a.toNat l + c.party.ureg b6.toNat).toNat + size w ≤ c.task.desc.scratch) →
      let st := fun l => Target.scratch c.tid (c.party.vreg a.toNat l + c.party.ureg b6.toNat).toNat
      s.Readable c .read (c.targets st) → exec (.lds d a x b6 w) s = vec w st) ∧
    (c.UWidthOk w d.toNat → c.UPairOk a.toNat → c.OffOk b →
      s.checkLane (c.env s) c.party .read (size w) c.party.lowLane (ea64 (c.party.upair a.toNat) off) = .ok (.ok ut) →
      s.Readable c .read [(0, ut)] →
      exec (.ldu d a b x w) s = s.pended c x (VResult.loads [] ((List.range (regs w)).map fun k =>
        c.party.uwrite (d.toNat + k) (val w (s.targetBytes c.task c.party.seen ut (size w) 0) k))))

/-- ST, STI and STS whose lanes all pass their checks and that wait for nothing (R160 to R168): every active lane's bytes, the low
bytes of its registers, are stored at its target, lowest lane first, and the party goes on. Where the Vat holds a lane's
contribution, the lanes before it are stored, and the word goes on with the rest when it issues again, with their addresses and bytes as
they were read at first (R53, R330). -/
def Obligations.StoresComplete : Prop :=
  ∀ (s : State) (c : Exec) (d a b : BitVec 7) (i : BitVec 11) (w : BitVec 3) (tgt : Nat → Target), s.current = some c →
    (w = 0#3 ∨ w = 2#3 ∨ w = 4#3 ∨ w = 5#3 ∨ w = 6#3) →
    let size := fun (w : BitVec 3) => match w.toNat with | 0 => 1 | 2 => 2 | 4 => 4 | 5 => 8 | _ => 16
    let off := if b.getLsbD 6 then (((b.toNat % 64) * size w : Nat) : Int) else (c.party.ureg (b.toNat % 64)).toInt
    let bytes := fun (w : BitVec 3) l => (List.range (size w)).map fun k =>
      (c.party.vreg (d.toNat + k / 4) l).extractLsb' (8 * (k % 4)) 8
    let free := fun (ts : List (Nat × Target)) => s.storeWaits ts = false ∧ s.spillStalls c.task ts = false ∧
      (s.satchelNeed c.task ts = 0 ∨ s.satchelUsed c.task.die c.task.core + s.satchelNeed c.task ts ≤ 64)
    let todo := fun (w : BitVec 3) (ea : Nat → Nat) => (lanesOf c.party.exm).map fun l => (tgt l, l, ea l, bytes w l)
    let stores := fun (j : Instr) (l : List (Target × Nat × Nat × List Byte)) =>
      (∀ u, State.storeLanes c.tid c.pi l s = (u, []) →
        exec j s = .next (u.modParty c.tid c.pi fun p => { (p.advance 1) with storing := [] })) ∧
      (∀ u r, r ≠ [] → State.storeLanes c.tid c.pi l s = (u, r) →
        exec j s = .next (u.modParty c.tid c.pi fun p => { p with storing := r })) ∧
      ((∀ x ∈ l, ∀ va fpa lf, x.1 = .mem va fpa lf → lf.contrib = false) → State.storeLanes c.tid c.pi l s
        = (l.foldl (fun s x => s.storeTarget c.tid c.pi x.1 x.2.2.2) s, []))
    (c.party.storing = [] → c.VWidthOk w d.toNat → c.VPairOk a.toNat → c.OffOk b →
      let ea := fun l => ea64 (c.party.vpair a.toNat l) off
      s.Reaches c .write (size w) ea tgt → free (c.targets tgt) → stores (.st d a b w) (todo w ea)) ∧
    (c.party.storing = [] → c.VOk d.toNat → c.VPairOk a.toNat →
      let ea := fun l => ea64 (c.party.vpair a.toNat l) (4 * i.toInt)
      s.Reaches c .write 4 ea tgt → free (c.targets tgt) → stores (.sti d a i) (todo 4 ea)) ∧
    (∀ l, c.party.storing = l → l ≠ [] →
      (∀ x ∈ l, s.checkLane (c.env s) c.party .write x.2.2.length x.1 x.2.1 = .ok (.ok (tgt x.1))) →
      free (l.map fun x => (x.1, tgt x.1)) →
      stores (.st d a b w) (l.map fun x => (tgt x.1, x)) ∧ stores (.sti d a i) (l.map fun x => (tgt x.1, x))) ∧
    (c.party.storing = [] → c.VWidthOk w d.toNat → c.VOk a.toNat → c.UOk b.toNat →
      let o := fun l => (c.party.vreg a.toNat l + c.party.ureg b.toNat).toNat
      (∀ l, l < 32 → c.party.exm.getLsbD l = true → o l % size w = 0 ∧ o l + size w ≤ c.task.desc.scratch) →
      exec (.sts d a b w) s = .next (((lanesOf c.party.exm).foldl
        (fun s l => s.storeTarget c.tid c.pi (.scratch c.tid (o l)) (bytes w l)) s).modParty c.tid c.pi
        fun p => { (p.advance 1) with storing := [] }))

/-- Where a lane's store goes (R165 to R169, R277, R334): to the troupe's scratch; to a failed die's home not at all, with a
record; for a DET task into its store set alone; to L1, where it is dirty, for a CACHED page; into the Satchel for a WCOMB page
or one off the package; else to its home, and the party's next access comes after it. Of memory only the bytes stored at a home
change, and none does before. -/
def Obligations.StoredBytesGoByPage : Prop :=
  ∀ (s : State) (tid pi va fpa o : Nat) (t : Task) (l : Leaf) (bs : List Byte) (a : Nat),
    s.task? tid = some t → s.MemOk → l.contrib = false → fpa % 64 + bs.length ≤ 64 → bs ≠ [] →
    let soft := l.typ = .normal ∨ l.typ = .wcomb
    let r := s.storeTarget tid pi (.mem va fpa l) bs
    let here := s.homeFailed fpa = false ∧ isRemote fpa = false
    (o / 64 ∉ t.scratchBad → ∃ u x, s.storeTarget tid pi (.scratch tid o) bs = u ∧ u.mem = s.mem ∧ u.task? tid = some x ∧
      (∀ i, i < bs.length → Cells.get x.scratch (o + i) = bs.getD i 0) ∧
      ∀ i, i < o ∨ o + bs.length ≤ i → Cells.get x.scratch i = Cells.get t.scratch i) ∧
    (s.homeFailed fpa = true → r = s.postPoison t.die va 4 t.ctx) ∧
    (s.homeFailed fpa = false → t.det = true → soft → ∃ x, r.task? tid = some x ∧ r.mem = s.mem ∧ r.cores = s.cores ∧
      x.storeSet = ByteMap.putBytes t.storeSet (l.byteOf va) bs) ∧
    (t.det = false → here → l.typ = .normal → l.home = .cached → r.mem = s.mem ∧
      ∀ i, i < bs.length → AMap.get? (r.core t.die t.core).dirty (fpa + i) = bs[i]?) ∧
    (t.det = false → s.homeFailed fpa = false → soft → (isRemote fpa = true ∨ l.typ = .wcomb) →
      (∀ x ∈ (s.core t.die t.core).satchel, x.line = fpa / 64 → (ByteMap.putBytes (storesBytes x.stores) fpa bs).length < 64) →
      bs.length < 64 →
      r.mem = s.mem ∧ ∃ x ∈ (r.core t.die t.core).satchel, x.line = fpa / 64 ∧ (tid, pi) ∈ x.parties ∧
        ∀ i, i < bs.length → AMap.get? (storesBytes x.stores) (fpa + i) = bs[i]?) ∧
    ((t.det = false ∨ ¬soft) → here → l.typ ≠ .wcomb → (l.typ = .normal → l.home ≠ .cached) → fpa / 64 ∉ s.badCheck →
      (∀ i, i < bs.length → r.mem.read (fpa + i) = bs.getD i 0) ∧ (a < fpa ∨ fpa + bs.length ≤ a → r.mem.read a = s.mem.read a) ∧
      ((s.party? tid pi).isSome → inRanges (r.seenOf tid pi).ids s.writes = true))

/-- The frame of a store to pages that no cache holds: for every address outside the stored bytes of the active lanes, memory
reads as before, and no register, predicate or flag of the party changes (R59, R163). -/
def Obligations.PlainStoreFrame : Prop :=
  ∀ (s t : State) (c : Exec) (d a b : BitVec 7) (w : BitVec 3) (tgt : Nat → Target), s.current = some c → s.MemOk →
    (w = 0#3 ∨ w = 2#3 ∨ w = 4#3 ∨ w = 5#3 ∨ w = 6#3) → c.VWidthOk w d.toNat → c.VPairOk a.toNat → c.OffOk b →
    s.Reaches c .write (widthSize w) (fun l => ea64 (c.party.vpair a.toNat l) (c.party.offB b (widthSize w))) tgt →
    (∀ l, l < 32 → c.party.exm.getLsbD l = true → s.PlainTarget c (tgt l) ∧ (tgt l).fpa % 64 + widthSize w ≤ 64) →
    s.storeWaits (c.targets tgt) = false → c.party.storing = [] → exec (.st d a b w) s = .next t →
    (∀ x, (∀ l, l < 32 → c.party.exm.getLsbD l = true → x < (tgt l).fpa ∨ (tgt l).fpa + widthSize w ≤ x) →
      t.mem.read x = s.mem.read x) ∧
    ∃ q, t.party? c.tid c.pi = some q ∧ q = { c.party with stack := q.stack, seen := q.seen } ∧ q.stack = (c.party.advance 1).stack

/-- QST quantises each active lane at its coordinates under the view's key and stores the codes, E4M3 and E5M2 one byte a lane,
E2M1X sixteen bytes and the block's metadata; DQLD loads codes and leaves the decoded values pending (R148, R149, R155, R156). -/
def Obligations.QuantisedStoreAndLoadComplete : Prop :=
  ∀ (s u : State) (c : Exec) (d a b : BitVec 7) (f : BitVec 3) (x : BitVec 1) (tgt mt : Nat → Target) (ct m2 : Target),
    s.current = some c → c.VOk d.toNat → c.UBlockOk a.toNat 8 → c.PosOk b.toNat → f.toNat ≤ 2 →
    let v := viewOf (c.party.ublock a.toNat 8)
    let row := (c.party.ureg b.toNat).toNat
    let col := (c.party.ureg (b.toNat + 1)).toNat
    let place := fun l => v.storage row ((col + l) % 2 ^ 32)
    let code := fun l => c.party.qstCode v f.toNat b.toNat d.toNat l
    let nib := fun l => (code l).1 % 16
    let nth := fun l => (lanesOf c.party.exm).findIdx (· == l)
    let stores := fun (ts : List (Target × Nat × Nat × List Byte)) =>
      c.party.storing = [] → State.storeLanes c.tid c.pi ts s = (u, []) →
      exec (.qst d a b f) s = .next (u.modParty c.tid c.pi fun p =>
        { ((p.raise (orFlags c.party.exm fun l => (code l).2)).advance 1) with storing := [] })
    let free := fun (ts : List (Nat × Target)) => s.storeWaits ts = false ∧ s.spillStalls c.task ts = false ∧
      (s.satchelNeed c.task ts = 0 ∨ s.satchelUsed c.task.die c.task.core + s.satchelNeed c.task ts ≤ 64)
    v.reserved = true →
    (f ≠ 2#3 → s.Reaches c .write 1 (fun l => v.codeAddr f.toNat (place l)) tgt → free (c.targets tgt) →
      stores ((lanesOf c.party.exm).map fun l => (tgt l, l, v.codeAddr f.toNat (place l), [BitVec.ofNat 8 (code l).1]))) ∧
    (f = 2#3 → v.trans = false → v.pitch % 16 = 0 → v.sbase.toNat % 2 = 0 → col % 32 = 0 →
      s.checkLane (c.env s) c.party .write 16 c.party.lowLane (v.codeAddr 2 (row, col)) = .ok (.ok ct) →
      s.checkLane (c.env s) c.party .write 2 c.party.lowLane (v.metaAddr (row, col)) = .ok (.ok m2) →
      free [(c.party.lowLane, ct), (c.party.lowLane, m2)] →
      stores [(ct, c.party.lowLane, v.codeAddr 2 (row, col),
          (List.range 16).map fun i => BitVec.ofNat 8 (nib (2 * i) + 16 * nib (2 * i + 1))),
         (m2, c.party.lowLane, v.metaAddr (row, col), leBytes 2 (c.party.ureg (b.toNat + 2)).toNat)]) ∧
    (f = 2#3 → v.trans = true → exec (.qst d a b f) s = s.trapped c (Trap.ill 3)) ∧
    (f ≠ 2#3 → c.CanPend x → s.Reaches c .read 1 (fun l => v.codeAddr f.toNat (place l)) tgt →
      s.Readable c .read (c.targets tgt) → exec (.dqld d a b x f) s = s.pended c x
        (c.party.floatResult d.toNat fun l => decodeF32 (decodeCode f.toNat
          (natOfBytes (s.targetBytes c.task c.party.seen (tgt l) 1 (nth l))) (v.coords (place l)).1 (v.coords (place l)).2
          (v.key c.party.top.fmt) { scale := 0, x := 0 }))) ∧
    (f = 2#3 → c.CanPend x → v.aligned 2 = true → s.Reaches c .read 1 (fun l => v.codeAddr 2 (place l)) tgt →
      s.Reaches c .read 2 (fun l => v.metaAddr (place l)) mt →
      s.Readable c .read ((lanesOf c.party.exm).flatMap fun l => [(l, tgt l), (l, mt l)]) → exec (.dqld d a b x f) s = s.pended c x
        (c.party.floatResult d.toNat fun l =>
          let q := natOfBytes (s.targetBytes c.task c.party.seen (tgt l) 1 (2 * nth l))
          let m := natOfBytes (s.targetBytes c.task c.party.seen (mt l) 2 (2 * nth l + 1))
          decodeF32 (decodeCode 2 (if (place l).2 % 2 = 0 then q % 16 else q / 16) (v.coords (place l)).1
            (v.coords (place l)).2 (v.key c.party.top.fmt) { scale := m % 256, x := m / 256 })))

/-- The rows of R171, and the order of R172: the lanes of one address act one after another from the lowest, each reading what the
one before left, but FADD's lanes, which are summed first in lane order and added once: each returns the value found with the sum of
the lanes below it. -/
def Obligations.AtomicLanesActInOrder : Prop :=
  ∀ (m : Nat) (x y : DWord) (l : List (List DWord)), m < 2 ^ 64 →
    let b := BitVec.ofNat 32 x.toNat
    let w := BitVec.ofNat 32 m
    (∀ o, o ≠ 9 → (atomStep o m []).2 = m ∧ (atomStep o m ([x] :: l)).1 = m :: (atomStep o (atomValue o m [x]) l).1 ∧
      (atomStep o m ([x] :: l)).2 = (atomStep o (atomValue o m [x]) l).2) ∧
    (m < 2 ^ 32 → x.toNat < 2 ^ 32 →
      atomValue 0 m [x] = (w + b).toNat ∧ atomValue 1 m [x] = (if w.sle b then m else x.toNat) ∧
      atomValue 2 m [x] = (if b.sle w then m else x.toNat) ∧ atomValue 3 m [x] = min m x.toNat ∧
      atomValue 4 m [x] = max m x.toNat ∧ atomValue 5 m [x] = (w &&& b).toNat ∧ atomValue 6 m [x] = (w ||| b).toNat ∧
      atomValue 7 m [x] = (w ^^^ b).toNat ∧ atomValue 8 m [x] = x.toNat ∧ atomValue 9 m [x] = (fp32.add 0 m x.toNat).1 ∧
      atomValue 10 m [x] = (fp32.minMax true true m x.toNat).1 ∧
      atomValue 11 m [x, y] = if m = x.toNat then y.toNat else m) ∧
    atomValue 12 m [x] = (BitVec.ofNat 64 m + x).toNat ∧ atomValue 13 m [x] = x.toNat ∧
    ∀ ys : List DWord,
      let sum := fun (k : Nat) => (ys.take k).foldl (fun n z => (fp32.add 0 n z.toNat).1) x.toNat
      atomStep 9 m ([x] :: ys.map fun z => [z])
        = (m :: (List.range ys.length).map fun k => (fp32.add 0 m (sum k)).1, (fp32.add 0 m (sum ys.length)).1)

/-- ATOM and ARED whose lanes pass their checks (R162, R171 to R174): the groups of equal addresses act in the order of their lowest
lanes, and the party goes on; ATOM's old values are pending (for a step that leaves the package, until its answer has come), ARED
returns none. Where every lane has one address on this package, its home holds the result of the lanes in order, performed at
once. -/
def Obligations.AtomicsComplete : Prop :=
  ∀ (s : State) (c : Exec) (d a : BitVec 7) (f : BitVec 1) (b6 : BitVec 6) (b : BitVec 7) (o : BitVec 4) (tgt : Nat → Target),
    s.current = some c → o.toNat ≤ 13 → c.VPairOk a.toNat →
    let n := if 12 ≤ o.toNat then 8 else 4
    let pairIf := fun (big : Bool) (r : Nat) => if big then c.VPairOk r else c.VOk r
    let gs := fun (r : Nat) => atomGroups (c.targets tgt) (c.party.atomArgs o.toNat r)
    let ready := s.Reaches c .atomic n (fun l => (c.party.vpair a.toNat l).toNat) tgt ∧ s.storeWaits (c.targets tgt) = false ∧
      s.bufferStalls c.task (c.targets tgt) = false
    let s0 := { s with nextId := s.nextId + 1 }
    let r := s0.atomAll c.tid c.pi o.toNat (some s.nextId) (gs b6.toNat)
    let r2 := s.atomAll c.tid c.pi o.toNat none (gs b.toNat)
    let counted := fun (s : State) => s.modTask c.tid fun t => { t with atomSeq := t.atomSeq + 1 }
    (c.CanPend f → pairIf (11 ≤ o.toNat) b6.toNat → pairIf (12 ≤ o.toNat) d.toNat → ready →
      s.intOf c.task.die .atomic (c.targets tgt) = .ok () →
      exec (.atom d a f b6 o) s = .next ((counted r.2.2).modParty c.tid c.pi fun p =>
        (p.addPending ((p.atomResult o.toNat d.toNat r.1 r.2.1).pending s.nextId (p.coverFlag f))).advance 1)) ∧
    (pairIf (11 ≤ o.toNat) b.toNat → ready → exec (.ared a b o) s = .next ((counted r2.2.2).retire c 1)) ∧
    (∀ va fpa l, c.party.exm ≠ 0#32 → (∀ k, tgt k = .mem va fpa l) → c.task.det = false → isRemote fpa = false →
      s.homeFailed fpa = false → lineOf fpa ∉ s.badCheck → fpa % 64 + n ≤ 64 → s.MemOk →
      let m := (s.settleLine c.task.die c.task.core fpa).mem.readNat fpa n
      let st := atomStep o.toNat m ((lanesOf c.party.exm).map (c.party.atomArgs o.toNat b.toNat))
      r2.2.2.mem.readNat fpa n = st.2 % 256 ^ n ∧ r2.2.1 = [] ∧
      r2.1 = ((lanesOf c.party.exm).zip st.1).map fun x => (x.1, BitVec.ofNat 64 x.2))

/-- CWB writes the issuing core's dirty bytes of the range, and its Satchel lines there, to their homes, where memory then reads them,
and keeps its copies; CINV.W drops its copies as well; either goes on once nothing of the range is left to write, whoever reads at the
homes from then on finding it, and issues again until then. CINV.D discards the dirty bytes, of which any may have been evicted home
before, so that each byte has its home's value or the last one written, and counts in D the lines it has discarded (R178, R179). Every
other byte of memory reads as before. The range's pages are translated. -/
def Claim.CacheRangeWordsComplete : Prop :=
  ∀ (s : State) (c : Exec) (d a b : BitVec 7) (looks : List RangeLook), s.current = some c → c.UPairOk a.toNat → c.UOk b.toNat →
    let base := (c.party.upair a.toNat).toNat
    let len := (c.party.ureg b.toNat).toNat
    let lo := base / 64 * 64
    let hi := if len = 0 then lo else (base + len + 63) / 64 * 64
    let spans := looks.filterMap fun x => match x with | .span y => some y | _ => none
    let here := fun (acc : Access) => (pieces lo hi).map (fun x => s.rangePage (c.env s) c.party acc x.1 x.2) = looks.map .ok ∧
      ∀ va, .miss va ∉ looks
    let core := s.core c.task.die c.task.core
    let core' := fun (t : State) => t.core c.task.die c.task.core
    let s1 := s.cleanSpans c spans
    let dirty := core.stores.filter fun x => inSpans spans x.fpa
    let lines := core.satchel.filter fun x => lineIn spans x.line
    let kept := fun (t : State) => (core' t).stores = core.stores.filter fun x => !inSpans spans x.fpa
    let dropped := fun (t : State) => ∀ y ∈ spans, y.leaf.cacheable = true → ∀ ln, y.lo / 64 ≤ ln → ln < y.hi / 64 →
      s.ticks ≤ (core' t).floorOf ln
    let found := fun (t : State) => ∀ y ∈ spans, ∀ ln, y.lo / 64 ≤ ln → ln < y.hi / 64 → s.ticks ≤ t.homeFloor ln
    let noticed := ∀ k, (s.die k).failed = true → (s.die k).detected = true
    let still := (∀ f ∈ s.flits, lineIn spans (lineOf f.2.fpa) = false) ∧
      ∀ x ∈ lines, isRemote (x.line * 64) = false ∧ s.twinPending (x.line * 64) = false
    let well := s.MemOk ∧ s.badCheck = [] ∧ ∀ k, (s.die k).failed = false
    let home := fun (t : State) => well → ∀ x, t.mem.read x = match storesByte (lines.flatMap (·.stores)) x with
      | some v => v
      | none => (storesByte dirty x).getD (s.mem.read x)
    (here .read → noticed → still →
      (∃ t, exec (.cwb a b) s = .next t ∧ t = (s1.raiseHome (spanRanges spans)).retire c 1 ∧ kept t ∧ found t ∧ home t ∧
        ∀ x ∈ (core' t).satchel, lineIn spans x.line = false) ∧
      ∃ t, exec (.cinvW a b) s = .next t ∧ kept t ∧ dropped t ∧ found t ∧ home t ∧
        t = ((s1.invalidate c.task.die c.task.core (copiedRanges spans)).raiseHome (spanRanges spans)).retire c 1) ∧
    (here .read → s1.spansHome c spans = false → exec (.cwb a b) s = .next s1 ∧
      exec (.cinvW a b) s = .next (s1.invalidate c.task.die c.task.core (copiedRanges spans))) ∧
    (c.UOk d.toNat → c.task.det = false → base % 64 = 0 → len % 64 = 0 → here .write →
      (∀ y ∈ spans, y.leaf.soft = true ∧ y.leaf.w = true) →
      let count := fun (l : AMap Byte) => (l.map fun e => lineOf e.1).eraseDups.length
      ∃ t n, exec (.cinvD d a b) s = .next t ∧ t.party? c.tid c.pi = some ((c.party.setU d.toNat n).advance 1) ∧
        n.toNat ≤ count (storesBytes dirty) ∧ kept t ∧ dropped t ∧
        (well → (∀ x, t.mem.read x = s.mem.read x ∨ some (t.mem.read x) = storesByte dirty x) ∧
          min (count ((storesBytes dirty).filter fun e => t.mem.read e.1 != e.2)) 0xFFFFFFFF ≤ n.toNat))

/-- PREF is a hint: it faults on nothing but its register names and changes no value (R180). CPROBE leaves the two words of its
answer pending, for the page that serves the reader, with 15 in both hop fields where the fabric gives no path, or for the die
on which a troupe's scratch lies (R181); while a wrap is under way it waits for it (log 104). -/
def Claim.HintsAndProbeComplete : Prop :=
  ∀ (s : State) (c : Exec) (d a : BitVec 7) (f : BitVec 1) (va fpa k o : Nat) (l : Leaf) (x : Task), s.current = some c →
    let probe := fun (low high : Word) =>
      s.pended c f (VResult.loads [] [c.party.uwrite d.toNat low, c.party.uwrite (d.toNat + 1) high])
    let word := fun (kind hdie : Nat) (hops : Nat × Nat) => BitVec.ofNat 32 (hops.1 + 16 * hops.2 + 2 ^ 12 * kind + 2 ^ 15 * hdie
      + 2 ^ 18 * l.home.code + 2 ^ 20 * l.typ.code + 2 ^ 22 * b2n l.shadow + 2 ^ 23 * b2n s.wrapped)
    let here := c.task.die
    let peer := fpaPkg fpa
    let node := fpaNode fpa
    let gives := fun (low high : Word) => exec (.cprobe d a f) s = probe low high
    (c.VPairOk a.toNat → exec (.pref a f) s = s.passed c 1 c.party) ∧
    (s.wrapNext ≠ none → exec (.cprobe d a f) s = .next s) ∧
    (s.wrapNext = none → c.CanPend f → c.UPairOk d.toNat → c.UPairOk a.toNat →
      (s.placeLane (c.env s) c.party.lowLane (c.party.upair a.toNat).toNat = .ok (.scratch k o) → s.task? k = some x →
        gives (BitVec.ofNat 32 ((s.hops here x.die).1 + 16 * (s.hops here x.die).2 + 2 ^ 12 * 4 + 2 ^ 15 * x.die
          + 2 ^ 23 * b2n s.wrapped)) 0) ∧
      (s.placeLane (c.env s) c.party.lowLane (c.party.upair a.toNat).toNat = .ok (.va va) →
        s.lookWord c.party.cancelled here c.task.core c.task.ctx va = .hit l fpa →
        (fpaClass fpa = 0 → gives (word (if fpaDie fpa = here then 0 else 1) (fpaDie fpa) (s.hops here (fpaDie fpa))) 0) ∧
        (fpaClass fpa = 1 → ∀ e, s.exitDie here peer = some e → gives (word 2 e (s.hops here e)) (BitVec.ofNat 32 peer)) ∧
        (fpaClass fpa = 1 → s.exitDie here peer = none → gives (word 2 here (15, 15)) (BitVec.ofNat 32 peer)) ∧
        (fpaClass fpa = 2 → s.nodeUp node = true → gives (word 3 (node / 4) (s.hops here (node / 4))) (BitVec.ofNat 32 node)) ∧
        (fpaClass fpa = 2 → s.nodeUp node = false → gives (word 3 (node / 4) (15, 15)) (BitVec.ofNat 32 node)) ∧
        (fpaClass fpa = 3 → bits fpa 50 4 ≤ 1 → gives (word 4 (fpaDie fpa) (s.hops here (fpaDie fpa))) 0) ∧
        (fpaClass fpa = 3 → bits fpa 50 4 = 2 → gives (word 5 here (0, 0)) 0)))

/-- The cache words, the hint and the probe (R178 to R181). -/
def Obligations.CacheWordsComplete : Prop := Claim.CacheRangeWordsComplete ∧ Claim.HintsAndProbeComplete

/-! ## Control, traps and marks (spec/03, spec/05) -/

/-- CLH (R47, R48, R51): while a flag it waits for has a count it does nothing; else the clause is read, and one that breaks no row
of R51's table begins: the PC stands at its first word, inside the clause with the header's flags. A clause that breaks a row
raises CLS of the first such row at the header, and none of its words runs. -/
def Claim.ClauseBegins : Prop :=
  ∀ (s : State) (c : Exec) (e : Entry) (r : List Entry) (w : BitVec 12) (a b l : BitVec 4) (y : BitVec 1) (ws : List Word),
    s.current = some c → c.party.stack = e :: r →
    let k : Clause := { header := e.pc, seta := a.toNat, setb := b.toNat, words := ws }
    ((∃ i, i < 12 ∧ w.getLsbD i = true ∧ c.party.cfCount i ≠ 0) → exec (.clh w a b l y) s = .next s) ∧
    ((∀ i, i < 12 → w.getLsbD i = true → c.party.cfCount i = 0) → s.codeWords c (e.pc.toNat + 4) (l.toNat + 1) = .words ws →
      (clauseRow a.toNat b.toNat ws = none → exec (.clh w a b l y) s = s.became c { c.party with
        stack := { e with pc := e.pc + 4, go := false, tried := false, told := false, clause := some k } :: r }) ∧
      (∀ k, clauseRow a.toNat b.toNat ws = some k → exec (.clh w a b l y) s = s.trapped c (Trap.cls k e.pc)))

/-- Clauses: header position, and what CLH does (R44, R47, R48, R51). -/
def Obligations.ClausesBeginAtHeaders : Prop := Claim.HeaderPositionIssuesHeader ∧ Claim.ClauseBegins

/-- What becomes of a transfer by the word at its target (R51): a header lets it go, any other word raises CLS of row 0 there, the
all-zero word ZWF, before any effect; a target whose page is not translated yet is waited for, and one that cannot be read is left
to the start of its clause (log 14). -/
def Claim.GoesTo (s : State) (c : Exec) (i : Instr) (x : DWord) (p : Party) : Prop :=
  (∀ h, s.codeWord c x.toNat = .words [h] →
    (h.toNat / 2 ^ 25 = 1 → exec i s = s.became c p) ∧
    (h = 0#32 → exec i s = s.trapped c { Trap.zwf with addr := some x }) ∧
    (h ≠ 0#32 → h.toNat / 2 ^ 25 ≠ 1 → exec i s = s.trapped c (Trap.cls 0 x))) ∧
  (∀ tr, s.codeWord c x.toNat = .bad tr → exec i s = s.became c p) ∧
  (∀ va, s.codeWord c x.toNat = .wait va → exec i s = .next (s.waitWalks c.tid c.pi c.task.die c.task.ctx 3 [va]))

/-- BRA decides once for the party: by its uniform predicate, or by a vector predicate on which the active lanes agree; where
they differ it raises UBD. JMPI, CALL and RET go to their targets, CALL leaving its return address; a target's low bits raise
CLS, a non-canonical one PGF, and one that is no header CLS (R46, R51, R88, R91). No register but the PC changes, and CALL's
`lnk`. -/
def Obligations.TransfersComplete : Prop :=
  ∀ (s : State) (c : Exec) (n : BitVec 1) (k : BitVec 4) (j : BitVec 3) (o : BitVec 20) (a : BitVec 7), s.current = some c →
    let p := c.party
    let w := p.top.pc
    let dest := w + (o.signExtend 64) * 4#64
    let ft := w + BitVec.ofNat 64 (4 * (match p.top.clause with | some q => q.words.length | none => 1))
    let holds := fun l => (p.pred k.toNat).getLsbD l != (n == 1#1)
    let q := fun (i : Nat) => (p.upred i) != (n == 1#1)
    let lane := fun l => l < 32 ∧ p.exm.getLsbD l = true
    let falls := fun (i : Instr) => exec i s = s.became c (p.jump ft)
    let checked := fun (i : Instr) (x : DWord) (p' : Party) =>
      (x.toNat % 4 = 0 → canonical x.toNat = true → Claim.GoesTo s c i x p') ∧
      (x.toNat % 4 ≠ 0 → exec i s = s.trapped c (Trap.cls 1 w)) ∧
      (x.toNat % 4 = 0 → canonical x.toNat = false → exec i s = s.trapped c (BadPage.noncanon.trap 0 .fetch))
    (8 ≤ k.toNat → (q (k.toNat - 8) = true → Claim.GoesTo s c (.bra n k o) dest (p.jump dest)) ∧
      (q (k.toNat - 8) = false → falls (.bra n k o))) ∧
    (k.toNat < 8 → (∃ l, lane l) → (∀ l, lane l → holds l = true) → Claim.GoesTo s c (.bra n k o) dest (p.jump dest)) ∧
    (k.toNat < 8 → (∃ l, lane l) → (∀ l, lane l → holds l = false) → falls (.bra n k o)) ∧
    (k.toNat < 8 → (∃ l, lane l ∧ holds l = true) → (∃ l, lane l ∧ holds l = false) →
      exec (.bra n k o) s = s.trapped c (Trap.ubd k.toNat n.toNat)) ∧
    (q j.toNat = true → checked (.call n j o) dest ({ p with lnk := w + 4 }.jump dest)) ∧
    (q j.toNat = false → falls (.call n j o)) ∧
    (c.UPairOk a.toNat → checked (.jmpi a) (p.upair a.toNat) (p.jump (p.upair a.toNat))) ∧ checked .ret p.lnk (p.jump p.lnk)

/-- BRD and JTAB (R51, R87, R89, R90): lanes that agree jump as one; else, once the word at the join is seen to be a header, the
current entry becomes the join's and each path is pushed with its lanes, the lowest address on top. JTAB's table entries lie at
its pair, 8 bytes each; an index past the table and an entry that is no word address raise JTX. -/
def Obligations.DivergentBranchesComplete : Prop :=
  ∀ (s : State) (c : Exec) (e : Entry) (r : List Entry) (n : BitVec 1) (k : BitVec 4) (o : BitVec 20) (t : Word)
    (a b : BitVec 7) (tgt : Nat → Target), s.current = some c → c.party.stack = e :: r → k.toNat < 8 →
    let yes := e.mask &&& (if n = 1#1 then ~~~(c.party.pred k.toNat) else c.party.pred k.toNat)
    let no := e.mask &&& ~~~yes
    let dest := e.pc + (o.signExtend 64) * 4#64
    let ft := e.pc + BitVec.ofNat 64 (4 * (match e.clause with | some q => q.words.length | none => 1))
    let join := e.pc + ((t.setWidth 20).signExtend 64) * 4#64
    let path := fun (pc : DWord) (m : BitVec 32) =>
      ({ pc := pc, mask := m, rpc := some join, fmt := e.fmt, clause := none, stopped := none, go := false, tried := false
         told := false } : Entry)
    let base := e.jump join
    let jumps := fun (z : DWord) => { c.party with stack := e.jump z :: r }
    let header := fun (x : DWord) => ∃ h, s.codeWord c x.toNat = .words [h] ∧ h.toNat / 2 ^ 25 = 1
    (no = 0#32 → Claim.GoesTo s c (.brd n k o t) dest (jumps dest)) ∧
    (no ≠ 0#32 → (yes = 0#32 ∨ dest = ft) → exec (.brd n k o t) s = s.became c (jumps ft)) ∧
    (no ≠ 0#32 → yes ≠ 0#32 → header dest →
      (dest.toNat < ft.toNat → Claim.GoesTo s c (.brd n k o t) join
        { c.party with stack := path dest yes :: path ft no :: base :: r }) ∧
      (ft.toNat < dest.toNat → Claim.GoesTo s c (.brd n k o t) join
        { c.party with stack := path ft no :: path dest yes :: base :: r })) ∧
    (no ≠ 0#32 → yes ≠ 0#32 → dest ≠ ft → ∀ h, s.codeWord c dest.toNat = .words [h] → h ≠ 0#32 → h.toNat / 2 ^ 25 ≠ 1 →
      exec (.brd n k o t) s = s.trapped c (Trap.cls 0 dest)) ∧
    (c.VOk a.toNat → c.UPairOk b.toNat →
      let table := c.party.upair b.toNat
      let lane := fun l => l < 32 ∧ e.mask.getLsbD l = true
      let index := fun l => (c.party.vreg a.toNat l).toNat
      let size := t.toNat / 2 ^ 20 + 1
      let to_ := fun l => BitVec.ofNat 64 (natOfBytes (s.targetBytes c.task c.party.seen (tgt l) 8 l))
      (table.toNat % 8 ≠ 0 → exec (.jtab a b t) s = s.trapped c (Trap.aln c.party.lowLane .read)) ∧
      (table.toNat % 8 = 0 → ∀ l, lane l → size ≤ index l → (∀ m, m < l → lane m → index m < size) →
        exec (.jtab a b t) s = s.trapped c (Trap.jtx l)) ∧
      (table.toNat % 8 = 0 → (∃ l, lane l) → (∀ l, lane l → index l < size) →
        s.Reaches c .read 8 (fun l => ea64 table (8 * index l)) tgt → s.Readable c .read (c.targets tgt) →
        (∀ l, lane l → (to_ l).toNat % 4 ≠ 0 → (∀ m, m < l → lane m → (to_ m).toNat % 4 = 0) →
          exec (.jtab a b t) s = s.trapped c (Trap.jtx (l + 32))) ∧
        ((∀ l, lane l → (to_ l).toNat % 4 = 0) →
          (∀ x, (∀ l, lane l → to_ l = x) → exec (.jtab a b t) s = s.became c (c.party.jump x)) ∧
          ((∃ l m, lane l ∧ lane m ∧ to_ l ≠ to_ m) → ∃ st : List Entry,
            Claim.GoesTo s c (.jtab a b t) join { c.party with stack := st ++ base :: r } ∧
            st.Pairwise (fun x y => x.pc.toNat < y.pc.toNat) ∧ (∀ x ∈ st, x = path x.pc x.mask ∧ ∃ l, lane l ∧ x.pc = to_ l) ∧
            ∀ l, lane l → ∃ x ∈ st, x.pc = to_ l ∧ ∀ m, m < 32 → (x.mask.getLsbD m = true ↔ lane m ∧ to_ m = to_ l)))))

/-- EXIT takes the active lanes out of every path and no other lane out of any, and of the entries only those go from the top that are
empty then or have reached their reconvergence address; the party ends, and leaves its gang, when no lane is left; YIELD ends the clause and is a hold-off
alone, which passes; WBASE sets a window base that R57 admits, absolute or relative, and raises RBX for any other
(R57, R92 to R94). -/
def Obligations.ExitYieldWindowsComplete : Prop :=
  ∀ (s : State) (c : Exec) (m r : BitVec 1) (i : BitVec 11) (t k : Nat) (p : Party), s.current = some c →
    let q := c.party
    let ft := q.top.pc + BitVec.ofNat 64 (4 * (match q.top.clause with | some x => x.words.length | none => 1))
    let old := if r = 1#1 then q.swb else q.vwb
    let new := (if m = 1#1 then old else 0#32) + i.signExtend 32 * 16#32
    let lim := if r = 1#1 then c.task.desc.uregs else c.task.desc.vregs
    (∃ x, exec .exit s = s.became c x ∧ (∀ e ∈ x.stack, e.mask &&& q.exm = 0#32) ∧
      (x.ended = true ↔ ∀ e ∈ q.stack, e.mask &&& ~~~q.exm = 0#32) ∧ x.gang = (if x.ended = true then 0 else q.gang) ∧
      x = { q with stack := x.stack, ended := x.ended, gang := x.gang } ∧ (q.stack ≠ [] → x.stack ≠ []) ∧
      ∃ k, x.stack = (q.stack.map fun e => { e with mask := e.mask &&& ~~~q.exm }).drop k ∧
        ∀ e ∈ q.stack.take k, e.mask &&& ~~~q.exm = 0#32 ∨ (e.clause = none ∧ e.rpc = some e.pc)) ∧
    exec .yield s = s.became c { q.jump ft with hold := .yield } ∧
    (s.party? t k = some p → p.hold = .yield →
      exec (.yieldHoldoffExpire t k) s = .next (s.putParty t k { p with hold := .free })) ∧
    (new.toNat % 16 = 0 → new.toNat < lim →
      exec (.wbase m r i) s = s.passed c 1 (if r = 1#1 then { q with swb := new } else { q with vwb := new })) ∧
    (new.toNat % 16 ≠ 0 ∨ lim ≤ new.toNat → exec (.wbase m r i) s = s.trapped c (Trap.rbx new.toNat 2))

/-- TRAPI (R95): CAUSE 0x21 with IMM unsigned in INFO, and `xpc` the next word of the clause, or after its last word the next
header; with MASK set the task fails instead. -/
def Claim.TrapiRaisesItsTrap : Prop :=
  ∀ (s : State) (c : Exec) (e : Entry) (r : List Entry) (i : BitVec 11), s.current = some c → c.party.stack = e :: r →
    let s1 := s.putParty c.tid c.pi { c.party with stack := e.advance 1 :: r }
    (c.party.masked = false → c.task.desc.trap ≠ 0#64 → ∃ q, exec (.trapi i) s = s.became c q ∧
      q.tcause = BitVec.ofNat 32 (0x21 * 2 ^ 24 + i.toNat) ∧ q.xpc = e.pc + 4 ∧ q.masked = true ∧ q.top.pc = c.task.desc.trap ∧
      q.top.clause = none ∧ ∃ ts, q.ts = some ts ∧ ts.addr = e.pc + 4 ∧
        ts.clause = e.clause.bind fun k => if k.words.length ≤ 1 then none else some { k with words := k.words.drop 1 }) ∧
    (c.party.masked = true ∨ c.task.desc.trap = 0#64 →
      exec (.trapi i) s = .next (s1.failTask c.tid 0x21 i.toNat (e.pc + 4) c.party.masked))

/-- TFENCE (R96): it waits for the party's class V floating-point words; then a raised flag that tmask enables, with MASK clear,
takes the trap 0x20 past the word with the flags in INFO; otherwise it only passes. It clears no flag. -/
def Claim.TfenceTakesEnabledFlags : Prop :=
  ∀ (s : State) (c : Exec) (e : Entry) (r : List Entry), s.current = some c → c.party.stack = e :: r →
    let en := c.party.aflags &&& c.party.tmask.setWidth 5
    ((∃ x ∈ c.party.pend, x.floating = true) → exec .tfence s = .next s) ∧
    ((∀ x ∈ c.party.pend, x.floating = false) → (en = 0#5 ∨ c.party.masked = true) → exec .tfence s = s.passed c 1 c.party) ∧
    ((∀ x ∈ c.party.pend, x.floating = false) → en ≠ 0#5 → c.party.masked = false → c.task.desc.trap ≠ 0#64 →
      ∃ q, exec .tfence s = s.became c q ∧ q.tcause = BitVec.ofNat 32 (0x20 * 2 ^ 24 + en.toNat) ∧ q.xpc = e.pc + 4 ∧
        q.aflags = c.party.aflags ∧ q.masked = true ∧ q.top.pc = c.task.desc.trap) ∧
    ((∀ x ∈ c.party.pend, x.floating = false) → en ≠ 0#5 → c.party.masked = false → c.task.desc.trap = 0#64 → exec .tfence s
      = .next ((s.putParty c.tid c.pi { c.party with stack := e.advance 1 :: r }).failTask c.tid 0x20 en.toNat (e.pc + 4) false))

/-- TRET (R97, R340): inside a handler at the depth of its entry it gives MASK back and resumes at `xpc`, inside the interrupted
clause when `xpc` is the address saved at entry, else at a header (R51, log 14); otherwise it raises ILL. The trap state that entry saved
stays (log 86). -/
def Claim.TretReturnsToXpc : Prop :=
  ∀ (s : State) (c : Exec) (e : Entry) (r : List Entry) (ts : TrapState), s.current = some c → c.party.stack = e :: r →
    c.party.ts = some ts →
    (c.party.masked = true → ts.depth = r.length + 1 → ∃ q : Party, q.masked = ts.mask ∧
      q.tmask.toNat % 256 = c.party.tmask.toNat % 256 ∧
      q = { c.party with
        stack := { e.jump c.party.xpc with clause := if c.party.xpc = ts.addr then ts.clause else none } :: r, tmask := q.tmask } ∧
      (q.top.clause ≠ none → exec .tret s = s.became c q) ∧
      (q.top.clause = none → Claim.GoesTo s c .tret c.party.xpc q)) ∧
    (c.party.masked = false ∨ ts.depth ≠ r.length + 1 → exec .tret s = s.trapped c (Trap.ill 4))

/-- PPT whose masks cover nothing outside the allotment has no effect while no request of LIVE or BOTH mode is pending, or inside a
handler, and holds the party otherwise; a mask bit outside raises ILL (R98). MARK posts a record of TYPE 0x01 with its MARKID,
core and context to its own die and waits for nothing (R99). A word that is no assigned instruction raises ZWF or ILL (R44, R83). -/
def Claim.PptMarkAndIllegalWords : Prop :=
  ∀ (s : State) (c : Exec) (tv tu tc w : Word) (i : BitVec 11), s.current = some c →
    let ok := fun (m : Word) (unit lim : Nat) => ∀ k, k < 32 → m.getLsbD k = true → unit * k < lim
    let fits := ok tv 16 c.task.desc.vregs ∧ ok tu 16 c.task.desc.uregs ∧ ok tc 8192 c.task.desc.scratch
    let asked := (s.core c.task.die c.task.core).requests ≠ [] ∧ 2 ≤ (s.core c.task.die c.task.core).mode ∧ c.party.masked = false
    (fits → ¬asked → exec (.ppt tv tu tc) s = s.passed c 4 { c.party with hold := .free }) ∧
    (fits → asked → exec (.ppt tv tu tc) s = s.became c { c.party with hold := .ppt tv tu tc }) ∧
    (¬fits → exec (.ppt tv tu tc) s = s.trapped c (Trap.ill 3)) ∧
    exec (.mark i) s = .next ((s.postEvent c.task.die 0x01 0
      (payloadOf [(16, 2, i.toNat), (18, 2, c.task.core), (20, 2, c.task.ctx)])).putParty c.tid c.pi (c.party.advance 1)) ∧
    exec (.unassignedEncoding 0) s = s.trapped c Trap.zwf ∧
    (decode [w, 0, 0, 0] = .error .unassigned → w ≠ 0#32 → exec (.unassignedEncoding w) s = s.trapped c (Trap.ill 0)) ∧
    (decode [w, 0, 0, 0] = .error .reserved → exec (.unassignedEncoding w) s = s.trapped c (Trap.ill 1))

/-- The trap words and the marks: TRAPI (R95), TFENCE (R96), TRET (R97), PPT, MARK and the words that no row assigns (R83,
R98, R99). -/
def Obligations.TrapWordsComplete : Prop := Claim.TrapiRaisesItsTrap ∧ Claim.TfenceTakesEnabledFlags ∧ Claim.TretReturnsToXpc ∧ Claim.PptMarkAndIllegalWords

/-! ## Spawning, waiting and batches (spec/05) -/

/-- SPAWN and SPAWNR with a good control word and a descriptor that passes R218 (R100 to R103, R235): what the task has written
leaves its core, its Satchel lines with it (log 46), the children are counted before any can start, the party's spawn number goes on, and one item with the
children, their arguments, flags and stage goes to the bottom of the core's deque or into the queue of the die that the control
word names; with no children there is no item. -/
def Obligations.SpawnsCountAndPlaceChildren : Prop :=
  ∀ (s : State) (c : Exec) (d a b : BitVec 7) (x : BitVec 1) (tg : Target), s.current = some c → c.UPairOk a.toNat →
    c.party.spawnSeq < 2 ^ 27 - 1 →
    let addr := c.party.upair a.toNat
    let bs := s.targetBytes c.task c.party.seen tg 64 0
    let found := s.checkLane (c.env s) c.party .read 64 c.party.lowLane addr.toNat = .ok (.ok tg) ∧
      s.Readable c .read [(0, tg)] ∧ descriptorOk bs = true
    let placed := fun (kids : Kids) (n ctl : Nat) (range : Bool) =>
      let desc := descriptorOf bs
      let given := bit ctl 4
      let det := (if given then bit ctl 5 else desc.det) || c.task.det
      let item : Item :=
        { kids := kids, desc := desc, wrt := addr, fmt := c.party.top.fmt, parent := .task c.tid, party := c.pi
          seq := c.party.spawnSeq, ctx := c.task.ctx, prio := c.task.prio, det := det
          nd := (if given then bit ctl 6 else desc.nd) && !det, ord := range && (if given then bit ctl 7 else desc.ord)
          stage := if given then bits ctl 8 4 else c.task.stage, base := if c.task.det then c.task.carried c.party else []
          seen := c.party.seen, told := false }
      let s1 := (s.source c.tid c.task).modTask c.tid fun t => { t with pendingKids := t.pendingKids + n }
      let s2 := s1.modParty c.tid c.pi fun p => { (p.advance 1) with spawnSeq := p.spawnSeq + 1 }
      if n = 0 then s2
      else if bit ctl 3 then
        s2.putDie (ctl % 8) { (s2.die (ctl % 8)) with queue := insertItem item (s2.die (ctl % 8)).queue }
      else
        let core := s2.core c.task.die c.task.core
        s2.putCore c.task.die c.task.core { core with deque := core.deque ++ [item] }
    let alive := fun (ctl : Nat) => bit ctl 3 = true → (s.die (ctl % 8)).detected = false
    let lanes := (lanesOf c.party.exm).map fun l => (l, c.party.vpair b.toNat l)
    (c.VPairOk b.toNat → found → (if x = 1#1 then c.UOk d.toNat else True) →
      let ctl := if x = 1#1 then (c.party.ureg d.toNat).toNat else 0
      checkControl c.task.det false ctl = .ok () → alive ctl → c.task.pendingKids + lanes.length < 2 ^ 32 →
      exec (.spawn d a b x) s = .next (placed (.lanes lanes) lanes.length ctl false)) ∧
    (c.UPairOk b.toNat → found → c.UPairOk d.toNat →
      let ctl := if x = 1#1 then (c.party.ureg (d.toNat + 1)).toNat else 0
      let n := (c.party.ureg d.toNat).toNat
      checkControl c.task.det true ctl = .ok () → alive ctl → n ≤ 2 ^ 24 → c.task.pendingKids + n < 2 ^ 32 →
      exec (.spawnr d a b x) s = .next (placed (.range 0 1 n (c.party.upair b.toNat)) n ctl true))

/-- AWAIT (R104, R233). A party that arrives before another live party its mask names waits. The last one, where the masks name
every live party: with no child pending, every party that has arrived goes on past the word once the children's join is done (at once
where there is nothing to merge, or in DET mode; else by the merge unit's turns, the last of which lets them go); with children pending
the troupe parks, as soon as the carve-out has room for its image (log 41). -/
def Claim.AwaitCompletes : Prop :=
  ∀ (s : State) (c : Exec) (p : Party) (a : BitVec 7) (l : List Nat), s.current = some c → c.IssuesWide p →
    c.party.hold ≠ .await → p.swb.toNat + a.toNat < c.task.desc.uregs → c.pi ∉ l → l.Nodup → c.task.phase = .running → p.ended = false →
    c.task.imageWait = false → c.task.joinWait = false → c.task.joining = none → c.task.failed = false → c.task.held = false →
    let mask := p.ureg a.toNat
    let stands := c.task.barrier? 16 = if l = [] then none else some { id := 16, mask := mask, arrived := l }
    let quiet := ∀ k, c.task.parent = .root k → (s.ctx c.task.ctx).mismatch = false ∧
      AMap.get? (s.ctx c.task.ctx).partnerDigests ((s.ctx c.task.ctx).boundaries + 1) = none
    let s1 := s.putParty c.tid c.pi p
    let u := (s1.arrive c.tid c.pi 16 1 mask .await).source c.tid c.task
    let room := s1.hiddenRoom c.task.ctx c.task.desc.imageBytes
    mask.getLsbD c.pi = true → stands →
    ((∃ i, i ≠ c.pi ∧ i < 32 ∧ c.task.live i = true ∧ mask.getLsbD i = true ∧ i ∉ l) →
      ∃ t x, exec (.await a) s = .next t ∧ t.party? c.tid c.pi = some { p with hold := .await } ∧ t.task? c.tid = some x ∧
        x.phase = .running) ∧
    ((∀ i, i ≠ c.pi → c.task.live i = true → mask.getLsbD i = true ∧ i ∈ l) →
      (c.task.pendingKids = 0 → (c.task.det = true ∨ (joinOf c.task.kids).empty = true) → quiet →
        (∃ lf fpa, u.lookAgent c.task.die (.image c.tid) c.task.ctx c.task.frame.toNat = .hit lf fpa ∧ u.mute fpa = false) →
        ∃ t, exec (.await a) s = .next t ∧ ∀ i, i = c.pi ∨ i ∈ l → ∀ q0, s1.party? c.tid i = some q0 → ∃ q,
          t.party? c.tid i = some q ∧ q.hold = .free ∧ q.spawnSeq = 0 ∧ q.stack = (q0.advance 1).stack) ∧
      (c.task.pendingKids = 0 → c.task.det = false → (joinOf c.task.kids).empty = false →
        ∃ t x, exec (.await a) s = .next t ∧ t.task? c.tid = some x ∧ x.joinWait = true ∧ x.joining = some (joinOf c.task.kids) ∧
          t.party? c.tid c.pi = some { p with hold := .await }) ∧
      (c.task.pendingKids ≠ 0 → room = true →
        ∃ t x, exec (.await a) s = .next t ∧ t.task? c.tid = some x ∧ x.phase = .parked ∧ x.cont ≠ 0#64) ∧
      (c.task.pendingKids ≠ 0 → room = false →
        ∃ t, exec (.await a) s = .next t ∧ t.party? c.tid c.pi = some { p with hold := .await }))

/-- The merge unit's last turn on a frame whose AWAIT is complete (R104, R255): with no line and no step left every party that
arrived goes on past the word. -/
def Claim.MergeEndsTheAwait : Prop :=
  ∀ (s : State) (k : Nat) (t : Task) (b : Barrier) (j : Join), s.task? k = some t →
    t.barrier? 16 = some b → b.arrived.Nodup → t.joinWait = true → t.joining = some j → j.empty = true → j.blocked = false →
    (j.started = true ∨ s.hiddenRoom t.ctx Config.joinRecordBytes = true) → (s.die (s.frameDie t.ctx t.frame t.die)).failed = false →
    (s.ctx t.ctx).suspend = false → t.phase = .running → t.failed = false → t.held = false → (∀ m, t.parent ≠ .root m) →
    (∃ lf fpa, s.lookAgent t.die (.image k) t.ctx t.frame.toNat = .hit lf fpa ∧ s.mute fpa = false) →
    (∃ x, (s.merge (.task k)).task? k = some x ∧ x.joinWait = false ∧ x.kids = []) ∧
      ∀ i ∈ b.arrived, ∀ p, t.parties[i]? = some p →
        ∃ q, (s.merge (.task k)).party? k i = some q ∧ q.hold = .free ∧ q.spawnSeq = 0 ∧ q.stack = (p.advance 1).stack

/-- AWAITP (R105, R233): where the masks name every live party and all have arrived, the first child of its range, and one whose
predecessor has completed, goes on past the word, with every party that has arrived; else the troupe parks. Outside an ORD range it
raises ILL. -/
def Claim.AwaitpCompletes : Prop :=
  ∀ (s : State) (c : Exec) (p : Party) (a : BitVec 7) (l : List Nat), s.current = some c → c.IssuesWide p →
    c.party.hold ≠ .await → p.swb.toNat + a.toNat < c.task.desc.uregs → c.pi ∉ l → l.Nodup → c.task.phase = .running →
    c.task.imageWait = false → p.ended = false → c.task.parent ≠ .task c.tid →
    let mask := p.ureg a.toNat
    let stands := c.task.barrier? 17 = if l = [] then none else some { id := 17, mask := mask, arrived := l }
    let s1 := s.putParty c.tid c.pi p
    let passes := ∃ t, exec (.awaitp a) s = .next t ∧ ∀ i, i = c.pi ∨ i ∈ l → ∀ q0, s1.party? c.tid i = some q0 → ∃ q,
      t.party? c.tid i = some q ∧ q.hold = .free ∧ q.spawnSeq = q0.spawnSeq ∧ q.stack = (q0.advance 1).stack
    (c.task.ord = true → mask.getLsbD c.pi = true → stands →
      ((∃ i, i ≠ c.pi ∧ i < 32 ∧ c.task.live i = true ∧ mask.getLsbD i = true ∧ i ∉ l) →
        ∃ t, exec (.awaitp a) s = .next t ∧ t.party? c.tid c.pi = some { p with hold := .await }) ∧
      ((∀ i, i ≠ c.pi → c.task.live i = true → mask.getLsbD i = true ∧ i ∈ l) →
        (c.task.cidx.toNat % 2 ^ 32 = 0 → passes) ∧
        (∀ k, s.predecessor c.task = some k → passes) ∧
        (c.task.cidx.toNat % 2 ^ 32 ≠ 0 → s.predecessor c.task = none → s1.hiddenRoom c.task.ctx c.task.desc.imageBytes = true →
          ∃ t x, exec (.awaitp a) s = .next t ∧ t.task? c.tid = some x ∧ x.phase = .parked ∧ x.cont ≠ 0#64))) ∧
    (c.task.ord = false → exec (.awaitp a) s = .next (s1.takeTrap c.tid c.pi (Trap.ill 4)))

/-- The masks of AWAIT and AWAITP (R104, R105): one that does not name its own party, one that differs from the others', and, when every
named live party has arrived, a live party that none names raise BMK in every party that has arrived. -/
def Claim.AwaitMasksAreChecked : Prop :=
  ∀ (s : State) (c : Exec) (p : Party) (a : BitVec 7) (l : List Nat) (other : Word), s.current = some c → c.IssuesWide p →
    c.party.hold ≠ .await → p.swb.toNat + a.toNat < c.task.desc.uregs → c.pi ∉ l →
    let mask := p.ureg a.toNat
    let s1 := s.putParty c.tid c.pi p
    let checks := fun (i : Instr) (id kind : Nat) =>
      let stands := fun (m : Word) => c.task.barrier? id = if l = [] then none else some { id := id, mask := m, arrived := l }
      let fails := fun (s : State) (reason : Nat) => (l ++ [c.pi]).foldl (fun s k => s.takeTrap c.tid k (Trap.bmk 0 kind reason))
        (s.modTask c.tid fun t => t.dropBarrier id)
      (mask.getLsbD c.pi = false → (stands mask ∨ stands other) → exec i s = .next (fails s1 1)) ∧
      (mask.getLsbD c.pi = true → l ≠ [] → other ≠ mask → stands other → exec i s = .next (fails s1 0)) ∧
      (mask.getLsbD c.pi = true → stands mask → c.task.phase = .running → c.task.imageWait = false → p.ended = false →
        (∀ k, k ≠ c.pi → c.task.live k = true → mask.getLsbD k = true → k ∈ l) →
        (∃ k, k ≠ c.pi ∧ c.task.live k = true ∧ mask.getLsbD k = false) →
        exec i s = .next (fails (s1.arrive c.tid c.pi id kind mask .await) 2))
    checks (.await a) 16 1 ∧ (c.task.ord = true → checks (.awaitp a) 17 2)

/-- AWAIT and AWAITP: who waits, who goes on, when the troupe parks, and which masks raise BMK (R104, R105, R233). -/
def Obligations.AwaitWaitsParksOrPasses : Prop :=
  Claim.AwaitCompletes ∧ Claim.MergeEndsTheAwait ∧ Claim.AwaitpCompletes ∧ Claim.AwaitMasksAreChecked

/-- BAR (R110, R233): a party that arrives before another named party waits at the barrier; the last one frees it, and every party
that has arrived goes on past the word. A mask that does not name its own party, one that differs from that of the parties at the id,
and a named party that has ended without arriving raise BMK in every party that has arrived. -/
def Claim.BarCompletes : Prop :=
  ∀ (s : State) (c : Exec) (p : Party) (a : BitVec 7) (i : BitVec 4) (l : List Nat) (other : Word), s.current = some c →
    c.IssuesWide p → p.swb.toNat + a.toNat < c.task.desc.uregs → c.pi ∉ l → l.Nodup → p.ended = false → c.pi < 32 →
    let mask := p.ureg a.toNat
    let stands := fun (m : Word) => c.task.barrier? i.toNat = if l = [] then none else some { id := i.toNat, mask := m, arrived := l }
    let s1 := s.putParty c.tid c.pi p
    let fails := fun (s : State) (l : List Nat) (reason : Nat) =>
      l.foldl (fun s k => s.takeTrap c.tid k (Trap.bmk i.toNat 0 reason)) (s.modTask c.tid fun t => t.dropBarrier i.toNat)
    (c.party.hold ≠ .bar i.toNat →
      (mask.getLsbD c.pi = true → stands mask →
        ((∀ k, k < 32 → mask.getLsbD k = true → k = c.pi ∨ k ∈ l ∨ c.task.live k = true) →
          (∃ k, k < 32 ∧ mask.getLsbD k = true ∧ k ≠ c.pi ∧ k ∉ l) →
          ∃ t, exec (.bar a i) s = .next t ∧ t.party? c.tid c.pi = some { p with hold := .bar i.toNat }) ∧
        ((∀ k, k < 32 → mask.getLsbD k = true → k = c.pi ∨ k ∈ l) →
          ∃ t, exec (.bar a i) s = .next t ∧ (∀ x, t.task? c.tid = some x → x.barrier? i.toNat = none) ∧
            ∀ k, k = c.pi ∨ k ∈ l → ∀ q0, s1.party? c.tid k = some q0 → ∃ q, t.party? c.tid k = some q ∧ q.hold = .free ∧
              q.stack = (q0.advance 1).stack) ∧
        ((∃ k, k < 32 ∧ mask.getLsbD k = true ∧ k ≠ c.pi ∧ k ∉ l ∧ c.task.live k = false) →
          exec (.bar a i) s = .next (fails (s1.arrive c.tid c.pi i.toNat 0 mask (.bar i.toNat)) (l ++ [c.pi]) 2))) ∧
      (mask.getLsbD c.pi = false → (stands mask ∨ stands other) → exec (.bar a i) s = .next (fails s1 (l ++ [c.pi]) 1)) ∧
      (mask.getLsbD c.pi = true → l ≠ [] → other ≠ mask → stands other →
        exec (.bar a i) s = .next (fails s1 (l ++ [c.pi]) 0))) ∧
    (∀ b, c.party.hold = .bar i.toNat → c.task.barrier? i.toNat = some b →
      ((∃ k, k < 32 ∧ b.mask.getLsbD k = true ∧ k ∉ b.arrived) →
        (∀ k, k < 32 → b.mask.getLsbD k = true → k ∈ b.arrived ∨ c.task.live k = true) → exec (.bar a i) s = .next s) ∧
      ((∃ k, k < 32 ∧ b.mask.getLsbD k = true ∧ k ∉ b.arrived ∧ c.task.live k = false) →
        exec (.bar a i) s = .next (fails s b.arrived 2)))

/-- PBAR (R111): with its slot's group defined and alive and its stores delivered the party has arrived; while they are on their way it
waits. An undefined slot, and an EXPECT that differs from that of the parties there, raise BMK in the parties of the rank; a
group with a failed die raises CDG; a bad control word ILL. A party that has arrived waits, whatever its register holds by then (R53). -/
def Claim.PbarArrives : Prop :=
  ∀ (s : State) (c : Exec) (p : Party) (a : BitVec 7) (w : List Word), s.current = some c →
    c.IssuesWide p → p.swb.toNat + a.toNat < c.task.desc.uregs → (∀ n, c.party.hold ≠ .pbar n) →
    let x := (p.ureg a.toNat).toNat
    let expect := x / 256 % 65536
    let slot := x % 64
    let s1 := s.putParty c.tid c.pi p
    let s2 := s1.source c.tid c.task
    let here := fun (s : State) => s.groupBars.find? fun b => b.at c.task.ctx slot c.task.die
    let fails := fun (s : State) (l : List (Nat × Nat)) (reason : Nat) => (l ++ [(c.tid, c.pi)]).foldl
      (fun s w => s.takeTrap w.1 w.2 (Trap.bmk slot 3 reason)) (s.dropGroupBar c.task.ctx slot c.task.die)
    let waiting := fun (s : State) => ((here s).map fun (b : GroupBar) => b.waiting).getD []
    (x / 2 ^ 24 ≠ 0 ∨ x / 64 % 4 ≠ 0 → exec (.pbar a) s = .next (s1.takeTrap c.tid c.pi (Trap.ill 1))) ∧
    (x / 2 ^ 24 = 0 → x / 64 % 4 = 0 →
      (expect = 0 → exec (.pbar a) s = .next (s1.takeTrap c.tid c.pi (Trap.ill 3))) ∧
      (expect ≠ 0 →
        (s1.slotWords c.task.die c.task.ctx slot = none → exec (.pbar a) s = .next (fails s1 (waiting s1) 3)) ∧
        (s1.slotWords c.task.die c.task.ctx slot = some w →
          (s1.groupDead c.task.die c.task.ctx slot w = true →
            exec (.pbar a) s = .next (s1.takeTrap c.tid c.pi (Trap.cdg (s.deadMask.toNat + 256 * slot)))) ∧
          (s1.groupDead c.task.die c.task.ctx slot w = false →
            (s2.undrained { c with party := p } = true → exec (.pbar a) s = .next s2) ∧
            (s2.undrained { c with party := p } = false →
              (∀ b, here s2 = some b → b.expect ≠ expect → exec (.pbar a) s = .next (fails s2 b.waiting 0)) ∧
              ((∀ b, here s2 = some b → b.expect = expect) →
                ∃ t, exec (.pbar a) s = .next t ∧ t.party? c.tid c.pi = some { p with hold := .pbar slot } ∧
                  ∃ b ∈ t.groupBars, b.at c.task.ctx slot c.task.die = true ∧ b.expect = expect ∧
                    b.waiting = waiting s2 ++ [(c.tid, c.pi)])))))) ∧
    ∀ (s : State) (c : Exec) (n : Nat), s.current = some c → c.party.hold = .pbar n → exec (.pbar a) s = .next s

/-- PBAR_RELEASE (R111): a release frees the arrivals at the slot of every group that this package holds whole, or those of the group
with ranks elsewhere whose ranks here have all arrived (one at a time, log 100), and every party among them goes on past the word. -/
def Claim.PbarReleases : Prop :=
  ∀ (s : State) (ctx slot : Nat), (s.groupBars.flatMap fun (b : GroupBar) => b.waiting).Nodup →
    let whole := fun (b : GroupBar) => b.ctx = ctx ∧ b.slot = slot ∧ s.groupArrived ctx slot b.die = true
    let far := fun (b : GroupBar) => s.groupBeyond ctx slot b.die = true
    let frees := fun (pick : GroupBar → Prop) => ∃ t, exec (.pbarRelease ctx slot) s = .next t ∧
      (∀ b, b ∈ t.groupBars ↔ b ∈ s.groupBars ∧ ¬pick b) ∧
      ∀ b ∈ s.groupBars, pick b → ∀ w ∈ b.waiting, ∀ q0, s.party? w.1 w.2 = some q0 → ∃ q, t.party? w.1 w.2 = some q ∧
        q.hold = .free ∧ q.stack = (q0.advance 1).stack ∧ q.v = q0.v ∧ q.u = q0.u
    ((∀ b ∈ s.groupBars, whole b → ¬far b) → frees whole) ∧
    ((∃ b ∈ s.groupBars, whole b ∧ far b) →
      (∀ b ∈ s.groupBars, ∀ b' ∈ s.groupBars, whole b → far b → whole b' → far b' →
        b'.die ∈ groupDies ((s.slotWords b.die ctx slot).getD []) s.pkg) →
      frees fun b => whole b ∧ far b)

/-- BAR, PBAR and PBAR_RELEASE: who waits, who goes on, and what raises BMK or CDG (R110, R111, R233). -/
def Obligations.BarriersWaitAndRelease : Prop := Claim.BarCompletes ∧ Claim.PbarArrives ∧ Claim.PbarReleases

/-- AWAITC (R106): its counter read as a load reads, at or above the threshold the party goes on with its core's clean copies
dropped, after all that the counter's updates carry (R245); below it waits, keeping the operands it issued with. Every notice that makes it test again does the same. -/
def Claim.CounterWaitsTest : Prop :=
  ∀ (s : State) (c : Exec) (a b : BitVec 7) (va fpa : Nat) (l : Leaf) (addr thr : DWord), s.current = some c →
    s.checkLane (c.env s) c.party .read 8 c.party.lowLane addr.toNat = .ok (.ok (.mem va fpa l)) →
    s.Readable c .read [(0, .mem va fpa l)] →
    let s1 := s.settleLine c.task.die c.task.core fpa
    let value := s1.mem.readNat fpa 8
    let told := fun (s : State) (i : Instr) =>
      (thr.toNat ≤ value → exec i s = .next ((s1.flash c.task.die c.task.core).putParty c.tid c.pi
        { (c.party.advance 1) with hold := .free, seen := c.party.seen.join (s1.updatesSeen (.mem va fpa l)) })) ∧
      (value < thr.toNat → exec i s = .next (s1.putParty c.tid c.pi { c.party with hold := .awaitc addr thr }))
    ((∀ x y, c.party.hold ≠ .awaitc x y) → c.UPairOk a.toNat → c.UPairOk b.toNat → addr = c.party.upair a.toNat →
      thr = c.party.upair b.toNat → told s (.awaitc a b)) ∧
    (c.party.hold = .awaitc addr thr → told s (.awaitc a b) ∧
      (c.task.phase = .running → c.task.failed = false → c.task.imageWait = false →
        told s (.awaitcPoll c.tid c.pi) ∧ told s (.wakeNotice c.tid c.pi)))

/-- BCLOSE (R107) gives the open batch's number to D and opens the next; the closed batch is outstanding while it holds operations,
of which there are at most sixteen. BWAIT (R108) goes on, the core's clean copies dropped and its next access after what those batches
wrote, when no batch up to its number is outstanding and the party's stores are delivered, and waits otherwise. BSTAT (R109) leaves the two status words pending and
clears ERR. -/
def Claim.BatchWordsComplete : Prop :=
  ∀ (s : State) (c : Exec) (d a : BitVec 7) (f : BitVec 1), s.current = some c →
    let p := c.party
    let o := p.openBatch
    let s1 := s.drainTask c.task.die c.task.core c.tid
    let n := p.ureg a.toNat
    let due := (∃ b ∈ p.closed, (n - b.no).toNat < 2 ^ 31) ∨ s1.undrained c = true
    (c.UOk d.toNat → p.closed.length < 16 → ∃ q : Party, exec (.bclose d) s = s.passed c 1 (q.setU d.toNat o.no) ∧
      q = { p with openBatch := q.openBatch, closed := q.closed, batchErr := q.batchErr, finished := q.finished } ∧
      q.openBatch = { no := o.no + 1, ops := [], used := false, err := false, seen := Seen.none } ∧
      q.finished = (if o.ops = [] ∧ o.used = true then p.finished ++ [(o.no, o.seen)] else p.finished) ∧
      q.closed = (if o.ops = [] then p.closed else p.closed ++ [o]) ∧
      (q.batchErr = true ↔ p.batchErr = true ∨ (o.ops = [] ∧ o.err = true))) ∧
    (c.UOk d.toNat → 16 ≤ p.closed.length → exec (.bclose d) s = .next s) ∧
    (c.UOk a.toNat → (∀ x, p.hold ≠ .bwait x) →
      (due → exec (.bwait a) s = s1.became c { p with hold := .bwait n }) ∧
      (¬due → ∃ q, exec (.bwait a) s = (s1.flash c.task.die c.task.core).became c q ∧
        q = { (p.advance 1) with hold := .free, seen := q.seen, finished := q.finished } ∧
        (∀ x, x ∈ q.finished ↔ x ∈ p.finished ∧ 2 ^ 31 ≤ (n - x.1).toNat) ∧
        ∀ w : PastWrite, (p.seen.has w = true ∨ ∃ x ∈ p.finished, (n - x.1).toNat < 2 ^ 31 ∧ x.2.has w = true) → q.seen.has w = true)) ∧
    (c.CanPend f → c.UPairOk d.toNat →
      let low := (match p.closed with | b :: _ => b.no | [] => o.no) - 1
      let high := BitVec.ofNat 32 (b2n p.batchErr + 2 * b2n o.used + 16 * p.closed.length)
      exec (.bstat d f) s = .next ({ s with nextId := s.nextId + 1 }.putParty c.tid c.pi
        (({ p with batchErr := false }.addPending ((VResult.loads [] [p.uwrite d.toNat low, p.uwrite (d.toNat + 1) high]).pending
          s.nextId (p.coverFlag f))).advance 1)))

/-- AWAITC and the batch words (R106 to R109). -/
def Obligations.WaitingWordsComplete : Prop := Claim.CounterWaitsTest ∧ Claim.BatchWordsComplete

/-- SIGNAL (R112): with the party's stores delivered, its core's bytes home and its troupe's Satchel lines gone (log 46), the 64-bit counter
at a home on this package grows by its operand, once, and the party goes on; to a counter of a NORMAL or WCOMB page off the package
the addition is sent. FLUSHWC (R113): the party's Satchel lines leave, and it passes once each is in custody. -/
def Obligations.SignalAndFlushComplete : Prop :=
  ∀ (s : State) (c : Exec) (a b : BitVec 7) (va fpa : Nat) (l : Leaf), s.current = some c → s.MemOk →
    let s1 := s.source c.tid c.task
    let s2 := s1.settleLine c.task.die c.task.core fpa
    let f := s.drainParty c.task.die c.task.core (c.tid, c.pi)
    let add := c.party.ureg b.toNat
    let done := fun (t : State) (n : Nat) => ∃ q, t.party? c.tid c.pi = some q ∧ q = { (c.party.advance 1) with seen := q.seen } ∧
      inRanges q.seen.ids n = true
    (c.UPairOk a.toNat → c.UOk b.toNat →
      s.checkLane { (c.env s) with det := false } c.party .atomic 8 c.party.lowLane (c.party.upair a.toNat).toNat
        = .ok (.ok (.mem va fpa l)) →
      s.storeWaits [(0, .mem va fpa l)] = false →
      (s1.undelivered (c.tid, c.pi) = true ∨ s1.coreHolds c.task.die c.task.core c.tid = true → exec (.signal a b) s = .next s1) ∧
      (s1.undelivered (c.tid, c.pi) = false → s1.coreHolds c.task.die c.task.core c.tid = false →
        (isRemote fpa = false → s.homeFailed fpa = false → fpa % 8 = 0 → fpa / 64 ∉ s.badCheck →
          ∃ t, exec (.signal a b) s = .next t ∧ done t s2.writes ∧
            t.mem.readNat fpa 8 = (s2.mem.readNat fpa 8 + add.toNat) % 2 ^ 64 ∧
            ∀ x, x < fpa ∨ fpa + 8 ≤ x → t.mem.read x = s2.mem.read x) ∧
        (isRemote fpa = true → l.soft = true → s.reachable c.task.die fpa = true →
          ∃ t g, exec (.signal a b) s = .next t ∧ done t s1.writes ∧ t.mem = s1.mem ∧
            t.flits = AMap.insert s1.flits s1.nextId g ∧ g.fpa = fpa ∧ g.work = .atom 12 [(0, [add.setWidth 64])] none ∧
            g.who = [(c.tid, c.pi)]))) ∧
    (f.uncustodied (c.tid, c.pi) = false → f.satchelHolds c.task.die c.task.core (c.tid, c.pi) = false →
      exec .flushwc s = f.passed c 1 c.party) ∧
    (f.uncustodied (c.tid, c.pi) = true ∨ f.satchelHolds c.task.die c.task.core (c.tid, c.pi) = true → exec .flushwc s = .next f)

/-! ## System words (spec/09) -/

/-- SYSCALL's services and the reads of time and digests (R205, R206): the version, a user event of TYPE 0x0A, the die's clock, and
for any other service the reply of all ones; RDTIME and DIGEST give their pairs. -/
def Claim.ServicesAndReadsComplete : Prop :=
  ∀ (s : State) (c : Exec) (a d : BitVec 7), s.current = some c →
    let p := c.party
    let ctx := s.ctx c.task.ctx
    let regs := (List.range 6).map fun i => (24 + 4 * i, 4, (p.ureg (a.toNat + 1 + i)).toNat)
    (c.UBlockOk a.toNat 8 →
      exec (.syscallVersion a) s = s.passed c 1 ((p.setU a.toNat 0).setU (a.toNat + 1) (BitVec.ofNat 32 s.firmware.version)) ∧
      exec (.syscallUserEvent a) s = (s.postEvent c.task.die 0x0A 0 (payloadOf
        ([(16, 2, c.task.ctx), (18, 2, c.task.core)] ++ regs))).passed c 1 (p.setU a.toNat 0) ∧
      exec (.syscallClock a) s
        = s.passed c 1 ((p.setU a.toNat 0).setU (a.toNat + 1) (BitVec.ofNat 32 (s.die c.task.die).mhz)) ∧
      exec (.syscallUnknown a) s = s.passed c 1 (p.setU a.toNat 0xFFFFFFFF#32)) ∧
    (c.UPairOk d.toNat →
      exec (.rdtime d) s = s.passed c 1 (p.setUPair d.toNat s.time) ∧
      exec (.digestValue d) s = s.passed c 1 (p.setUPair d.toNat ctx.digest) ∧
      exec (.digestCount d) s = s.passed c 1 (p.setUPair d.toNat (BitVec.ofNat 64 ctx.boundaries)))

/-- TMASK and AFLAGS give D the old value, then clear B's bits and set A's among those the register has; AFLAGS waits for the party's
class V floating-point words (R207). -/
def Claim.FlagMasksUpdate : Prop :=
  ∀ (s : State) (c : Exec) (d a b : BitVec 7), s.current = some c → c.UOk d.toNat → c.UOk a.toNat → c.UOk b.toNat →
    let p := c.party
    let up := fun (old keep : Word) => ((old &&& ~~~(p.ureg b.toNat)) ||| p.ureg a.toNat) &&& keep
    exec (.tmask d a b) s = s.passed c 1 { p.setU d.toNat p.tmask with tmask := up p.tmask 0x11F#32 } ∧
    ((∀ x ∈ p.pend, x.floating = false) → exec (.aflags d a b) s = s.passed c 1
      { p.setU d.toNat (p.aflags.setWidth 32) with aflags := (up (p.aflags.setWidth 32) 0x1F#32).setWidth 5 }) ∧
    ((∃ x ∈ p.pend, x.floating = true) → exec (.aflags d a b) s = .next s)

/-- SYSCALL's services, the reads of time and digests, and the flag masks (R205 to R207). -/
def Obligations.ServicesAndMasksComplete : Prop := Claim.ServicesAndReadsComplete ∧ Claim.FlagMasksUpdate

/-- CTXMODE and TLBI are the supervisor's (R82, R208, R209): in any other context they raise ILL, whatever their registers (the order of
the two ILLs is log 74). In a supervisor context CTXMODE sets the named context's switch-out mode, and TLBI drops the entries of its
scope on the die or on every die; it passes while no access of the context from there is on its way and no line of it stands in a
Satchel there, whatever other contexts and dies have on their way, and stalls while one is (log 63). -/
def Obligations.SupervisorWordsComplete : Prop :=
  ∀ (s : State) (c : Exec) (a b : BitVec 7), s.current = some c →
    let sup := (s.ctx c.task.ctx).sup
    let x := (c.party.ureg a.toNat).toNat
    let y := (c.party.ureg b.toNat).toNat
    let va := (c.party.upair a.toNat).toNat
    let dies := if bit y 18 then List.range 8 else [c.task.die]
    let scope := y / 65536 % 4
    let gone := fun (e : TlbEntry) => scope = 2 ∨ (e.ctx = y % 65536 ∧ (scope = 1 ∨ e.covers (y % 65536) va = true))
    (sup = false → exec (.ctxmode a) s = s.trapped c (Trap.ill 2) ∧ exec (.tlbi a b) s = s.trapped c (Trap.ill 2)) ∧
    (sup = true → c.UOk a.toNat → x / 4 % 2 ^ 14 = 0 → x / 65536 ≤ 4095 → exec (.ctxmode a) s
      = (s.putCtx (x / 65536) { (s.ctx (x / 65536)) with mode := x % 4 }).passed c 1 c.party) ∧
    (sup = true → c.UPairOk a.toNat → c.UOk b.toNat → y / 2 ^ 19 = 0 → scope ≠ 3 → y % 65536 ≤ 4095 →
      ∃ t, exec (.tlbi a b) s = .next t ∧
        (∀ k e, k ∈ t.cores → k.1 / 96 ∈ dies → e ∈ k.2.tlb → ¬gone e) ∧
        (∀ k ks e, k ∈ t.dies → k.1 ∈ dies → ks ∈ k.2.clusterTlb → e ∈ ks.2 → ¬gone e) ∧
        (∀ k e, k ∈ t.dies → k.1 ∈ dies → e ∈ k.2.walkCache →
          ¬(scope = 2 ∨ (e.ctx = y % 65536 ∧ (scope = 1 ∨ e.leads va = true)))) ∧
        (c.task.core < 96 → (∀ g ∈ s.flits, g.2.die ∈ dies → scope ≠ 2 ∧ g.2.ctx ≠ y % 65536) →
          (∀ k ∈ s.cores, k.1 / 96 ∈ dies → ∀ l ∈ k.2.satchel, scope ≠ 2 ∧ l.ctx ≠ y % 65536 ∧ s.lineOfCtx false (y % 65536) l = false) →
          t.party? c.tid c.pi = some (c.party.advance 1)) ∧
        ((∃ g ∈ s.flits, g.2.die ∈ dies ∧ (scope = 2 ∨ g.2.ctx = y % 65536)) → t.party? c.tid c.pi = some c.party))

/-! ## Engine words (spec/09, spec/11) -/

/-- What every engine instruction does once its checks have passed (R107, R257): what its issuer wrote goes home, the new
operation is recorded under the next number with its issuer's context, die and frame, ordered after all that its issuer's next access
comes after, the party's open batch holds it, and the party goes on. No other task, party or register changes. What goes home are the
core's dirty bytes and the troupe's Satchel lines with them (log 46). -/
def Obligations.EngineIssueJoinsOpenBatch : Prop :=
  ∀ (s : State) (c : Exec) (k : OpKind), s.current = some c →
    let t := s.issueOp c k
    let s1 := s.source c.tid c.task
    ∃ o : Op, t.ops = AMap.insert s1.ops s1.nextId o ∧ o.kind = k ∧ o.source = .party c.tid ∧ o.ctx = c.task.ctx ∧
      o.die = c.task.die ∧ o.frame = c.task.frame ∧ o.progress = 0 ∧ o.seen = c.party.seen ∧ t.nextId = s1.nextId + 1 ∧
      t.mem = s1.mem ∧ t.dies = s1.dies ∧ t.flits = s1.flits ∧
      t.party? c.tid c.pi = some (({ c.party with openBatch := { c.party.openBatch with
        ops := c.party.openBatch.ops ++ [s1.nextId], used := true } } : Party).advance 1) ∧
      (∀ i, i ≠ c.pi → t.party? c.tid i = s.party? c.tid i) ∧ ∀ j, j ≠ c.tid → t.task? j = s.task? j

/-- ACP, STM and COMB whose descriptors pass the checks of R175, R182 and R183 issue their operation with the descriptor's fields;
STM's and COMB's destination is translated at issue and lies in node memory: the frame of its first line is kept (log 78). NPOST that
passes R202's issues its message, a READ as one packet (log 59), or stalls while 1,024 are outstanding on the die (R203). -/
def Obligations.CopyAndMessageWordsComplete : Prop :=
  ∀ (s : State) (c : Exec) (a : BitVec 7) (va fpa : Nat) (l : Leaf), s.current = some c →
    let w := fun i => c.party.ureg (a.toNat + i)
    let n := fun i => (w i).toNat
    let pair := fun i => c.party.upair (a.toNat + i)
    let p64 := fun i => (pair i).toNat
    let atNode := s.checkLane { (c.env s) with det := false } c.party .write 64 c.party.lowLane (p64 2) = .ok (.ok (.mem va fpa l)) ∧
      fpaClass fpa = 2 ∧ l.contrib = false
    let bytes := n 4
    let rows := n 5
    let op := n 5 / 2 ^ 24
    let opc := n 0 % 256
    let dmode := n 0 / 256 % 4
    let mtu := n 0 / 2 ^ 20 % 4
    let msg : NetWork :=
      { words := c.party.ublock a.toNat 16, peer := n 8, reply := none, base := 0, held := []
        count := if opc = 3 then 1 else (n 7 + 1024 * 2 ^ mtu - 1) / (1024 * 2 ^ mtu), acked := [], got := [] }
    (c.UBlockOk a.toNat 12 → w 11 = 0#32 → 1 ≤ bytes → bytes ≤ 2 ^ 31 → 1 ≤ rows → rows ≤ 2 ^ 20 → bytes * rows ≤ 2 ^ 40 →
      (p64 0 + ((rows - 1) * n 6 + bytes) ≤ p64 2 ∨ p64 2 + ((rows - 1) * n 7 + bytes) ≤ p64 0) → p64 8 % 8 = 0 →
      exec (.acp a) s = .next (s.issueOp c (.acp (pair 0) (pair 2) bytes rows (n 6) (n 7) (pair 8) (n 10)))) ∧
    (c.UBlockOk a.toNat 8 → p64 0 % 64 = 0 → p64 2 % 64 = 0 → bytes % 64 = 0 → 64 ≤ bytes → bytes ≤ 2 ^ 24 → n 5 % 8 = 0 →
      p64 6 % 8 = 0 → atNode →
      exec (.stm a) s = .next (s.issueOp c (.stm (pair 0) (BitVec.ofNat 64 fpa) bytes (n 5) (pair 6) [] false [] [] [] [] []))) ∧
    (c.UBlockOk a.toNat 8 → n 5 / 2 ^ 14 % 2 ^ 10 = 0 → n 5 / 64 % 4 = 0 → w 7 = 0#32 → p64 0 % 64 = 0 → p64 2 % 64 = 0 →
      op ≤ 3 → 1 ≤ n 5 / 256 % 64 → n 5 % 64 ≤ n 5 / 256 % 64 →
      (if op = 3 then 1 ≤ n 6 % 65536 ∧ n 6 % 65536 ≤ 1024 else n 6 % 65536 = 0) → 4 ≤ bytes → bytes ≤ 65536 → bytes % 4 = 0 →
      (op = 3 → bytes % (4 * (n 6 % 65536 + 2)) = 0) → atNode →
      exec (.comb a) s = .next (s.issueOp c (.comb (pair 0) (BitVec.ofNat 64 fpa) bytes op (n 5 / 256 % 64) (n 5 % 64)
        (n 6 / 65536) (n 6 % 65536) none))) ∧
    (c.UBlockOk a.toNat 16 → n 0 / 2 ^ 22 = 0 → n 0 / 2 ^ 19 % 2 = 0 → n 0 / 2 ^ 10 % 64 = 0 → n 1 / 65536 = 0 → n 8 ≤ 4095 →
      n 9 / 2 ^ 24 = 0 → w 15 = 0#32 → 1 ≤ opc → opc ≤ 3 → mtu ≠ 3 → dmode ≠ 3 → n 0 / 2 ^ 16 % 8 ≤ 4 → 1 ≤ n 7 → n 7 ≤ 2 ^ 30 →
      ¬(dmode = 1 ∧ n 0 / 2 ^ 16 % 8 ≠ 0) → ¬(dmode = 2 ∧ opc = 2) → (opc ≠ 2 → w 14 = 0#32) → (opc = 2 → pair 4 = 0#64) →
      (opc = 3 → p64 12 = 2 ^ 64 - 1) → (p64 12 = 2 ^ 64 - 1 ∨ p64 12 % 8 = 0) → p64 10 % 8 = 0 →
      let t := s.issueOp c (.net msg)
      let id := (s.source c.tid c.task).nextId
      let net := (t.die c.task.die).net
      (1024 ≤ (s.outstanding c.task.die).length → exec (.npost a) s = .next s) ∧
      ((s.outstanding c.task.die).length < 1024 → ∃ u : State, exec (.npost a) s = .next u ∧
        (bit net.cfg.toNat 63 = true → t.peerValid net (n 8) = true →
          (∃ o : Op, AMap.get? u.ops id = some o ∧ o.kind = .net { msg with base := (net.peerRec (n 8)).nextPsn }) ∧
          (((u.die c.task.die).net.peerRec (n 8)).nextPsn = (net.peerRec (n 8)).nextPsn + msg.count) ∧
          u.party? c.tid c.pi = t.party? c.tid c.pi ∧ u.mem = t.mem) ∧
        ((bit net.cfg.toNat 63 = false ∨ t.peerValid net (n 8) = false) → (u.die c.task.die).net.lastErr = 3)))

/-- CAG, CRS, CAR and CHAND whose descriptor and slot pass R198's checks issue an operation that holds the descriptor's fields, the
slot's definition as it stands, the die's logical rank, and, for a collective, the slot's next number under that definition, which goes
on by one (R197, log 82). -/
def Obligations.CourierWordsComplete : Prop :=
  ∀ (s : State) (c : Exec) (a : BitVec 7) (g : List Word) (r : Nat), s.current = some c → c.UBlockOk a.toNat 8 →
    let w := fun i => (c.party.ureg (a.toNat + i)).toNat
    let pair := fun i => c.party.upair (a.toNat + i)
    let x := w 5
    let fmt := x / 256 % 8
    let k := x % 64
    let size := if fmt = 0 ∨ fmt = 3 then 4 else if fmt = 4 then 1 else 2
    let die := c.task.die
    let work := fun (kind : Nat) => (OpKind.courier
      { kind := kind, src := pair 0, dst := pair 2, chunk := w 4, stage := x / 65536 % 16, op := x / 2 ^ 11 % 8, format := fmt
        ring := x / 64 % 4, slot := k, actr := pair 6, defn := g, rank := r, order := (s.slot die c.task.ctx k).count g, step := 0
        partials := [], poison := [], got := [], segs := [], formed := [], cut := [], aborted := [], railed := false, error := 0
        failAddr := 0 })
    let counted := s.modSlot die c.task.ctx k fun y => y.accept g
    (∀ y : Slot, (y.accept g).count g = y.count g + 1 ∧ (y.accept g).words = y.words ∧ (y.accept g).ended = y.ended) ∧ (
    x / 2 ^ 20 = 0 → x / 2 ^ 14 % 4 = 0 → x / 2 ^ 11 % 8 ≤ 2 → fmt ≤ 4 → x / 64 % 4 ≠ 3 → 4 ≤ w 4 → w 4 ≤ 2 ^ 30 → w 4 % size = 0 →
    (pair 6).toNat % 8 = 0 → s.slotWords die c.task.ctx k = some g → s.rankOf g die = some r → s.groupDead die c.task.ctx k g = false →
    (x / 65536 % 16 = 0 →
      (x / 2 ^ 11 % 8 = 0 → groupSpans g = false → exec (.cag a) s = .next (counted.issueOp c (work 0))) ∧
      (fmt ≠ 4 → groupSpans g = false → exec (.crs a) s = .next (counted.issueOp c (work 1))) ∧
      (fmt ≠ 4 → (∀ p ∈ groupPkgs g, groupDies g p = groupDies g s.pkg) →
        exec (.car a) s = .next (counted.issueOp c (work 2)))) ∧
    (x / 2 ^ 11 % 8 = 0 → groupSpans g = false → c.task.stage ≠ 15 → x / 65536 % 16 = c.task.stage + 1 → r + 1 ≠ groupSize g →
      exec (.chand a) s = .next (s.issueOp c (work 3))))

/-- CGRP with NDIM dimensions whose strides nest, the registers of the others zero, defines its slot, or clears it at NDIM 0, and
stalls while its die has Courier operations on it (R196). CSTAT leaves its two words pending and clears LASTERR (R201), and waits while a
wrap is pending (log 104); NPOLL leaves the retransmissions, the error and the outstanding messages of the
engine or of one peer pending (R204). -/
def Obligations.GroupAndStatusWordsComplete : Prop :=
  ∀ (s : State) (c : Exec) (d a : BitVec 7) (f : BitVec 1), s.current = some c →
    let w := c.party.ublock a.toNat 8
    let head := (c.party.ureg a.toNat).toNat
    let die := c.task.die
    let ctx := c.task.ctx
    let k := head % 64
    let n := (s.die die).net
    let peer := head / 4 % 65536
    let one := head % 4 = 1
    let stride := fun i => (c.party.ureg (a.toNat + 2 + 2 * i)).toNat
    let count := fun i => (c.party.ureg (a.toNat + 3 + 2 * i)).toNat
    let ndim := head / 256 % 4
    let sound := head / 2 ^ 10 = 0 ∧ head / 64 % 4 = 0 ∧
      (∀ i, i < 3 → (i < ndim → 1 ≤ stride i ∧ 1 ≤ count i ∧ count i ≤ 65536) ∧
        (ndim ≤ i → 1 ≤ i → stride i = 0 ∧ count i = 0) ∧ (i + 1 < ndim → stride i * count i ≤ stride (i + 1))) ∧
      (1 ≤ ndim → groupSize w ≤ 2 ^ 20 ∧ groupRank w (groupSize w - 1) < 2 ^ 32)
    (c.UBlockOk a.toNat 8 → sound →
      (s.courierOps die ctx k ≠ [] → exec (.cgrp a) s = .next s) ∧
      (s.courierOps die ctx k = [] → ∃ t : State, exec (.cgrp a) s = .next t ∧
        t.slotWords die ctx k = (if head / 256 % 4 = 0 then none else some w) ∧ t.party? c.tid c.pi = some (c.party.advance 1) ∧
        ((groupSpans w = false ∨ ∀ d, d < 8 → (s.die d).detected = false) →
          t.mem = s.mem ∧ t.ops = s.ops ∧ ∀ d, d ≠ die → t.die d = s.die d))) ∧
    (s.wrapNext ≠ none → exec (.cstat d a f) s = .next s) ∧
    (c.CanPend f → c.UPairOk d.toNat → c.UOk a.toNat → head / 64 = 0 → s.wrapNext = none →
      let x := s.slot die ctx k
      let low := BitVec.ofNat 32 (2 ^ 24 * b2n (!x.words.isEmpty) + 2 ^ 23 * b2n s.wrapped + 2 ^ 16 * x.lastErr
        + 2 ^ 8 * s.deadMask.toNat + min 255 (s.courierOps die ctx k).length)
      let high := BitVec.ofNat 32 (min (s.die die).replays 0xFFFFFFFF)
      ∃ t : State, exec (.cstat d a f) s = .next t ∧ (t.slot die ctx k).lastErr = 0 ∧ (t.slot die ctx k).words = x.words ∧
        t.mem = s.mem ∧ t.party? c.tid c.pi = some ((c.party.addPending
          ((VResult.loads [] [c.party.uwrite d.toNat low, c.party.uwrite (d.toNat + 1) high]).pending s.nextId
            (c.party.coverFlag f))).advance 1)) ∧
    (c.CanPend f → c.UPairOk d.toNat → c.UOk a.toNat → head / 2 ^ 18 = 0 → head % 4 ≤ 1 → peer ≤ 4095 →
      let out := if one then ((s.outstanding die).filter fun e => e.2.2.peer == peer).length else (s.outstanding die).length
      let re := if one then (n.peerRec peer).retrans else n.retrans
      let err := if one then (n.peerRec peer).lastErr else n.lastErr
      exec (.npoll d a f) s = s.pended c f (.loads [] [c.party.uwrite d.toNat (BitVec.ofNat 32 (min re 0xFFFFFFFF)),
        c.party.uwrite (d.toNat + 1) (BitVec.ofNat 32 (2 ^ 24 * err + min out 0xFFFF))]))

/-- GANG (R56, R186, R187), its coordinate block in the allotment: a mask of two to six lanes that names its own party writes the `gang` register by its fields; the zero mask
clears it; any other raises ILL. -/
def Claim.GangWritesItsRegister : Prop :=
  ∀ (s : State) (c : Exec) (p : Party) (a b : BitVec 7), s.current = some c → c.IssuesWide p →
    p.swb.toNat + a.toNat < c.task.desc.uregs → p.swb.toNat + b.toNat + 2 < c.task.desc.uregs →
    let m := p.ureg a.toNat
    let n := (List.range 32).countP fun i => m.getLsbD i
    let me := (List.range c.pi).countP fun i => m.getLsbD i
    (m = 0#32 → exec (.gang a b) s = s.passed c 1 { p with gang := 0, gangMask := 0 }) ∧
    (2 ≤ n → n ≤ 6 → m.getLsbD c.pi = true → ∃ g : Word, exec (.gang a b) s = s.passed c 1 { p with gang := g, gangMask := m } ∧
      g.getLsbD 31 = true ∧ g.toNat / 2 ^ 28 % 8 = n ∧ g.toNat / 2 ^ 25 % 8 = me ∧
      (∀ q, q < 4 → (g.getLsbD (21 + q) = true ↔ me < 4 ∧ q % min n 4 = me)) ∧ g.toNat / 2 ^ 14 % 128 = b.toNat ∧
      g.toNat / 32 % 2 ^ 9 = 0 ∧ m.getLsbD (g.toNat % 32) = true ∧ ∀ i, i < g.toNat % 32 → m.getLsbD i = false) ∧
    (m ≠ 0#32 → (n < 2 ∨ 6 < n ∨ m.getLsbD c.pi = false) →
      exec (.gang a b) s = .next ((s.putParty c.tid c.pi p).takeTrap c.tid c.pi (Trap.ill 3)))

/-- The PACC words (R192 to R195, R318): with room in the party's Press queue, its gang's where it is in one, the operation is
issued and enters the queue last; without room the party stalls. RDA leaves its lanes' result pending until the Press serves
it. -/
def Claim.PressWordsComplete : Prop :=
  ∀ (s : State) (c : Exec) (d : BitVec 5) (a e : BitVec 7) (f : BitVec 3) (x : BitVec 1), s.current = some c →
    let p := c.party
    let g := p.gang
    let key := if g.getLsbD 31 then 32 + g.toNat % 32 else c.pi
    let die := c.task.die
    let room := s.pressRoom die c.tid key = true
    let w := fun i => p.ureg (a.toNat + i)
    let enters := fun (i : Instr) (k : PressWork) =>
      let t := s.issueOp c (.press d.toNat k)
      (room → exec i s = .next (t.pressPush die (c.task.core / 4) c.tid key (t.nextId - 1))) ∧
      (s.pressRoom die c.tid key = false → exec i s = .next s)
    let v := viewOf (p.ublock a.toNat 8)
    (∀ (s : State) (cl tid key id : Nat),
      let old := ((s.die die).pressQueues.find? fun q => q.task == tid && q.key == key).map fun (q : PressQueue) => q.ops
      let new := ((s.pressPush die cl tid key id).die die).pressQueues.find? fun q => q.task == tid && q.key == key
      new.map (fun (q : PressQueue) => q.ops) = some (old.getD [] ++ [id])) ∧
    enters (.paccZero d) .zero ∧
    (c.UOk a.toNat → enters (.paccScale d a) (.scale (w 0))) ∧
    (c.UBlockOk a.toNat 4 → w 3 = 0#32 → (w 2).toNat % 16 = 0 → 256 ≤ (w 2).toNat → (p.upair a.toNat).toNat % 16 = 0 →
      enters (.paccLda d a) (.lda (p.upair a.toNat) (w 2).toNat) ∧ enters (.paccSta d a) (.sta (p.upair a.toNat) (w 2).toNat)) ∧
    (c.UBlockOk a.toNat 8 → v.reserved = true → f.toNat ≤ 4 →
      (f = 2#3 → v.trans = false ∧ v.base.toNat % 16 = 0 ∧ v.pitch % 16 = 0 ∧ v.sbase.toNat % 2 = 0) →
      enters (.paccStaq d a f) (.staq f.toNat (p.ublock a.toNat 8) p.top.fmt)) ∧
    (c.CanPend x → c.VOk e.toNat → c.UOk a.toNat →
      (s.pressRoom die c.tid key = false → exec (.paccRda e d a x) s = .next s) ∧
      (room → ∃ t o id, exec (.paccRda e d a x) s = .next t ∧ AMap.get? t.ops id = some (o : Op) ∧
        o.kind = .press d.toNat (.rda ((w 0).toNat % 64) ((w 0).toNat / 64 % 2) p.exm c.pi s.nextId) ∧
        t.party? c.tid c.pi = some ((p.addPending (VResult.pending
          { vwrites := [p.vwrite e.toNat fun _ => 0], uwrites := [], aflags := 0#5, floating := false, wait := .press id }
          s.nextId (p.coverFlag x))).advance 1)))

/-- GANG and the PACC words (R186, R187, R192 to R195). -/
def Obligations.GangAndPressWordsComplete : Prop := Claim.GangWritesItsRegister ∧ Claim.PressWordsComplete

/-- GNG taken by party `i` of a task with a handler (R190, R339): its `gang` register is clear, its wait is over, and it stands in the
handler with cause 0x08, the reason, its index and its gang's size in INFO, to return to the word it stood at. -/
def Claim.TakesGng (t : Task) (u : State) (tid i reason : Nat) : Prop :=
  ∀ q0 : Party, t.parties[i]? = some q0 → q0.masked = false → q0.stack ≠ [] → t.desc.trap ≠ 0#64 →
    let g := q0.gang.toNat
    ∃ q, u.party? tid i = some q ∧ q.gang = 0 ∧ q.gangMask = 0 ∧ q.hold = .free ∧ q.masked = true ∧ q.top.pc = t.desc.trap ∧
      q.xpc = q0.atBoundary.top.pc ∧ q.tcause = BitVec.ofNat 32 (0x08000000 + reason + 2 * (g / 2 ^ 25 % 8) + 16 * (g / 2 ^ 28 % 8))

/-- PMMA (R189, R190): a member whose operands pass the checks arrives at its gang's rendezvous with its own registers. -/
def Claim.PmmaArrives : Prop :=
  ∀ (s : State) (c : Exec) (p : Party) (d : BitVec 5) (a b : BitVec 7) (m : BitVec 3), s.current = some c → c.IssuesWide p →
    c.party.hold ≠ .rendezvous → p.gang.getLsbD 31 = true →
    let g := p.gang.toNat
    let n := g / 2 ^ 28 % 8
    let me := g / 2 ^ 25 % 8
    let bvr := g / 2 ^ 14 % 128
    let nq := ((List.range 4).filter fun q => decide (me < 4 ∧ q % min n 4 = me)).length
    let fb := (pairFormats m.toNat).2.1
    let fa := (pairFormats m.toNat).1
    let kk := (pairFormats m.toNat).2.2
    let v := viewOf (p.ublock a.toNat 8)
    let s1 := s.putParty c.tid c.pi p
    let c1 : Exec := { c with task := c.task.putParty c.pi p, party := p }
    let block := [p.ureg bvr, p.ureg (bvr + 1), p.ureg (bvr + 2)]
    let x : Arrival :=
      { party := c.pi, tile := d.toNat, pair := m.toNat, mask := p.gangMask, view := if me = 0 then p.ublock a.toNat 8 else []
        bregs := if nq = 0 then [] else block :: (List.range nq).map fun j => p.quarter b.toNat nq j fb, fmt := p.top.fmt
        own := if me = 0 then c1.task.opOwn else [], seen := p.seen }
    a.toNat % 2 = 0 → p.swb.toNat + a.toNat + 7 < c.task.desc.uregs → (nq = 0 → b = 0#7) →
      (nq ≠ 0 → p.swb.toNat + bvr + 2 < c.task.desc.uregs ∧ (p.ureg (bvr + 2)).toNat / 4 % 2 ^ 14 = 0 ∧
        p.vwb.toNat + b.toNat + (if fb = 2 then 9 else 8) * nq - 1 < c.task.desc.vregs) →
      (me = 0 → v.reserved = true ∧ v.aligned fa = true ∧
        ∀ r ∈ v.rows fa kk, ∀ y ∈ [r.1, (r.1 + r.2 - 1) % 2 ^ 64], ∃ va fpa l,
          s1.checkLane (c1.env s1) p .read 1 p.lowLane y = .ok (.ok (.mem va fpa l)) ∧ isTile fpa = true ∧
          fpaDie fpa = c.task.die ∧ fpa / 2 ^ 32 % 32 = c.task.core / 4) →
      exec (.pmma d a b m) s = .next (s1.arriveGang c1 x)

/-- A rendezvous all of whose members have arrived (R190, R192, R318): one new operation, of the newest number, is the PMMA of their
tile and formats with member 0's view of A, its own bytes and what its arrival came after, and with each quarter of B from the member
that holds it; it stands last in the gang's Press queue, every member's open batch holds it, and every member has passed its word. -/
def Claim.JoinsTheGang (s : State) (t : Task) (tid : Nat) (arrived all : List Arrival) (y : Arrival) (v : State) : Prop :=
  let key := 32 + (lanesOf y.mask).headD 0
  let queue := fun (s : State) =>
    ((s.die t.die).pressQueues.find? fun q => q.task == tid && q.key == key).map fun (q : PressQueue) => q.ops
  let gang : Arrival → Nat := fun z => (t.parties[z.party]?.map fun q => q.gang.toNat).getD 0
  let holds := fun (z : Arrival) (q : Nat) => gang z / 2 ^ (21 + q) % 2 = 1
  let mine := fun (z : Arrival) (q : Nat) => decide (gang z / 2 ^ 25 % 8 < 4 ∧ q % min (popcount y.mask) 4 = gang z / 2 ^ 25 % 8)
  ∃ (id : Nat) (o : Op) (view : List Word) (fmt : Word) (quarters : List (List Word × List Word × Word)),
    s.nextId ≤ id ∧ v.nextId = id + 1 ∧ AMap.get? v.ops id = some o ∧ o.kind = .press y.tile (.mma y.pair view fmt quarters) ∧
    o.source = .party tid ∧ o.ctx = t.ctx ∧ o.die = t.die ∧ o.frame = t.frame ∧ o.progress = 0 ∧
    (∀ z ∈ all, z.view ≠ [] → (∀ z' ∈ all, z'.view ≠ [] → z' = z) → view = z.view ∧ fmt = z.fmt ∧ o.own = z.own ∧ o.seen = z.seen) ∧
    (∀ q z, q < 4 → z ∈ all → holds z q → mine z q = true → (∀ z' ∈ all, holds z' q → z' = z) →
      quarters[q]? = some (z.bregs.getD (((List.range q).filter (mine z)).length + 1) [], z.bregs.getD 0 [], z.fmt)) ∧
    queue v = some ((queue s).getD [] ++ [id]) ∧
    (∃ z, v.task? tid = some z ∧ ∀ m ∈ z.latches, m ∈ t.latches ∧ m ≠ arrived) ∧
    ∀ z ∈ all, ∀ q0, t.parties[z.party]? = some q0 → v.party? tid z.party = some { (q0.advance 1) with
      hold := .free, openBatch := { q0.openBatch with ops := q0.openBatch.ops ++ [id], used := true } }

/-- What an arrival does (R190): the first to arrive waits; the last one of a gang whose members agree lets every member go on with the
joint operation in the gang's queue, and waits with the others while that queue is full; one that disagrees with the first ends the
rendezvous with GNG in every member that has arrived, and the `gang` registers of all the members clear. Whose mask names the members is
log 80. -/
def Claim.ArrivalsMeet : Prop :=
  ∀ (s : State) (c : Exec) (t : Task) (q : Party) (x : Arrival), s.task? c.tid = some t → t.parties[c.pi]? = some q → x.party = c.pi →
    let u := s.arriveGang c x
    let waits := fun (l : List Arrival) => (∃ y, u.task? c.tid = some y ∧ l ++ [x] ∈ y.latches) ∧
      u.party? c.tid c.pi = some { q with hold := .rendezvous } ∧ u.ops = (s.source c.tid t).ops
    (latchFor t.latches c.pi x.mask = none → (∃ i, i ≠ c.pi ∧ i < 32 ∧ x.mask.getLsbD i = true) → waits []) ∧
    ∀ (y : Arrival) (l : List Arrival), latchFor t.latches c.pi x.mask = some (y :: l) →
      ((y.mask ≠ x.mask ∨ y.tile ≠ x.tile ∨ y.pair ≠ x.pair) →
        (∀ i, (i = c.pi ∨ i < 32 ∧ y.mask.getLsbD i = true ∧ ∃ z ∈ y :: l, z.party = i) → Claim.TakesGng t u c.tid i 0) ∧
        (∀ i q0, i < 32 → y.mask.getLsbD i = true → i ≠ c.pi → (∀ z ∈ y :: l, z.party ≠ i) → t.parties[i]? = some q0 →
          u.party? c.tid i = some { q0 with gang := 0, gangMask := 0 }) ∧
        ∀ z, u.task? c.tid = some z → ∀ m ∈ z.latches, m ≠ y :: l) ∧
      (y.mask = x.mask → y.tile = x.tile → y.pair = x.pair → ((y :: l).map fun (z : Arrival) => z.party).Nodup →
        (∀ z ∈ y :: l, z.party ≠ c.pi ∧ z.party < t.parties.length) →
        ((∃ i, i < 32 ∧ x.mask.getLsbD i = true ∧ i ≠ c.pi ∧ ∀ z ∈ y :: l, z.party ≠ i) → waits (y :: l)) ∧
        ((∀ i, i < 32 → x.mask.getLsbD i = true → i = c.pi ∨ ∃ z ∈ y :: l, z.party = i) →
          (s.pressRoom t.die c.tid (32 + (lanesOf x.mask).headD 0) = false → waits (y :: l)) ∧
          (s.pressRoom t.die c.tid (32 + (lanesOf x.mask).headD 0) = true →
            Claim.JoinsTheGang s t c.tid (y :: l) (y :: l ++ [x]) y u)))

/-- A member that waits looks at its rendezvous again (R190, R318): it goes on waiting while a member is absent or the gang's queue is
full, and the rendezvous completes when neither is so. -/
def Claim.RendezvousIsLookedAtAgain : Prop :=
  ∀ (s : State) (c : Exec) (d : BitVec 5) (a b : BitVec 7) (m : BitVec 3) (y : Arrival) (l : List Arrival), s.current = some c →
    c.party.hold = .rendezvous → (c.task.latches.find? fun l => l.any fun x => x.party == c.pi) = some (y :: l) →
    let all := ∀ i, i < 32 → y.mask.getLsbD i = true → ∃ z ∈ y :: l, z.party = i
    let room := s.pressRoom c.task.die c.tid (32 + (lanesOf y.mask).headD 0)
    ((¬all ∨ room = false) → exec (.pmma d a b m) s = .next s) ∧
    (all → room = true → ((y :: l).map fun (z : Arrival) => z.party).Nodup → (∀ z ∈ y :: l, z.party < c.task.parties.length) →
      ∃ v, exec (.pmma d a b m) s = .next v ∧ Claim.JoinsTheGang s c.task c.tid (y :: l) (y :: l) y v)

/-- PMMA and its rendezvous (R189, R190, R192, R318). -/
def Obligations.PmmaMeetsAtRendezvous : Prop :=
  Claim.PmmaArrives ∧ Claim.ArrivalsMeet ∧ Claim.RendezvousIsLookedAtAgain

/-! ## Events (spec/12 to spec/24) -/

/-- A RENDEZVOUS_TIMEOUT ends a rendezvous whose members have not all arrived (R190): every member that has arrived, and every absent
one that lives, takes GNG with reason 1, and the `gang` registers of the others clear. It does nothing to a rendezvous whose members
have all arrived, or while the troupe is not running. -/
def Claim.RendezvousTimesOut : Prop :=
  ∀ (s : State) (tid k : Nat) (x : Task) (l : List Arrival), s.task? tid = some x →
    let all := ∀ i, i < 32 → (latchMask l).getLsbD i = true → ∃ y ∈ l, y.party = i
    (x.phase ≠ .running ∨ x.failed = true → exec (.rendezvousTimeout tid k) s = .next s) ∧
    (x.phase = .running → x.failed = false → (x.latches.find? fun y => (lanesOf (latchMask y)).headD 0 == k) = some l →
      (all → exec (.rendezvousTimeout tid k) s = .next s) ∧
      (¬all → ∃ t : State, exec (.rendezvousTimeout tid k) s = .next t ∧ (∀ z, t.task? tid = some z → l ∉ z.latches) ∧
        ∀ i, i < 32 → (latchMask l).getLsbD i = true →
          (((∃ y ∈ l, y.party = i) ∨ x.live i = true) → Claim.TakesGng x t tid i 1) ∧
          (¬((∃ y ∈ l, y.party = i) ∨ x.live i = true) → ∀ q0, x.parties[i]? = some q0 →
            t.party? tid i = some { q0 with gang := 0, gangMask := 0 })))

/-- Bytes that an operation reads and writes, piece by piece (R176, R193, R194): a piece of one line reads what stands at its home, where
nothing races with it, and a piece written there leaves its bytes and changes no other byte; rows and pieces follow one another. -/
def Claim.RowsAreReadAndWritten : Prop :=
  ∀ (s : State) (id : Nat) (o : Op) (va fpa n : Nat) (lf : Leaf) (bs : List Byte),
    (s.engineLook id o .read va = .mem va fpa lf → s.engineBad (.mem va fpa lf) = false → 1 ≤ n → va % 64 + n ≤ 64 →
      (∀ i, i < n → AMap.get? o.own (lf.byteOf va + i) = none) →
      (lf.shadow = true ∨ lf.soft = false ∨ ∀ w ∈ s.past, ∀ i, i < n → AMap.get? w.old (fpa + i) = none) →
      s.gatherAt id o va n = ((List.range n).map fun i => s.mem.read (fpa + i), [], .go)) ∧
    (s.MemOk → s.engineLook id o .write va = .mem va fpa lf → lf.shadow = false → s.homeFailed fpa = false → fpa / 64 ∉ s.badCheck →
      1 ≤ bs.length → va % 64 + bs.length ≤ 64 → fpa % 64 + bs.length ≤ 64 →
      ∃ t o1, s.scatterAt id o va bs (fun _ => false) = (t, o1, .go) ∧ (∀ i, i < bs.length → t.mem.read (fpa + i) = bs.getD i 0) ∧
        ∀ a, a < fpa ∨ fpa + bs.length ≤ a → t.mem.read a = s.mem.read a) ∧
    (∀ (s1 s2 : State) (o1 o2 : Op) (cs : List Byte), bs ≠ [] → cs ≠ [] → (va + bs.length) % 64 = 0 →
      s.scatterAt id o va bs (fun _ => false) = (s1, o1, .go) →
      s1.scatterAt id o1 ((va + bs.length) % 2 ^ 64) cs (fun _ => false) = (s2, o2, .go) →
      (s.scatterAt id o va (bs ++ cs) (fun _ => false)).2.2 = .go →
      s.scatterAt id o va (bs ++ cs) (fun _ => false) = (s2, o2, .go)) ∧
    s.scatterRows id o [] = (s, o, .go) ∧
    ∀ (s1 : State) (o1 : Op) (r : List (Nat × List Byte)), s.scatterAt id o va bs (fun _ => false) = (s1, o1, .go) →
      s.scatterRows id o ((va, bs) :: r) = s1.scatterRows id o1 r

/-- PRESS_SERVE (R191 to R195): without a head to serve it does nothing; else the Press applies the head that it serves next, which leaves
its queue and ends. ZERO clears the tile, SCALE multiplies each element; LDA loads each row's FP32 words, a NaN canonical; PMMA adds its
grains to each element, in ascending k; STA stores each row's words and STAQ its rows, each at the rows' addresses, and leave the
tile; RDA leaves the half row in its pending result. Only STA and STAQ write memory. -/
def Claim.PressServes : Prop :=
  ∀ (s : State) (die cluster id tile : Nat) (q : PressQueue) (o : Op) (w : PressWork) (x : Task),
    (s.pressNext die cluster = none → exec (.pressServe die cluster) s = .next s) ∧
    (s.pressNext die cluster = some q → s.pressHead die cluster q = some (id, o, tile, w) → s.task? q.task = some x → o.twins = [] →
      (∀ pq ∈ (s.die die).pressQueues, pq.task = q.task → pq.key = q.key → pq = q) →
      let d := s.die die
      let old := AMap.getD x.tiles tile []
      let s1 := (s.putDie die { d with pressLast := d.pressLast.insert cluster (q.code + 1) }).modTask q.task fun t =>
        { t with tiles := AMap.insert t.tiles tile old, tilesSaved := false }
      let serves := fun (new : Cells 32) (t : State) => exec (.pressServe die cluster) s = .next t ∧ AMap.get? t.ops id = none ∧
        (∀ pq ∈ (t.die die).pressQueues, pq.task = q.task → pq.key = q.key → pq.ops = q.ops.tail ∧ pq.ops ≠ []) ∧
        ∃ y, t.task? q.task = some y ∧ AMap.get? y.tiles tile = some new
      let stores := fun (rows : List (Nat × List Byte)) => ∀ u o1, s1.scatterRows id o rows = (u, o1, .go) → o1.twins = [] →
        ∃ t, serves old t ∧ t.mem = u.mem
      (w = .zero → ∃ t, serves [] t ∧ t.mem = s.mem) ∧
      (∀ v, w = .scale v → ∃ t, serves (tileOf fun i n => (fp32.mul 0 (tileAt old i n) v.toNat).1) t ∧ t.mem = s.mem) ∧
      (∀ addr pitch rows, w = .lda addr pitch →
        s1.gatherRows id o ((List.range 64).map fun i => ((addr.toNat + i * pitch) % 2 ^ 64, 256)) = (rows, .go) →
        (∀ r ∈ rows, r.2 = []) →
        ∃ t, serves (tileOf fun i n => canonNan (fieldOf (rows.getD i ([], [])).1 (4 * n) 4)) t ∧ t.mem = s.mem) ∧
      (∀ pair view fmt quarters rows, w = .mma pair view fmt quarters →
        let fs := pairFormats pair
        s1.gatherRows id o ((viewOf view).rows fs.1 fs.2.2) = (rows, .go) → (∀ r ∈ rows, r.2 = []) →
        ∃ t, serves (tileOf fun i n => grains fs.2.2 (tileAt old i n) (rowsVal (viewOf view) fmt fs.1 fs.2.2 rows i)
          fun k => quarterVal fs.2.1 (quarters.getD (n / 16) ([], [], 0)) k n) t ∧ t.mem = s.mem) ∧
      (∀ addr pitch, w = .sta addr pitch → stores ((List.range 64).map fun i =>
        ((addr.toNat + i * pitch) % 2 ^ 64, (List.range 64).flatMap fun n => leBytes 4 (tileAt old i n)))) ∧
      (∀ f view fmt, w = .staq f view fmt → stores (staqRows f (viewOf view) fmt old)) ∧
      (∀ row half mask party pend p y, w = .rda row half mask party pend → o.source = .party q.task → s.party? q.task party = some p →
        p.pend = [y] → y.id = pend → ∃ t z, serves old t ∧ t.mem = s.mem ∧ t.party? q.task party = some z ∧ z.pend = [{ y with
          wait := .ready
          vwrites := y.vwrites.map fun v =>
            (v.1, v.2.1, (List.range 32).map fun l => BitVec.ofNat 32 (tileAt old row (32 * half + l))) }])) ∧
    (∀ acc (a b : Nat → FloatVal), grains 0 acc a b = acc ∧ ∀ m, grains (32 * (m + 1)) acc a b
      = (fp32.addVal 0 (fp32.val (grains (32 * m) acc a b)) (sumVals ((List.range 32).map fun j =>
        (mulVal (a (32 * m + j)) (b (32 * m + j))).1))).1) ∧
    (∀ (v : View) (fmt : Word) (t : Cells 32), (staqRows 3 v fmt t).length = 64 ∧ ∀ a, a < 64 →
      (staqRows 3 v fmt t)[a]? = some ((v.base.toNat + a * v.pitch) % 2 ^ 64, (List.range 64).flatMap fun b =>
        leBytes 2 (cvtWide bf16 0 (fp32.val (if v.trans then tileAt t b a else tileAt t a b))).1))

/-- ENGINE_OP_COMPLETE and COURIER_STEP: what is no operation, or still waits, does nothing. ENGINE_OP_COMPLETE copies a piece of one line
(R176) and changes no other byte; a CAG's or CHAND's first COURIER_STEP stages its source in the Vat, and writes nothing (R324). -/
def Claim.EnginesGoOn : Prop :=
  ∀ (s : State) (id : Nat) (o : Op),
    (AMap.get? s.ops id = none → exec (.engineOpComplete id) s = .next s ∧ exec (.courierStep id) s = .next s) ∧
    (AMap.get? s.ops id = some o → s.opFree o = false → exec (.engineOpComplete id) s = .next s ∧
      exec (.courierStep id) s = .next s) ∧
    (∀ src dst n va fpa lf va' fpa' lf', AMap.get? s.ops id = some o → s.opFree o = true → s.MemOk →
      o.kind = .acp src dst n 1 0 0 0#64 0 → o.progress = 0 → o.own = [] → o.twins = [] → o.lines = [] → 1 ≤ n →
      src.toNat % 64 + n ≤ 64 → dst.toNat % 64 + n ≤ 64 → fpa' % 64 + n ≤ 64 → fpa % 64 = va % 64 → va % 64 = src.toNat % 64 →
      s.engineLook id o .read src.toNat = .mem va fpa lf → s.engineLook id o .write dst.toNat = .mem va' fpa' lf' →
      s.engineBad (.mem va fpa lf) = false → lf'.shadow = false → lf'.soft = true → s.homeFailed fpa' = false → fpa' / 64 ∉ s.badCheck →
      (lf.shadow = true ∨ lf.soft = false ∨ ∀ w ∈ s.past, ∀ i, i < n → AMap.get? w.old (fpa + i) = none) →
      ∃ t : State, exec (.engineOpComplete id) s = .next t ∧ (∀ i, i < n → t.mem.read (fpa' + i) = s.mem.read (fpa + i)) ∧
        AMap.get? t.ops id = none ∧ ∀ b, b < fpa' ∨ fpa' + n ≤ b → t.mem.read b = s.mem.read b) ∧
    (∀ w data, AMap.get? s.ops id = some o → s.opFree o = true → o.kind = .courier w → s.courierHead (id, o, w) = true → w.step = 0 →
      (w.kind = 0 ∨ w.kind = 3) → w.partials = [] → w.poison = [] → s.slotDead o.die o.ctx w.slot w.defn = false →
      s.courierEnded o w = none → (∀ e ∈ s.xfers, e.2.op ≠ id) → s.gatherAt id o w.src.toNat w.chunk = (data, [], .go) →
      ∃ t v, exec (.courierStep id) s = .next t ∧ t.mem = s.mem ∧ AMap.get? t.ops id = some { o with kind := .courier v } ∧
        v.step = 1 ∧ v.error = 0 ∧ AMap.get? v.partials 0 = some (sliceBytes data 0 w.chunk))

/-- Press and engine events (R176, R190 to R195, R324). -/
def Obligations.EngineEventsComplete : Prop :=
  Claim.RendezvousTimesOut ∧ Claim.PressServes ∧ Claim.RowsAreReadAndWritten ∧ Claim.EnginesGoOn

/-- An STM at its node (R369). Lines go to members whose branches have room, once each, and stand at the member with the STM's data where
no other STM races there; a branch has delivered exactly when all of its lines have gone, and its member's counter is then bumped;
which of the lines that have not gone go at an event is free (log 55). A branch that is blocked for 50 µs fails, with a record of AGENT
6 and CODE 5. While a branch is left the STM stays; with none left and no LCTR it ends. -/
def Claim.MulticastBranches : Prop :=
  ∀ (s : State) (id m : Nat) (o : Op) (ready : BitVec 64) (src dst lctr : DWord) (bytes rcoff : Nat)
    (members delivered failed : List Nat) (gone : List (Nat × Nat)) (data : List Byte) (poison : List Nat) (e : McastEntry),
    let stm := fun (d f : List Nat) (g : List (Nat × Nat)) => OpKind.stm src dst bytes rcoff lctr members true d f g data poison
    let open_ := fun (p : Nat) => p ∈ members ∧ p ∉ delivered ∧ p ∉ failed
    let counts := fun (g : List (Nat × Nat)) (p : Nat) => (g.filter fun x => x.1 == p).length
    (AMap.get? s.ops id = none → exec (.multicastFlitArrival id ready) s = .next s ∧
      exec (.multicastBranchTimeout id m) s = .next s) ∧
    (AMap.get? s.ops id = some o → s.opFree o = false → exec (.multicastFlitArrival id ready) s = .next s) ∧
    (AMap.get? s.ops id = some o → o.kind = stm delivered failed gone →
      (s.opFree o = true → s.mcastFor dst.toNat bytes = some e → members.Nodup → (∃ p, open_ p ∧ ready.getLsbD p = false) →
        ∃ (t : State) (o' : Op) (now : List (Nat × Nat)) (done : List Nat), exec (.multicastFlitArrival id ready) s = .next t ∧
          AMap.get? t.ops id = some o' ∧ o'.kind = stm (delivered ++ done) failed (gone ++ now) ∧
          o' = { o with kind := o'.kind, wset := o'.wset, seen := o'.seen } ∧
          (∀ x ∈ now, open_ x.1 ∧ ready.getLsbD x.1 = true ∧ x.2 < bytes / 64 ∧ x ∉ gone) ∧
          (∀ p, p ∈ done ↔ open_ p ∧ ready.getLsbD p = true ∧ counts (gone ++ now) p = bytes / 64) ∧
          (∀ p k, now = [(p, k)] → done = [] → t.mem = (s.stmLine id p (s.memberBase e dst.toNat p + 64 * k) k data poison).mem) ∧
          ∀ p k, now = [(p, k)] → done = [p] →
            t.mem = ((s.stmLine id p (s.memberBase e dst.toNat p + 64 * k) k data poison).stmCount e dst.toNat rcoff p).mem) ∧
      (s.opFree o = true → (s.mcastFor dst.toNat bytes).isSome = true → (∀ p ∈ members, p ∈ delivered ∨ p ∈ failed) → lctr = 0#64 →
        o.twins = [] → ∃ t : State, exec (.multicastFlitArrival id ready) s = .next t ∧ AMap.get? t.ops id = none ∧ t.mem = s.mem) ∧
      (open_ m → (∃ p, open_ p ∧ p ≠ m) → exec (.multicastBranchTimeout id m) s
        = .next ((s.postEngineError o.die 6 5 o.ctx m o.frame).putOp id { o with kind := stm delivered (failed ++ [m]) gone })) ∧
      (¬open_ m → exec (.multicastBranchTimeout id m) s = .next s)) ∧
    ∀ (p a k ctr : Nat), s.MemOk → a % 64 = 0 → s.homeFailed a = false → a / 64 ∉ s.badCheck → s.stmRaces id p a = false →
      (∀ b, (s.stmLine id p a k data poison).mem.read b
        = if a ≤ b ∧ b < a + 64 then data.getD (64 * k + (b - a)) 0 else s.mem.read b) ∧
      (ctr = s.stmCounter e dst.toNat rcoff p → ctr % 8 = 0 → s.homeFailed ctr = false → ctr / 64 ∉ s.badCheck → rcoff ≠ 2 ^ 31 →
        (s.stmCount e dst.toNat rcoff p).mem.readNat ctr 8 = (s.mem.readNat ctr 8 + 1) % 2 ^ 64 ∧
        ∀ b, b < ctr ∨ ctr + 8 ≤ b → (s.stmCount e dst.toNat rcoff p).mem.read b = s.mem.read b)

/-- Contributions at a node (R183, R184, R370): one of a new key opens an instance where there is room, and is held back where there is
none; one that joins its instance is kept; the last one leaves the result, the contributions combined in ascending rank, at DST, adds one
to the counter behind it, and closes the instance; one that differs, or whose rank has come, changes nothing. An operation whose
contribution is taken ends, one that is held back stays, one that is refused ends with a record of CODE 4. A node's reset takes its
instances. -/
def Claim.ContributionsCombine : Prop :=
  ∀ (s : State) (id node : Nat) (c : Contribution) (o : Op),
    let here := s.instances.filter fun i => i.node == node
    let room := here.length < 4096 ∧
      (here.map fun (i : Instance) => combRoom ((i.parts.head?.map fun (x : Contribution) => x.bytes).getD 0)).sum + combRoom c.bytes
        ≤ 67108864
    let fresh := ∀ i ∈ s.instances, i.keyed node c = false
    let ctr := c.dst + 8 * ((c.bytes + 7) / 8)
    (c.srcOp = none →
      (fresh → room → exec (.combContributionArrival node c) s
        = .next { s with instances := s.instances ++ [{ node := node, parts := [c] }] }) ∧
      (fresh → ¬room → exec (.combContributionArrival node c) s = .next s) ∧
      ∀ i, (s.instances.find? fun i => i.keyed node c) = some i →
        let same := ∀ x ∈ i.parts, x.bytes = c.bytes ∧ x.op = c.op ∧ x.gsm1 = c.gsm1 ∧ x.olen = c.olen
        let result := combResult (i.parts ++ [c])
        ((¬same ∨ ∃ x ∈ i.parts, x.rank = c.rank) → exec (.combContributionArrival node c) s = .next s) ∧
        (same → (∀ x ∈ i.parts, x.rank ≠ c.rank) →
          (i.parts.length < c.gsm1 → ∃ t : State, exec (.combContributionArrival node c) s = .next t ∧ t.mem = s.mem ∧
            (∃ y ∈ t.instances, y.node = i.node ∧ y.parts = i.parts ++ [c]) ∧
            ∀ y ∈ s.instances, y.keyed node c = false → y ∈ t.instances) ∧
          (i.parts.length = c.gsm1 → s.MemOk → c.dst % 64 = 0 → fpaClass c.dst = 2 → result.length ≤ 8 * ((c.bytes + 7) / 8) →
            nodeFpa (fpaNode c.dst) 0 ≤ c.dst → ctr + 8 ≤ nodeFpa (fpaNode c.dst) (2 ^ 45 - 65536) →
            (∀ a, c.dst ≤ a → a < ctr + 8 → s.isMcast a = false ∧ a / 64 ∉ s.badCheck) →
            ∃ t : State, exec (.combContributionArrival node c) s = .next t ∧ (∀ y ∈ t.instances, y.keyed node c = false) ∧
              (∀ k, k < result.length → t.mem.read (c.dst + k) = result.getD k 0) ∧
              t.mem.readNat ctr 8 = (s.mem.readNat ctr 8 + 1) % 2 ^ 64 ∧
              ∀ a, (a < c.dst ∨ c.dst + result.length ≤ a) → (a < ctr ∨ ctr + 8 ≤ a) → t.mem.read a = s.mem.read a))) ∧
    (∀ (x : List Byte) (xs : List (List Byte)) (parts : List Contribution), parts.head? = some c →
      ((List.range (c.gsm1 + 1)).map fun i =>
        ((parts.find? fun (y : Contribution) => y.rank == i).map fun (y : Contribution) => y.data).getD []) = x :: xs →
      combResult parts = xs.foldl (combPair c.op c.olen) x) ∧
    (c.srcOp = some id →
      (AMap.get? s.ops id = none → exec (.combContributionArrival node c) s = .next s) ∧
      (AMap.get? s.ops id = some o → s.opFree o = false → exec (.combContributionArrival node c) s = .next s) ∧
      ∀ (src dst : DWord) (bytes op gsm1 rank tag olen : Nat) (sent : Contribution) (u : State), AMap.get? s.ops id = some o →
        s.opFree o = true → o.kind = .comb src dst bytes op gsm1 rank tag olen (some sent) →
        (s.combine (fpaNode sent.dst) sent = (.taken, u) → exec (.combContributionArrival node c) s = .next (u.endOp id o o.poisoned)) ∧
        (s.combine (fpaNode sent.dst) sent = (.held, u) → ∃ t, exec (.combContributionArrival node c) s = .next t ∧
          AMap.get? t.ops id = some o ∧ t.mem = s.mem) ∧
        (s.combine (fpaNode sent.dst) sent = (.refused, u) →
          exec (.combContributionArrival node c) s = .next (u.failOp id o 4 sent.dst))) ∧
    exec (.nodeReset node) s = .next { s with instances := s.instances.filter fun i => i.node != node }

/-- Accesses of this package on their way (R168, R363, R364, R368). A Satchel line's age limit sends the line: to its home here, where
its bytes then stand, or off the package as a flit with its stores; where nothing can leave it is lost, with a record. Custody, delivery,
a hop's time limit and an error notice act on their own flit alone. A flit that reaches its node is performed there, its stores' bytes or
its atomic step in memory and no other byte, but a multicast frame refuses it; a peer's is performed by its delivery. -/
def Claim.FlitEventsComplete : Prop :=
  ∀ (s : State) (id die core line node : Nat) (f : Flit) (l : SatchelLine),
    let plain := fun (xs : List Store) (ln : Nat) => s.MemOk ∧ ln ∉ s.badCheck ∧
      ∀ x ∈ xs, (x.bytes.map fun e => e.1).Nodup ∧ ∀ e ∈ x.bytes, e.1 / 64 = ln ∧ s.homeFailed e.1 = false
    let lands := fun (xs : List Store) (t : State) => ∀ a, t.mem.read a = (storesByte xs a).getD (s.mem.read a)
    let first := ∀ e ∈ s.flits, e.1 < id → e.2.performed = true ∨ e.2.failed = true ∨ e.2.fpa / 64 ≠ f.fpa / 64
    (s.mute (line * 64) = false → s.twinPending (line * 64) = false →
      ((s.core die core).satchel.filter fun x => x.line == line) = [l] →
      ∃ t : State, exec (.satchelAgeExpire die core line) s = .next t ∧ (∀ x ∈ (t.core die core).satchel, x.line ≠ line) ∧
        (isRemote (line * 64) = false → s.homeFailed (line * 64) = false → plain l.stores line → lands l.stores t) ∧
        (isRemote (line * 64) = true → s.reachable die (line * 64) = true → t.mem = s.mem ∧
          ∃ g, t.flits = AMap.insert s.flits s.nextId g ∧ g.fpa = line * 64 ∧ g.work = .line l.stores ∧ g.who = l.parties ∧
            g.die = die ∧ g.core = core ∧ g.performed = false ∧ g.custody = false ∧ g.failed = false) ∧
        (isRemote (line * 64) = true → s.reachable die (line * 64) = false → t.flits = s.flits ∧
          ∃ u : State, t = u.postEngineError die 0 1 l.ctx l.va l.frame ∧ u.mem = s.mem ∧ u.dies = s.dies)) ∧
    ((s.mute (line * 64) = true ∨ s.twinPending (line * 64) = true) → ∃ t : State,
      exec (.satchelAgeExpire die core line) s = .next t ∧ (t.core die core).satchel = (s.core die core).satchel ∧ t.mem = s.mem) ∧
    (AMap.get? s.flits id = none → ∀ i ∈ [Instr.custodyAck id, .hopTimeout id, .deliveryAck id, .errorNotice id],
      exec i s = .next s) ∧
    (AMap.get? s.flits id = some f →
      exec (.custodyAck id) s = .next { s with flits := AMap.insert s.flits id { f with custody := true } } ∧
      (f.performed = false → f.sure = false →
        exec (.hopTimeout id) s = .next { s with flits := AMap.insert s.flits id { f with failed := true } }) ∧
      (f.performed = true ∨ f.sure = true → exec (.hopTimeout id) s = .next s) ∧
      (fpaClass f.fpa ≠ 1 → f.performed = false → exec (.deliveryAck id) s = .next s) ∧
      (f.failed = false → exec (.errorNotice id) s = .next s) ∧
      (f.failed = true → exec (.errorNotice id) s
        = .next (({ s with flits := AMap.erase s.flits id }).postEngineError f.die 0 1 f.ctx f.va f.frame)) ∧
      (∀ xs, f.work = .line xs → fpaClass f.fpa ≠ 1 → f.performed = true →
        exec (.deliveryAck id) s = .next { s with flits := AMap.erase s.flits id }) ∧
      (∀ xs, f.work = .line xs → fpaClass f.fpa = 1 → f.performed = false → f.failed = false → first → plain xs (f.fpa / 64) →
        ∃ t : State, exec (.deliveryAck id) s = .next t ∧ AMap.get? t.flits id = none ∧ lands xs t) ∧
      (∀ op lanes pend t i p x, f.work = .atom op lanes (some pend) → fpaClass f.fpa ≠ 1 → f.performed = true → f.who = [(t, i)] →
        s.party? t i = some p → p.pend = [x] → x.id = pend → x.wait = .flits [id] →
        ∃ u q y, exec (.deliveryAck id) s = .next u ∧ u.party? t i = some q ∧ q.hold = p.hold ∧ q.pend = [y] ∧ y.wait = .ready) ∧
      (fpaClass f.fpa = 2 → fpaNode f.fpa = node → f.performed = false → f.failed = false →
        (s.isMcast f.fpa = true → f.sure = false → exec (.nodeFlitArrival node (.own id)) s
          = .next { s with flits := AMap.insert s.flits id { f with failed := true } }) ∧
        (s.isMcast f.fpa = false ∨ f.sure = true → ∃ t g, exec (.nodeFlitArrival node (.own id)) s = .next t ∧
          AMap.get? t.flits id = some g ∧ g.performed = true ∧ (first → g.work = f.work ∧ g.who = f.who ∧
            (∀ xs, f.work = .line xs → plain xs (f.fpa / 64) → lands xs t) ∧
            ∀ op lanes pend, f.work = .atom op lanes pend → s.MemOk → f.fpa / 64 ∉ s.badCheck → f.fpa % atomSize op = 0 →
              let r := atomStep op (s.mem.readNat f.fpa (atomSize op)) (lanes.map fun l => l.2)
              (∀ k, k < atomSize op → t.mem.read (f.fpa + k) = (leBytes (atomSize op) r.2).getD k 0) ∧
              (∀ a, a < f.fpa ∨ f.fpa + atomSize op ≤ a → t.mem.read a = s.mem.read a) ∧
              g.olds = ((lanes.map fun l => l.1).zip r.1).map fun x => (x.1, BitVec.ofNat 64 x.2)))) ∧
      (fpaClass f.fpa ≠ 2 ∨ fpaNode f.fpa ≠ node → exec (.nodeFlitArrival node (.own id)) s = .next s))

/-- Accesses of peers (R278, R365, R368): at a node, or at a home slice of this package with ENABLE set, a store's bytes stand at the visible
frame and no other byte changes, and a load is answered with what stands there; a multicast frame, an address that names nothing, and a
package with ENABLE clear take none. -/
def Claim.PeersAccess : Prop :=
  ∀ (s : State) (node a n : Nat) (data : List Byte), s.MemOk → a % 64 + data.length ≤ 64 →
    let free := fun (x : Nat) => s.twinPending x = false ∧ s.visible x % 64 + data.length ≤ 64 ∧ s.homeFailed (s.visible x) = false ∧
      s.visible x / 64 ∉ s.badCheck
    let stored := fun (t : State) (at_ : Nat) => (∀ i, i < data.length → t.mem.read (at_ + i) = data.getD i 0) ∧
      ∀ b, b < at_ ∨ at_ + data.length ≤ b → t.mem.read b = s.mem.read b
    let answered := fun (t : State) (x : Nat) => t.mem = s.mem ∧ ∃ y : PeerAnswer, t.answers = s.answers ++ [y] ∧ y.fpa = x ∧
      y.bytes = s.mem.readBytes (s.visible x) n
    (fpaClass a = 2 → fpaNode a = node → s.fpaValid a = true → s.isMcast a = false →
      (free a → inControlPage a = false → ∃ t, exec (.nodeFlitArrival node (.peer (.store a data false))) s = .next t ∧
        stored t (s.visible a)) ∧
      ∃ t, exec (.nodeFlitArrival node (.peer (.load a n))) s = .next t ∧ answered t a) ∧
    (fpaClass a ≠ 2 ∨ fpaNode a ≠ node ∨ s.fpaValid a = false ∨ s.isMcast a = true →
      exec (.nodeFlitArrival node (.peer (.store a data false))) s = .next s ∧
      exec (.nodeFlitArrival node (.peer (.load a n))) s = .next s) ∧
    (fpaClass a = 1 → a < 2 ^ 56 → fpaPkg a = s.pkg →
      (bit s.fabcfg.toNat 7 = true →
        (free (a % 2 ^ 41) → ∃ t, exec (.remoteAccessArrival (.store a data false)) s = .next t ∧ stored t (s.visible (a % 2 ^ 41))) ∧
        ∃ t, exec (.remoteAccessArrival (.load a n)) s = .next t ∧ answered t (a % 2 ^ 41)) ∧
      (bit s.fabcfg.toNat 7 = false → exec (.remoteAccessArrival (.store a data false)) s = .next s ∧
        exec (.remoteAccessArrival (.load a n)) s = .next s)) ∧
    (fpaClass a ≠ 1 ∨ 2 ^ 56 ≤ a → exec (.remoteAccessArrival (.store a data false)) s = .next s ∧
      exec (.remoteAccessArrival (.load a n)) s = .next s)

/-- Events at the memory nodes and of accesses on their way (R168, R363 to R366, R368 to R370). -/
def Obligations.NodeAndFlitEventsComplete : Prop :=
  Claim.MulticastBranches ∧ Claim.ContributionsCombine ∧ Claim.FlitEventsComplete ∧ Claim.PeersAccess

/-- What the end of a wait for a page leaves (R280, R284): every party, engine operation and join among the agents goes on, each as
before but without the page. -/
def Claim.AgentsGoOn (s t : State) (ws : List Waiter) (page : Nat) : Prop :=
  (∀ k i p, (.party k i ∈ ws ∨ .range k i ∈ ws) → s.party? k i = some p →
    t.party? k i = some { p with hold := p.hold.resolved page }) ∧
  (∀ n o, .op n ∈ ws → AMap.get? s.ops n = some (o : Op) → ∃ o', AMap.get? t.ops n = some o' ∧ o'.kind = o.kind ∧
    o'.waiting = o.waiting.filter fun a => a / 65536 != page) ∧
  ∀ k x j, .join k ∈ ws → s.task? k = some x → x.joining = some j → ∃ y, t.task? k = some y ∧ y.joining = some { j with blocked := false }

/-- Parties whose wait for a page is cancelled issue their word again, for which the page counts as unmapped (R284). -/
def Claim.PartiesAreCancelled (s t : State) (ws : List Waiter) (page : Nat) : Prop :=
  ∀ k i p, (.party k i ∈ ws ∨ .range k i ∈ ws) → s.party? k i = some p →
    (p.hold.waitsFor page = true → t.party? k i = some { p with hold := .free, cancelled := addNew p.cancelled page }) ∧
    (p.hold.waitsFor page = false → t.party? k i = some p)

/-- WALK_COMPLETE (R280, R283): a walk that is not one of the 64 running, whose die has failed, or whose tables lie on a die that does not
answer, does not end. One that ends with a leaf or a bad entry lets every agent that waits for it go on; one whose page is not mapped
puts every one of them on the fault queue, or cancels them where there is none. -/
def Claim.WalksEnd : Prop :=
  ∀ (s : State) (die ctx page : Nat) (w : Walk),
    let d := s.die die
    let found := (d.walks.take 64).find? (fun y => y.ctx == ctx && y.page == page)
    let party := fun (a : Waiter) => ∃ k i, a = .party k i ∨ a = .range k i
    (found = none → exec (.walkComplete die ctx page) s = .next s) ∧
    (found = some w → (d.failed = true ∨ s.walkWaits die ctx w.va = true) → exec (.walkComplete die ctx page) s = .next s) ∧
    (found = some w → d.failed = false → s.walkWaits die ctx w.va = false →
      (((∃ l, s.walkOn die ctx w.va = .leaf l) ∨ s.walkOn die ctx w.va = .bad) →
        (∀ a ∈ w.waiters, party a ∨ (∃ n, a = .op n) ∨ ∃ k, a = .join k) →
        ∃ t, exec (.walkComplete die ctx page) s = .next t ∧ Claim.AgentsGoOn s t w.waiters page) ∧
      (∀ n, s.walkOn die ctx w.va = .notMapped n →
        (d.hasFaultRing = true → (d.faults.length < 4096 ∨ ∃ r ∈ d.faults, r.ctx = ctx ∧ r.page = w.va / 65536) → w.va / 65536 = page →
          ∃ t, exec (.walkComplete die ctx page) s = .next t ∧
            (∀ k i p ps, (.party k i ∈ w.waiters ∨ .range k i ∈ w.waiters) → s.party? k i = some p → p.hold = .walk ps → page ∈ ps →
              t.party? k i = some { p with hold := .fault ps }) ∧
            ∃ r ∈ (t.die die).faults, r.ctx = ctx ∧ r.page = page ∧ ∀ a ∈ w.waiters, a ∈ r.waiters) ∧
        (d.hasFaultRing = false → (∀ a ∈ w.waiters, party a) →
          ∃ t, exec (.walkComplete die ctx page) s = .next t ∧ Claim.PartiesAreCancelled s t w.waiters page)))

/-- FQRESP (R284): a record that is not open does nothing. RESOLVE lets every agent attached to a record go on. CANCEL makes every party's
word issue again and fault; it ends an ACP, STM or COMB with an error, and fails the task whose join, or whose frame's write, waited. -/
def Claim.FaultRecordsAreAnswered : Prop :=
  ∀ (s : State) (die id : Nat) (r : FaultRec),
    let d := s.die die
    let found := d.faults.find? fun y => y.id == id
    let party := fun (a : Waiter) => ∃ k i, a = .party k i ∨ a = .range k i
    let cancels := fun (q : State → Prop) => ∃ t, exec (.fqrespCancel die id) s = .next t ∧ q t
    (found = none → exec (.fqrespResolve die id) s = .next s ∧ exec (.fqrespCancel die id) s = .next s) ∧
    (found = some r →
      (d.fqWaiting = [] → (∀ a ∈ r.waiters, party a) →
        (∃ t, exec (.fqrespResolve die id) s = .next t ∧ ∀ y ∈ (t.die die).faults, y.id ≠ id) ∧
        cancels fun t => ∀ y ∈ (t.die die).faults, y.id ≠ id) ∧
      ((∀ a ∈ r.waiters, party a ∨ (∃ n, a = .op n) ∨ ∃ k, a = .join k) →
        ∃ t, exec (.fqrespResolve die id) s = .next t ∧ Claim.AgentsGoOn s t r.waiters r.page) ∧
      ((∀ a ∈ r.waiters, party a) → cancels fun t => Claim.PartiesAreCancelled s t r.waiters r.page) ∧
      (∀ n o va, r.waiters = [.op n] → AMap.get? s.ops n = some (o : Op) → va ∈ o.waiting → va / 65536 = r.page →
        ((∃ a b c e g h i j, o.kind = .acp a b c e g h i j) ∨ (∃ a b c e g h i j k l m q, o.kind = .stm a b c e g h i j k l m q) ∨
          ∃ a b c e g h i j k, o.kind = .comb a b c e g h i j k) → cancels fun t => AMap.get? t.ops n = none) ∧
      (∀ k x, r.waiters = [.join k] → s.task? k = some x → cancels fun t => ∃ y, t.task? k = some y ∧ y.failed = true ∧
        y.kids = [] ∧ y.joining = none ∧ y.joinWait = false) ∧
      ∀ k x, r.waiters = [.image k] → s.task? k = some x → cancels fun t => ∃ y, t.task? k = some y ∧ y.failed = true ∧
        y.frameWait = none)

/-- A wait for a frame, and one for spill room, is reported once each (R102, R254); which tasks count as waiting for a frame is log 89. -/
def Claim.WaitsAreReported : Prop :=
  ∀ (s : State) (die ctx k i : Nat) (p : Party) (x : Task),
    ((∀ y ∈ s.items, y.1.die = die → y.2.ctx = ctx → y.2.told = true) ∨ (s.freeFrame ctx).isSome = true →
      exec (.framePoolWaitExpire die ctx) s = .next s) ∧
    (∀ y, s.items.find? (s.wantsFrame die ctx) = some y → exec (.framePoolWaitExpire die ctx) s
        = .next ((s.putSpot y.1 (some { y.2 with told := true })).postEvent die 0x08 0
          (payloadOf [(16, 2, ctx), (24, 8, (s.parentFrame y.2.parent).toNat)]))) ∧
    (s.task? k = some x → x.parties[i]? = some p →
      let stalls := x.det = true ∧ p.ended = false ∧ p.top.tried = true ∧ p.top.told = false ∧ p.atStore = true ∧ s.spillFull x.ctx = true
      (stalls → exec (.storeSetWaitExpire k i) s = .next ((s.putParty k i (p.modTop fun e => { e with told := true })).postEvent
        x.die 0x09 0 (payloadOf [(16, 2, x.ctx), (24, 8, (s.parentFrame x.parent).toNat)]))) ∧
      (¬stalls → exec (.storeSetWaitExpire k i) s = .next s))

/-- Translation events, and waits for frames and spill room (R102, R254, R280, R283, R284). -/
def Obligations.TranslationEventsComplete : Prop :=
  Claim.WalksEnd ∧ Claim.FaultRecordsAreAnswered ∧ Claim.WaitsAreReported

/-- Starts, ends and resumptions (R92, R223, R224, R236). TASK_START gives the work that the core picks a frame, a slot and its
parties, each at the entry with every lane active, the argument in s0 and s1, and q7 set; TASK_COMPLETE counts the child at its
parent, once its stores are delivered and its core holds none, and does nothing on a die that has failed; TROUPE_RESUME makes the troupe
resident on the core, and every party that had arrived goes on past its AWAIT or AWAITP. -/
def Obligations.TaskEventsComplete : Prop :=
  ∀ (s : State) (die core tid k : Nat) (spot : Spot) (y : Item) (idx : Nat) (arg frame : DWord) (rest : Kids) (slot : Nat)
    (t x : Task),
    let w := exec (.taskStart die core) s
    (∀ d a f n, let p := Party.start d a f n
      p.seen = n ∧ p.top.pc = d.entry ∧ p.exm = 0xFFFFFFFF#32 ∧ p.top.fmt = f ∧ p.upair 0 = a ∧ p.upred 7 = true ∧ p.hold = .free ∧
      p.masked = false ∧ p.stack.length = 1 ∧ p.top.clause = none) ∧
    (let v := s.withdraw die;
      ((v.pickResume die core).isSome = true ∨ v.pickWork die core = none → w = .next v) ∧
      (v.pickResume die core = none → v.pickWork die core = some (spot, y) → y.kids.next = some (idx, arg, rest) →
        v.freeFrame y.ctx = some frame → v.freeSlot y.ctx = some slot → die < 8 ∧ core < 96 ∧ ∃ u z, w = .next u ∧
          u.task? v.nextId = some z ∧ u.nextId = v.nextId + 1 ∧ z.phase = .running ∧ z.die = die ∧ z.core = core ∧ z.frame = frame ∧ z.slot = slot ∧
          z.ctx = y.ctx ∧ z.parent = y.parent ∧ z.cidx = BitVec.ofNat 64 (y.party * 2 ^ 59 + y.seq * 2 ^ 32 + idx) ∧
          z.parties = List.replicate y.desc.parties (Party.start y.desc arg y.fmt y.seen) ∧ z.pendingKids = 0)) ∧
    (s.task? tid = some t → s.taskEnded tid t = false ∨ (s.die t.die).failed = true → exec (.taskComplete tid) s = .next s) ∧
    (s.task? tid = some t → s.taskEnded tid t = true → (s.die t.die).failed = false → t.kids = [] → t.parent = .task k → k ≠ tid → s.task? k = some x →
      x.parent ≠ .task k → 2 ≤ x.pendingKids →
      let s1 := s.source tid t
      s1.taskFlits tid = [] → s1.coreHolds t.die t.core tid = false → t.imageLost = false →
      (∃ l a, s1.lookAgent t.die (.image tid) t.ctx t.frame.toNat = .hit l a ∧ s1.mute a = false) →
      ∃ u z, exec (.taskComplete tid) s = .next u ∧ u.task? k = some z ∧ z.pendingKids = x.pendingKids - 1 ∧
        z.kids = x.kids ++ [t.result]) ∧
    (s.pickResume die core = none → exec (.troupeResume die core) s = .next s) ∧
    (s.pickResume die core = some (.troupe tid) → s.task? tid = some t → ∃ u z, exec (.troupeResume die core) s = .next u ∧
      u.task? tid = some z ∧ z.phase = .running ∧ z.core = core ∧ z.cont = 0 ∧
      ∀ b, t.barrier? (if t.awaits 16 then 16 else 17) = some b → b.arrived.Nodup → ∀ i ∈ b.arrived, ∀ p, t.parties[i]? = some p →
        ∃ q, u.party? tid i = some q ∧ q.hold = .free ∧ q.stack = (p.advance 1).stack)

/-- Who is asked to switch out (R238, R345, R346): the core of lowest priority, and the highest-indexed sibling of a stranded head, never a
core that runs a head in favour of a higher-indexed sibling's; every core of a suspended context; and a request whose cause has gone is
withdrawn. -/
def Claim.CoresAreRequested : Prop :=
  ∀ (s : State) (die ctx tid : Nat),
    (s.waitingPrio die = none → exec (.priorityWaitExpire die) s = .next s) ∧
    (∀ p, s.waitingPrio die = some p →
      let cands := (List.range 96).filter fun c => !(s.residents die c).isEmpty && s.topPrio die c < p
      let ok := cands.filter (s.sparesHead die cands)
      (ok = [] → exec (.priorityWaitExpire die) s = .next s) ∧
      (ok ≠ [] → ∃ c ∈ ok, exec (.priorityWaitExpire die) s = .next (s.request die c (.priority p)) ∧
        ∀ c' ∈ ok, s.topPrio die c ≤ s.topPrio die c')) ∧
    (s.parentParked (.task tid) = false → exec (.progressSwitchExpire tid) s = .next s) ∧
    (∀ spot x k, s.parentParked (.task tid) = true → s.lowestOf (.task tid) = some (spot, x) → x.lowest = some k →
      s.headOf (.task tid) = some k → (s.ctx x.ctx).suspend = false → (∀ c, c < 96 → s.admitsOn spot.die c x.ctx x.desc = false) →
      let sibs := s.tasks.filter fun e => e.2.parent == .task tid && e.2.phase == .running && e.2.die == spot.die &&
        decide (k.toNat < e.2.cidx.toNat)
      let ok := sibs.filter fun e => s.sparesHead spot.die ((sibs.map fun e => e.2.core).eraseDups) e.2.core
      (ok = [] → exec (.progressSwitchExpire tid) s = .next s) ∧
      (ok ≠ [] → ∃ y ∈ ok, exec (.progressSwitchExpire tid) s = .next (s.request spot.die y.2.core (.progress (.task tid))) ∧
        ∀ y' ∈ ok, y'.2.cidx.toNat ≤ y.2.cidx.toNat)) ∧
    (4096 ≤ ctx → exec (.ctxswSuspend ctx) s = .next s ∧ exec (.ctxswResume ctx) s = .next s) ∧
    (ctx < 4096 → ∃ t : State, exec (.ctxswSuspend ctx) s = .next t ∧ (t.ctx ctx).suspend = true ∧ t.tasks = s.tasks ∧ t.mem = s.mem ∧
      ∀ e ∈ s.tasks, e.2.ctx = ctx → e.2.phase = .running → .suspend ∈ (t.core e.2.die e.2.core).requests) ∧
    (ctx < 4096 → ∃ t : State, exec (.ctxswResume ctx) s = .next t ∧ (t.ctx ctx).suspend = false ∧ t.tasks = s.tasks ∧ t.mem = s.mem ∧
      (∀ d c, d < 8 → c < 96 → (∀ e ∈ s.residents d c, e.2.ctx = ctx) → .suspend ∉ (t.core d c).requests) ∧
      ∀ e ∈ s.images, e.2.ctx = ctx → e.2.ready = true → .image e.1 ∈ (t.die e.2.die).resumes) ∧
    ∀ c, c < 96 → ∀ x, x ∈ ((s.withdraw die).core die c).requests ↔ x ∈ (s.core die c).requests ∧ s.causeHolds die c x = true

/-- The swap (R347 to R353): a core that may be switched out leaves with all its troupes as one image, and an image in its shadow bank
that may take their place then runs there; the spill's end, an image's return, and the end of a deferral. -/
def Claim.CoresAreSwapped : Prop :=
  ∀ (s : State) (die core tid : Nat),
    let v := s.withdraw die
    (v.switchable die core = false → exec (.coreSwap die core) s = .next v) ∧
    (v.switchable die core = true → ∃ t id, exec (.coreSwap die core) s = .next t ∧
      (t.core die core).spill = some id ∧ (t.core die core).requests = [] ∧ (t.core die core).fill = none ∧
      (((v.core die core).fill = none ∨ ∃ k, (v.core die core).fill = some k ∧ v.givesWay die core k = false) →
        (∃ i, AMap.get? t.images id = some i ∧ i.tasks = ((v.residents die core).map fun e => e.1) ∧ i.ready = false) ∧
        ∀ e ∈ v.residents die core, ∃ z, t.task? e.1 = some z ∧ z.phase = .out id) ∧
      ∀ k i x, (v.core die core).fill = some k → v.givesWay die core k = true → AMap.get? v.images k = some i → i.tasks = [tid] →
        v.task? tid = some x → (∀ e ∈ v.residents die core, e.1 ≠ tid) → k < v.nextId → AMap.get? t.images k = none ∧
          ∃ z, t.task? tid = some z ∧ z.phase = .running ∧ z.core = core) ∧
    ((s.core die core).spill = none ∨ (s.die die).failed = true → exec (.porterSpillComplete die core) s = .next s) ∧
    (∀ id i, (s.core die core).spill = some id → AMap.get? s.images id = some i → (s.die die).failed = false →
      ∃ t : State, exec (.porterSpillComplete die core) s = .next t ∧ (t.core die core).spill = none ∧
        (∃ j, AMap.get? t.images id = some j ∧ j = { i with ready := true, banks := j.banks, lines := j.lines }) ∧
        ((s.ctx i.ctx).suspend = false → .image id ∈ (t.die die).resumes) ∧ t.tasks = s.tasks) ∧
    ((s.pickResume die core = none ∨ s.pickResume die core = some (.troupe tid)) → exec (.imageRestore die core) s = .next s) ∧
    (∀ id i, s.pickResume die core = some (.image id) → AMap.get? s.images id = some i → i.tasks = [tid] →
      ∀ x, s.task? tid = some x → ∃ t z, exec (.imageRestore die core) s = .next t ∧ AMap.get? t.images id = none ∧
        t.task? tid = some z ∧ z.phase = .running ∧ z.core = core ∧ z.desc = x.desc ∧ z.kids = x.kids ∧ z.storeSet = x.storeSet) ∧
    (let c := s.core die core
      let l := s.residents die core
      let x := ((l.head?).map fun e => e.2.ctx).getD 0
      let late := c.requests ≠ [] ∧ c.expired = false ∧ c.mode < 2 ∧
        ∃ e ∈ l, e.2.failed = false ∧ ∃ p ∈ e.2.parties, p.ended = false ∧ p.masked = true
      (late → ∃ t : State, exec (.deferralExpire die core) s = .next t ∧ (t.core die core).expired = true ∧
        t = (s.putCore die core { c with expired := true }).postEvent die 0x0E 0 (payloadOf [(16, 2, x), (18, 2, core)])) ∧
      (¬late → exec (.deferralExpire die core) s = .next s))

/-- Pre-emption: requests, the swap, the spill and the return (R238, R345 to R353). -/
def Obligations.SwitchEventsComplete : Prop := Claim.CoresAreRequested ∧ Claim.CoresAreSwapped

/-- Acceptance (R25, R35 to R37). A parsed packet whose turn it is is accepted once: the consumed index goes on and its record is written.
QNOP and QMARK complete at once with code 1, QMARK after a record with its tag, queue and sequence number in every die's event queue;
QCOPY, QFILL, QWRITE and QLAUNCH begin an operation in the queue's context; the launch waits for its frame's page where that is to be
walked to. -/
def Claim.PacketsAreAccepted : Prop :=
  ∀ (s : State) (q : Nat) (f : Fetched),
    let x := s.queue q
    let bs := f.bytes
    let field := fun (lo n : Nat) => natOfBytes ((List.range n).map fun i => bs.getD (lo + i) 0)
    let w64 := fun (lo : Nat) => BitVec.ofNat 64 (field lo 8)
    let at_ := x.gb + 32 * (x.head % 2 ^ x.logsz)
    let parsed := fun (type : Nat) => bs.length = 64 ∧ q < 1024 ∧ s.nextQueue = some q ∧ x.fetched = some f ∧ x.state = .running ∧
      f.checked = true ∧ field 0 1 = type ∧ s.mute at_ = false
    let goesOn := fun (t : State) => (t.queue q).head = (x.head + 1) % 2 ^ 32 ∧ (t.queue q).fetched = none
    let home := s.MemOk ∧ x.gb % 64 = 0 ∧ s.homeFailed at_ = false ∧ isRemote at_ = false ∧ at_ / 64 ∉ s.badCheck
    let code := fun (t : State) (n : Nat) => home → t.mem.readNat (at_ + 15) 1 = n
    let begins := fun (i : Instr) (k : OpKind) => ∃ t o, exec i s = .next t ∧ goesOn t ∧ (t.queue q).inflight = x.inflight + 1 ∧
      AMap.get? t.ops s.nextId = some (o : Op) ∧ o.kind = k ∧ o.source = .queue q x.head ∧ o.ctx = x.ctx ∧ o.progress = 0 ∧ code t 0
    let ring := fun (d : Nat) => (s.die d).eqBase.toNat / 4096 % 2 ^ 44 * 4096
    let slot := fun (d : Nat) => ring d + 64 * ((s.die d).eqTail.toNat % 4096)
    (∀ type ∈ [1, 2, 3, 4, 5, 6, 7], s.parsed q type = none → ∀ i ∈ (match type with
      | 1 => [Instr.qlaunch q] | 2 => [.qcopy q] | 3 => [.qfill q] | 4 => [.qwrite q] | 5 => [.qfence q] | 6 => [.qmark q]
      | _ => [.qnop q]), exec i s = .next s) ∧
    (parsed 7 → ∃ t : State, exec (.qnop q) s = .next t ∧ goesOn t ∧ (t.queue q).inflight = x.inflight ∧ code t 1 ∧
      (home → t.mem.readNat at_ 2 = q % 65536 ∧ t.mem.readNat (at_ + 4) 4 = x.head % 2 ^ 32 ∧ t.mem.readNat (at_ + 8) 4 = field 60 4 ∧
        t.mem.readNat (at_ + 12) 1 = 7 ∧ t.mem.readNat (at_ + 13) 1 = 0 ∧ t.mem.readNat (at_ + 14) 1 = x.fails % 256 ∧
        t.mem.readNat (at_ + 16) 8 = s.time.toNat ∧ t.mem.readNat (at_ + 24) 8 = s.time.toNat)) ∧
    (parsed 6 → ∃ t : State, exec (.qmark q) s = .next t ∧ goesOn t ∧
      (home → ∀ d, d < 8 → ring d ≠ 0 → (s.die d).eqTail - (s.die d).eqHead ≠ 4096#32 → s.homeFailed (slot d) = false →
        isRemote (slot d) = false → slot d / 64 ≠ at_ / 64 → (∀ e, e < 8 → e ≠ d → ring e ≠ 0 → slot e / 64 ≠ slot d / 64) →
        (t.die d).eqTail = (s.die d).eqTail + 1 ∧ t.mem.readNat (slot d) 1 = 2 ∧ t.mem.readNat (slot d + 1) 1 = d ∧
        t.mem.readNat (slot d + 4) 4 = (s.die d).eqTail.toNat ∧ t.mem.readNat (slot d + 8) 8 = s.time.toNat ∧
        t.mem.readNat (slot d + 16) 4 = field 4 4 ∧ t.mem.readNat (slot d + 20) 2 = q ∧
        t.mem.readNat (slot d + 24) 4 = x.head % 2 ^ 32) ∧
      ((∀ d, d < 8 → ring d = 0 ∨ slot d / 64 ≠ at_ / 64) → code t 1)) ∧
    (parsed 2 → begins (.qcopy q) (.qcopy (w64 8) (w64 16) (field 24 8) (w64 32) (field 40 4) f.payload)) ∧
    (parsed 3 → begins (.qfill q) (.qfill (w64 8) (field 16 8) (BitVec.ofNat 32 (field 4 4)) (w64 32) (field 40 4))) ∧
    (parsed 4 → begins (.qwrite q) (.qwrite (w64 8) (w64 16))) ∧
    (parsed 1 → ∃ t : State, exec (.qlaunch q) s = .next t ∧ goesOn t ∧
      ∀ o n page,
        let s1 := s.startOp q bs (.qlaunch (w64 8) (w64 16) (w64 24) (field 4 4) (w64 32) (field 40 4) (field 44 1) (field 45 1))
        AMap.get? s1.ops s.nextId = some o → s1.frameLook o (w64 16) = .miss page n →
        o.kind = .qlaunch (w64 8) (w64 16) (w64 24) (field 4 4) (w64 32) (field 40 4) (field 44 1) (field 45 1) ∧
          o.source = .queue q x.head ∧ AMap.get? t.ops s.nextId = some { o with waiting := [(w64 16).toNat] })

/-- Fences (R22, R32). An evaluation leaves the pairs that it does not find met: a pair is met where its counter is read and stands at its
threshold or above. With none left the fence goes, with code 1, and parsing goes on, or the re-fetch that a RESUME left; else the queue
stays in FENCE with the pairs left, a page that does not translate among them waited for; a fault ends the fence with code 2 and takes
the queue to ERROR. QFENCE is accepted and evaluated at once, and again at a poll and when a counter changes. -/
def Claim.FencesAreEvaluated : Prop :=
  ∀ (s : State) (q n : Nat) (f : Fetched) (ps : List (DWord × Nat)),
    let x := s.queue q
    let bs := f.bytes
    let at_ := x.gb + 32 * (x.head % 2 ^ x.logsz)
    let type := natOfBytes [bs.getD 0 0]
    let met : State → DWord × Nat → Bool := fun s p =>
      let v := s.gatherNat s.nextId (s.frontOp q) p.1.toNat 8
      !decide (p.1.toNat / 65536 ∈ (s.queue q).waiting) && decide (v.2 = .go) && decide (p.2 ≤ v.1)
    let fence := fun (s2 : State) (t : State) (n : Nat) (ps : List (DWord × Nat)) =>
      let y := s2.queue q
      let r := s2.unmet q ps
      let left := ps.filter fun p => !met s2 p
      let code := fun (c : Nat) => s2.MemOk → y.gb % 64 = 0 → s2.homeFailed (y.record n) = false → isRemote (y.record n) = false →
        y.record n / 64 ∉ s2.badCheck → t.mem.readNat (y.record n + 15) 1 = c
      r.left = left ∧ (t.queue q).head = y.head ∧
      (left = [] → (t.queue q).fence = none ∧
        (t.queue q).state = (if y.state = .error then .error else if y.resumed then .refetch else .running) ∧ code 1) ∧
      (left ≠ [] → (r.going = .go ∨ r.going = .wait) → (t.queue q).fence = some (n, left) ∧ (t.queue q).state = y.state ∧
        (t.queue q).waiting = y.waiting ∧ t.mem = s2.mem) ∧
      (∀ va a, r.going = .miss va a → (t.queue q).fence = some (n, left) ∧ (t.queue q).state = y.state ∧
        va / 65536 ∈ (t.queue q).waiting) ∧
      (∀ c a, r.going = .err c a → (t.queue q).fence = none ∧ (t.queue q).state = .error ∧
        (t.queue q).err = if y.state = .error then y.err else 4)
    (q < 1024 → s.nextQueue = some q → x.fetched = some f → x.state = .running → f.checked = true → type = 5 → s.mute at_ = false →
      ∃ t : State, exec (.qfence q) s = .next t ∧ (t.queue q).head = (x.head + 1) % 2 ^ 32 ∧ (t.queue q).fetched = none ∧
        fence ((s.accept q bs).modQueue q fun x => { x with fence := some ((s.queue q).head, fencePairs bs), state := .fence }) t x.head
          (fencePairs bs)) ∧
    (1024 ≤ q ∨ x.fence = none → exec (.fencePoll q) s = .next s) ∧
    (q < 1024 → x.fence = some (n, ps) → x.state = .fence ∨ x.state = .error →
      ∃ t : State, exec (.fencePoll q) s = .next t ∧ fence s t n ps) ∧
    (∀ fpa, (∀ e ∈ s.tasks, ∀ p ∈ e.2.parties, s.awaitsAt e.2.ctx p fpa = false) → (∀ e ∈ s.queues, e.2.fence = none) →
      exec (.counterUpdateWake fpa) s = .next s) ∧
    (∀ fpa, s.tasks = [] → s.queues = [(q, x)] → x.fence = some (n, ps) → x.state = .fence ∨ x.state = .error →
      ∃ t : State, exec (.counterUpdateWake fpa) s = .next t ∧ fence s t n ps) ∧
    ∀ k t p fpa, s.tasks = [(k, t)] → t.parties = [p] → s.awaitsAt t.ctx p fpa = true → s.queues = [] →
      exec (.counterUpdateWake fpa) s = .next (s.pollCounter k 0)

/-- Queue operations (R25, R33, R34, R36, R395): a launch whose frame can be written and whose descriptor passes becomes a root range of as
many pending tasks as its packet counts; QCOPY's payload or its source's bytes, QFILL's value over and over and QWRITE's value are written
piece by piece, each piece one line's bytes; after the last one, where no counter is to be bumped, the operation ends and its record reads
1. One that may not act changes nothing. -/
def Claim.QueueOperationsRun : Prop :=
  ∀ (s : State) (q id seq : Nat) (o0 : Op),
    let x := s.queue q
    let o := { o0 with die := s.frontDie }
    let p := o.progress
    let size := fun (dst bytes : Nat) => min (bytes - p) (64 - (dst + p) % 64)
    let writes := fun (soft : Bool) (dst bytes : Nat) (b : Nat → Byte) => ∀ fpa l, p < bytes →
      let n := size dst bytes
      s.engineLook id o .write ((dst + p) % 2 ^ 64) = .mem ((dst + p) % 2 ^ 64) fpa l → l.shadow = false → (soft = true → l.soft = true) →
      s.homeFailed fpa = false → fpa / 64 ∉ s.badCheck → fpa % 64 = (dst + p) % 64 → x.gb % 64 = 0 → isRemote (x.record seq) = false →
      s.homeFailed (x.record seq) = false → x.record seq / 64 ∉ s.badCheck → x.record seq / 64 ≠ fpa / 64 →
      ∃ t : State, exec (.qopComplete id) s = .next t ∧ (∀ j, j < n → t.mem.read (fpa + j) = b (p + j)) ∧
        (p + n < bytes → (∃ o2, AMap.get? t.ops id = some o2 ∧ o2.kind = o.kind ∧ o2.progress = p + n) ∧
          ∀ a, a < fpa ∨ fpa + n ≤ a → t.mem.read a = s.mem.read a) ∧
        (p + n = bytes → AMap.get? t.ops id = none ∧ t.mem.readNat (x.record seq + 15) 1 = 1)
    (AMap.get? s.roots id = none → AMap.get? s.ops id = none → exec (.qopComplete id) s = .next s) ∧
    (∀ r, AMap.get? s.roots id = some r → exec (.qopComplete id) s = .next s) ∧
    (AMap.get? s.roots id = none → AMap.get? s.ops id = some o0 → s.opFree o = false → exec (.qopComplete id) s = .next s) ∧
    (∀ desc frame args count ctr add dies lflags l fpa data,
      let s2 := s.launchFrame o desc frame count ctr add lflags fpa
      AMap.get? s.roots id = none → AMap.get? s.ops id = some o0 → s.opFree o = true → o.source = .queue q seq →
      o.kind = .qlaunch desc frame args count ctr add dies lflags → p = 0 → s.frameLook o frame = .hit l fpa → s.mute fpa = false →
      s2.gatherAt id { o with progress := 1 } desc.toNat 64 = (data, [], .go) → descriptorOk data = true → s2.launchDies dies ≠ [] →
      ∃ (t : State) (r : Root), exec (.qopComplete id) s = .next t ∧ AMap.get? t.roots id = some r ∧ r.count = count ∧
        r.pending = count ∧ r.frame = frame ∧ r.ctx = o.ctx ∧ r.queue = q ∧ r.seq = seq ∧ r.joined = false) ∧
    (AMap.get? s.roots id = none → AMap.get? s.ops id = some o0 → s.opFree o = true → o.twins = [] → o.poisoned = false →
      o.source = .queue q seq → s.MemOk →
      (∀ dst v, o.kind = .qwrite dst v → writes false dst.toNat 8 fun i => BitVec.ofNat 8 (v.toNat / 256 ^ i)) ∧
      (∀ dst bytes v add, o.kind = .qfill dst bytes v 0#64 add →
        writes false dst.toNat bytes fun i => BitVec.ofNat 8 (v.toNat / 256 ^ (i % 4))) ∧
      (∀ src dst bytes add data, o.kind = .qcopy src dst bytes 0#64 add (some data) → writes false dst.toNat bytes fun i => data.getD i 0) ∧
      ∀ src dst bytes add from_ lf, o.kind = .qcopy src dst bytes 0#64 add none →
        let va := (src.toNat + p) % 2 ^ 64
        let n := size dst.toNat bytes
        s.engineLook id o .read va = .mem va from_ lf → lf.shadow = false → lf.soft = true → va % 64 + n ≤ 64 →
        s.engineBad (.mem va from_ lf) = false → (∀ i, i < n → AMap.get? o.own (lf.byteOf va + i) = none) →
        (∀ w ∈ s.past, ∀ i, i < n → AMap.get? w.old (from_ + i) = none) →
        writes true dst.toNat bytes fun i => s.mem.read (from_ + (i - p)))

/-- The packets of a queue (R20 to R37). -/
def Obligations.QueuePacketsComplete : Prop := Claim.PacketsAreAccepted ∧ Claim.FencesAreEvaluated ∧ Claim.QueueOperationsRun

/-- Fetching (R26 to R28): the head slot of the queue that is next is read; a packet whose check, sequence number and content hold
is parsed, with the payload that its own check covers; one whose check fails, or whose payload's does, is fetched again, a bounded number
of times; one that is not valid takes the queue to ERROR. A slot or a record on a die that does not answer is waited for. -/
def Claim.SlotFetchesComplete : Prop :=
  ∀ (s : State) (q : Nat),
    let x := s.queue q
    let a := x.ring + 64 * (x.head % 2 ^ x.logsz)
    let bs := s.mem.readBytes a 64
    let field := fun (lo n : Nat) => natOfBytes ((List.range n).map fun i => bs.getD (lo + i) 0)
    let sound := s.lineFault s.frontDie a a = none ∧ crc32c (bs.take 60) = field 60 4 ∧ field 2 2 = x.head % 65536
    let answers := s.mute a = false ∧ s.mute (x.record x.head) = false
    let from_ := if field 0 1 = 1 then field 24 8 else field 8 8
    let many := if field 0 1 = 1 then field 48 2 else field 24 8
    let fetches := fun (i : Instr) => ∃ t : State, exec i s = .next t ∧
      (sound → s.packetOk bs = true → (field 1 1) % 2 = 0 →
        t.queue q = { x with state := .running, fetched := some { bytes := bs, payload := none, checked := true } } ∧ t.mem = s.mem) ∧
      (∀ data, sound → s.packetOk bs = true → (field 1 1) % 2 = 1 → s.gatherAt s.nextId (s.frontOp q) from_ many = (data, [], .go) →
        (crc32c data = field 52 4 → t.queue q = { x with
          state := .running, fetched := some { bytes := bs, payload := some data, checked := true } } ∧ t.mem = s.mem) ∧
        (crc32c data ≠ field 52 4 → x.fails + 1 < 64 → t.queue q = { x with
          fails := x.fails + 1, state := .refetch, fetched := some { bytes := bs, payload := none, checked := false } } ∧
          t.mem = s.mem) ∧
        (crc32c data ≠ field 52 4 → 64 ≤ x.fails + 1 → (t.queue q).state = .error ∧ (t.queue q).err = 3)) ∧
      (¬sound → x.fails + 1 < 64 →
        t.queue q = { x with fails := x.fails + 1, state := .refetch, fetched := none } ∧ t.mem = s.mem) ∧
      (¬sound → 64 ≤ x.fails + 1 → (t.queue q).state = .error ∧ (t.queue q).err = 1) ∧
      (sound → s.packetOk bs = false → (t.queue q).state = .error ∧ (t.queue q).err = 2 ∧ (t.queue q).head = x.head)
    (s.nextQueue = none → exec .slotFetch s = .next s) ∧
    (s.nextQueue = some q → s.checked q = true → exec .slotFetch s = .next s) ∧
    (s.nextQueue = some q → x.state = .running → x.fetched = none → answers → fetches .slotFetch) ∧
    (s.nextQueue = some q → x.fetched = none → ¬answers →
      exec .slotFetch s = .next { s with lastQueue := AMap.insert s.lastQueue x.prio (q + 1) }) ∧
    (1024 ≤ q ∨ x.state ≠ .refetch ∨ x.waiting ≠ [] → exec (.refetch q) s = .next s) ∧
    (q < 1024 → x.state = .refetch → x.waiting = [] → x.fetched = none →
      (x.head % 65536 = x.tail → exec (.refetch q) s = .next (s.putQueue q { x with state := .running })) ∧
      (x.head % 65536 ≠ x.tail → answers → fetches (.refetch q)) ∧
      (x.head % 65536 ≠ x.tail → ¬answers → exec (.refetch q) s = .next s)) ∧
    (1024 ≤ q ∨ x.state ≠ .refetch ∨ x.fails = 0 → exec (.refetchDeadline q) s = .next s) ∧
    (q < 1024 → x.state = .refetch → x.fails ≠ 0 → ∃ t : State, exec (.refetchDeadline q) s = .next t ∧ (t.queue q).state = .error ∧
      (t.queue q).err = if x.fetched.isSome then 3 else 1)

/-- Queue control (R15 to R19): the doorbell moves TAIL forward within the ring, ENABLE reads the descriptor of a queue that is STOPPED
and does nothing on any other (log 38), DISABLE and RESET drain and cancel an unmet fence, RESUME leaves ERROR. -/
def Claim.QueueControlComplete : Prop :=
  ∀ (s : State) (q : Nat) (v : BitVec 64),
    let x := s.queue q
    let h := x.head % 65536
    let new := (v.toNat % 65536 + 65536 - h) % 65536
    let cur := (x.tail + 65536 - h) % 65536
    let off := x.state = .stopped ∨ x.state = .draining
    let a := x.desca.toNat
    let bs := s.mem.readBytes a 64
    let field := fun (lo n : Nat) => natOfBytes ((List.range n).map fun i => bs.getD (lo + i) 0)
    let good := s.fpaValid a = true ∧ s.lineFault s.frontDie a a = none ∧ s.descOk bs = true
    (1024 ≤ q → ∀ i ∈ [Instr.qdbDoorbell q v, .qctlEnable q, .qctlDisable q, .qctlReset q, .qctlResume q], exec i s = .next s) ∧
    (off → exec (.qdbDoorbell q v) s = .next s) ∧
    (q < 1024 → ¬off → (new < cur → exec (.qdbDoorbell q v) s = .next s) ∧
      (cur ≤ new → new ≤ 2 ^ x.logsz → exec (.qdbDoorbell q v) s = .next (s.putQueue q { x with tail := v.toNat % 65536 })) ∧
      (cur ≤ new → 2 ^ x.logsz < new → ∃ t : State, exec (.qdbDoorbell q v) s = .next t ∧ (t.queue q).state = .error ∧
        (t.queue q).tail = x.tail ∧ (t.queue q).err = if x.state = .error then x.err else 5)) ∧
    (x.enable = true ∨ x.state ≠ .stopped → exec (.qctlEnable q) s = .next s) ∧
    (q < 1024 → x.enable = false → x.state = .stopped →
      (s.mute a = true → exec (.qctlEnable q) s = .next (s.putQueue q { x with enable := true })) ∧
      (s.mute a = false → good → exec (.qctlEnable q) s = .next (s.putQueue q
        { desca := x.desca, enable := true, state := .running, err := 0, head := field 16 4, tail := field 16 4 % 65536
          inflight := x.inflight, ring := field 0 8, gb := field 8 8, logsz := field 20 1, prio := field 21 1, ctx := field 22 2
          fetched := none, fails := 0, fence := none, resumed := false, waiting := [] })) ∧
      (s.mute a = false → ¬good → ∃ t : State, exec (.qctlEnable q) s = .next t ∧ t.queue q = { x with err := 6, enable := false })) ∧
    (q < 1024 → ∀ i ∈ [Instr.qctlDisable q, .qctlReset q],
      (x.state = .stopped → exec i s = .next (s.putQueue q { x with enable := false })) ∧
      (x.state ≠ .stopped → x.fence = none → ∃ t : State, exec i s = .next t ∧ t.mem = s.mem ∧ (t.queue q).enable = false ∧
        (t.queue q).fetched = none ∧ (t.queue q).state = if x.inflight = 0 then .stopped else .draining) ∧
      (∀ n ps, x.state ≠ .stopped → x.fence = some (n, ps) → ∃ t : State, exec i s = .next t ∧ (t.queue q).enable = false ∧
        (t.queue q).fence = none ∧ (t.queue q).state = (if x.inflight - 1 = 0 then .stopped else .draining) ∧
        (s.MemOk → x.gb % 64 = 0 → s.homeFailed (x.record n) = false → isRemote (x.record n) = false →
          lineOf (x.record n) ∉ s.badCheck → t.mem.readNat (x.record n + 15) 1 = 4))) ∧
    (x.state ≠ .error → exec (.qctlResume q) s = .next s) ∧
    (q < 1024 → x.state = .error → exec (.qctlResume q) s = .next (s.putQueue q { x with
      err := 0, fails := 0, fetched := none, resumed := x.fence.isSome
      state := if x.fence.isSome then .fence else .refetch }))

/-- Fetching and control of the host queues (R15 to R19, R26 to R28). -/
def Obligations.QueueFetchAndControlComplete : Prop := Claim.SlotFetchesComplete ∧ Claim.QueueControlComplete

/-- The host's windows and register writes (R7, R16, R38 to R40, R263, R271, R278, R361): a read returns the bytes at their homes, of
the visible frame of a shadow page, all ones where the address is invalid, which the link counts; a write stores its bytes and no
others, and none in a multicast frame; an access outside BAR4, and a write outside the CXL.mem window, does nothing; a register
write keeps the fields that its register stores, and changes no memory, task or operation, but that of NETCFG, which acts as
NETCFG_ENABLE_CLEAR where it clears ENABLE. A read of a die that does not answer brings nothing. -/
def Obligations.HostAccessesComplete : Prop :=
  ∀ (s : State) (off len : Nat) (data : List Byte) (v : BitVec 64) (k : Nat),
    let fpa := s.winsel.toNat / 2 ^ 36 % 2 ^ 20 * 2 ^ 36 + off
    let bytes := (List.range len).map fun i => s.mem.read (s.visible (fpa + i))
    let cxl := (List.range len).map fun i => s.mem.read (s.visible (off + i))
    let reads := fun (i : Instr) (a : Nat) (bs : List Byte) =>
      (s.hostReaches a = true → s.mute a = true → exec i s = .next s) ∧
      (s.hostReaches a = true → s.mute a = false → s.hostBad a len = [] →
        exec i s = .next { s with hostRead := some { bytes := bs, invalid := false, poisoned := false } }) ∧
      (s.hostReaches a = false → exec i s = .next { s with
        hostRead := some { bytes := List.replicate len 0xFF, invalid := true, poisoned := false }
        aer := s.aer + if s.fpaValid a then 0 else 1 })
    let writes := fun (i : Instr) (a : Nat) =>
      (s.fpaValid a = false → exec i s = .next { s with aer := s.aer + 1 }) ∧
      (s.fpaValid a = true → s.hostReaches a = false ∨ s.isMcast a = true → exec i s = .next s) ∧
      (s.hostReaches a = true → s.isMcast a = false → s.twinPending a = false → s.homeFailed (s.visible a) = false →
        lineOf (s.visible a) ∉ s.badCheck → s.MemOk → (inControlPage a = true → ∀ e ∈ s.flits, e.2.sure = false) →
        a % 64 + data.length ≤ 64 → s.visible a % 64 + data.length ≤ 64 →
        ∃ t : State, exec i s = .next t ∧ t.tasks = s.tasks ∧
          (∀ j, j < data.length → t.mem.read (s.visible a + j) = data.getD j 0) ∧
          ∀ b, b < s.visible a ∨ s.visible a + data.length ≤ b → t.mem.read b = s.mem.read b)
    let inside := fun (n : Nat) => s.inCxl off && s.inCxl (off + (n - 1))
    let w := exec (.registerWrite off v) s
    (off + len ≤ 2 ^ 36 → reads (.hostWindowRead off len) fpa bytes) ∧ (2 ^ 36 < off + len → exec (.hostWindowRead off len) s = .next s) ∧
    (off + data.length ≤ 2 ^ 36 → writes (.hostWindowWrite off data) fpa) ∧
    (2 ^ 36 < off + data.length → exec (.hostWindowWrite off data) s = .next s) ∧
    (inside len = true → reads (.cxlMemAccess off len []) off cxl) ∧
    (inside len = false → exec (.cxlMemAccess off len []) s
      = .next { s with hostRead := some { bytes := List.replicate len 0xFF, invalid := true, poisoned := false } }) ∧
    (data ≠ [] → inside data.length = true → writes (.cxlMemAccess off len data) off) ∧
    (data ≠ [] → inside data.length = false → exec (.cxlMemAccess off len data) s = .next s) ∧
    (∃ t : State, w = .next t ∧ ((∀ d, d < 8 → off = 0x160000 + 64 * d → bit v.toNat 63 = true) →
      t.mem = s.mem ∧ t.tasks = s.tasks ∧ t.ops = s.ops ∧ t.cores = s.cores ∧ t.flits = s.flits)) ∧
    (∀ d, d < 8 → off = 0x160000 + 64 * d → bit v.toNat 63 = false → w = exec (.netcfgEnableClear d v) s) ∧
    (off = 0 → w = .next s) ∧
    (∀ t : State, w = .next t →
      (off = 0x100 → t.readBar0 off = v &&& 0x00FFFFF000000000#64) ∧
      (off = 0x150000 → t.readBar0 off = v &&& 0x0000FFFFFFFF00BF#64) ∧
      (k < 4096 → off = 0x110000 + 8 * k → t.readBar0 off
        = (v &&& 0x00FFFFFFFFFFFE01#64) ||| BitVec.ofNat 64 (16 * min (v.toNat / 16 % 32) 16)) ∧
      (k < 8 → off = 0x130000 + 64 * k + 8 → t.readBar0 off = v &&& 0xFFFFFFFF#64) ∧
      (k < 1024 → off = 2 ^ 26 + 4096 * k + 0x18 → t.readBar2 (4096 * k + 0x18) = v &&& 0x00FFFFFFFFFFFFC0#64))

/-- The package's management (R40 to R43, R267, R286, R361): throttling, a poisoned line, attestation, reset, boot, a port, and the
replicas' digests, their release and their silence, which is reported once for each boundary. Values that the part chooses are free (log
23, 32). -/
def Obligations.PackageEventsComplete : Prop :=
  ∀ (s : State) (d r n k ctx : Nat) (up : Bool) (c : BitVec 8) (y : BitVec 64),
    let m := (s.die d).mhz
    let x := s.ctx ctx
    (8 ≤ d ∨ 3 ≤ r ∨ (s.die d).failed = true → exec (.throttle d r) s = .next s) ∧
    (d < 8 → r < 3 → (s.die d).failed = false → m ≤ 1050 → ∃ t : State, exec (.throttle d r) s = .next t ∧
      (r ≤ 1 → (t.die d).mhz = max 550 (m - 50)) ∧ (r = 2 → ∃ j, (t.die d).mhz = m + 50 * j ∧ (t.die d).mhz ≤ 1050)) ∧
    ((s.die (s.seenBy n)).eqBase = 0#64 → ∃ t : State, exec (.eccUncorrectableError (.line n)) s = .next t ∧
      t.isPoisoned (n / 64) = true ∧ t.mem = s.mem ∧ (t.die (s.seenBy n)).eqLost = satInc (s.die (s.seenBy n)).eqLost) ∧
    (s.task? k = none → exec (.eccUncorrectableError (.scratch k n)) s = .next s) ∧
    (∀ t, s.task? k = some t → (t.desc.scratch ≤ n → exec (.eccUncorrectableError (.scratch k n)) s = .next s) ∧
      (n < t.desc.scratch → ∃ u z, exec (.eccUncorrectableError (.scratch k n)) s = .next u ∧ u.task? k = some z ∧
        n / 64 ∈ z.scratchPoison ∧ z.scratch = t.scratch ∧ z.parties = t.parties)) ∧
    (s.attStatus = 1 → exec .attctlGo s = .next s) ∧
    (s.attStatus ≠ 1 → exec .attestReportDone s = .next s ∧ exec .attctlGo s
      = .next { s with attStatus := 1, attHeld := (List.range 168).map fun i => Cells.get s.attreq i }) ∧
    (s.attStatus = 1 → ∃ t : State, exec .attestReportDone s = .next t ∧ t.vectors = s.vectors ++ [1] ∧
      (s.requestOk = false → t.attStatus = 3 ∧ t.attrsp = s.attrsp) ∧
      (s.requestOk = true → s.attHeld.length = 168 → t.attStatus = 2 ∧ Cells.get t.attrsp 0 = 1#8 ∧
        (∀ i, i < 16 → Cells.get t.attrsp (4 + i) = partNumber.getD i 0) ∧
        (∀ i, i < 32 → Cells.get t.attrsp (84 + i) = (leBytes 32 (s.firmware.digests.headD 0).toNat).getD i 0) ∧
        ∀ i, i < 32 → Cells.get t.attrsp (152 + i) = s.attHeld.getD i 0)) ∧
    (∃ t : State, exec .packageReset s = .next t ∧ t.stage = 1 ∧ t.tasks = [] ∧ t.ops = [] ∧ t.queues = [] ∧ t.heldWrites = [] ∧
      t.wrapped = false ∧ t.firmware = s.firmware ∧ t.fuses = s.fuses ∧
      (s.heldWrites = [] → t.mem = s.mem ∧ t.dies = [] ∧ t.ctxs = [] ∧ t.vectors = [0])) ∧
    (s.stage ≠ 1 → exec (.bootVerificationComplete c) s = .next s) ∧
    (s.stage = 1 → ∃ t : State, exec (.bootVerificationComplete c) s = .next t ∧ t.mem = s.mem ∧ t.tasks = s.tasks ∧
      (c = 0#8 → s.bootFails = [] → t.stage = 3 ∧ t.vectors = s.vectors ++ [0, 0]) ∧
      (c ≠ 0#8 → c.toNat ∈ s.bootFails → t.stage = 15 ∧ t.code = c ∧ t.vectors = s.vectors ++ [0]) ∧
      (c = 0#8 ∧ s.bootFails ≠ [] ∨ c ≠ 0#8 ∧ c.toNat ∉ s.bootFails → t = s)) ∧
    (32 ≤ n → exec (.fabricPortStateChange (.own n) up) s = .next s ∧ ∀ p, exec (.fabricPortStateChange (.far n p) up) s = .next s) ∧
    (n < 32 → (∃ t : State, exec (.fabricPortStateChange (.own n) up) s = .next t ∧ t = { s with portUp := t.portUp } ∧
        ∀ i, i < 32 → t.portUp.getLsbD i = if i = n then up else s.portUp.getLsbD i) ∧
      ∀ p, ∃ t : State, exec (.fabricPortStateChange (.far n p) up) s = .next t ∧ t = { s with farDown := t.farDown } ∧
        ((n, p) ∈ t.farDown ↔ up = false) ∧ ∀ e, e ≠ (n, p) → (e ∈ t.farDown ↔ e ∈ s.farDown)) ∧
    (4096 ≤ ctx → exec (.replctlMismatchClear ctx) s = .next s ∧ exec (.replctlRelease ctx) s = .next s) ∧
    (ctx < 4096 → exec (.replctlMismatchClear ctx) s = .next (s.putCtx ctx { x with mismatch := false }) ∧
      ∃ t : State, exec (.replctlRelease ctx) s = .next t ∧ (t.ctx ctx).held = false ∧ (t.ctx ctx).mismatch = false ∧
        t.mem = s.mem ∧ ((s.tasks.map fun e => e.1).Nodup → ∀ e ∈ s.tasks, e.2.ctx = ctx → e.2.held = true →
          ∃ z, t.task? e.1 = some z ∧ z.held = false ∧ (e.2.phase ≠ .running → z.phase = .resuming) ∧
            (e.2.phase = .running → z.phase = .running ∧ ∀ b, e.2.barrier? 16 = some b → b.arrived.Nodup → ∀ i ∈ b.arrived, ∀ y,
              e.2.parties[i]? = some y → ∃ q, z.parties[i]? = some q ∧ q.hold = .free ∧ q.stack = (y.advance 1).stack))) ∧
    (x.enable = false → exec (.partnerDigestArrival ctx k y) s = .next s) ∧
    (x.enable = true → ∃ t : State, exec (.partnerDigestArrival ctx k y) s = .next t ∧
      (AMap.get? x.localDigests k = none → AMap.get? (t.ctx ctx).partnerDigests k = some y ∧ (t.ctx ctx).mismatch = x.mismatch) ∧
      (∀ z, AMap.get? x.localDigests k = some z → (t.ctx ctx).mismatch = (x.mismatch || z != y))) ∧
    ((AMap.get? x.localDigests k).isSome = true → AMap.get? x.partnerDigests k = none → k ∉ x.silent →
      exec (.partnerSilentExpire ctx k) s = .next ((s.putCtx ctx { x with silent := x.silent ++ [k] }).postEvent 0 0x06 0
        (payloadOf [(16, 8, k), (24, 2, ctx)]))) ∧
    (AMap.get? x.localDigests k = none ∨ (AMap.get? x.partnerDigests k).isSome = true ∨ k ∈ x.silent →
      exec (.partnerSilentExpire ctx k) s = .next s)

/-- Failures of bridges and dies (R331, R334). The first one plans the wrap into the path that starts behind it. One more, on the wrapped
path or on the one about to be, splits it: the longer piece stays, or of two of one length the one with die 0 (log 34 where neither holds
it), with the failures so far and this one to be reported, and the dies of the other piece are marked failed at once. A failure off the
path plans nothing. -/
def Claim.FailuresPlanTheWrap : Prop :=
  ∀ (s : State) (a d : Nat),
    let calm := s.groupBars = [] ∧ s.lateRecs = [] ∧ s.roots = [] ∧ s.queues = [] ∧ AMap.sortedFrom 0 s.tasks = true ∧
      (∀ e ∈ s.dies, e.2.queue = [] ∧ ∀ x ∈ e.2.slots, groupSpans x.2.words = false) ∧ (∀ e ∈ s.ops, ∀ w, e.2.kind ≠ .courier w) ∧
      ∀ e ∈ s.tasks, e.2.phase = .running ∧ e.2.imageWait = false
    let path := fun (p : List Nat) => (s.wrapped = true ∧ s.wrapNext = none ∧ s.path = p) ∨ ∃ l, s.wrapNext = some (l, p)
    let whole := s.wrapped = false ∧ s.wrapNext = none
    let soFar := (s.wrapNext.map fun (x : List (Nat × Nat) × List Nat) => x.1).getD []
    let keeps := fun (l r kept lost : List Nat) => (r.length < l.length ∧ kept = l ∧ lost = r) ∨ (l.length < r.length ∧ kept = r ∧ lost = l) ∨
      (l.length = r.length ∧ 0 ∈ l ∧ kept = l ∧ lost = r) ∨ (l.length = r.length ∧ 0 ∉ l ∧ 0 ∈ r ∧ kept = r ∧ lost = l)
    let splits := fun (i : Instr) (fault : Nat × Nat) (l r : List Nat) => ∀ kept lost, keeps l r kept lost → (lost = [] ∨ calm) →
      ∃ t : State, exec i s = .next t ∧ t.wrapNext = some (soFar ++ [fault], kept) ∧
        ∀ e ∈ lost, (t.die e).failed = true ∧ (t.die e).detected = true
    (8 ≤ a → exec (.bridgeFailure a) s = .next s) ∧
    (a < 8 → whole → ∃ t : State, exec (.bridgeFailure a) s = .next t ∧
      t.wrapNext = some ([(0, a)], (List.range 8).map fun i => (a + 1 + i) % 8) ∧ t.mem = s.mem ∧ t.tasks = s.tasks ∧ t.dies = s.dies ∧
      ∀ k o, AMap.get? s.ops k = some o → (∀ w, o.kind ≠ .courier w) → AMap.get? t.ops k = some o) ∧
    (∀ p, a < 8 → path p → (bridgeAt p a = none → exec (.bridgeFailure a) s = .next s) ∧
      ∀ i, bridgeAt p a = some i → splits (.bridgeFailure a) (0, a) (p.take (i + 1)) (p.drop (i + 1))) ∧
    (8 ≤ d ∨ (s.die d).failed = true → exec (.dieFailure d) s = .next s) ∧
    (d < 8 → (s.die d).failed = false → whole → ∃ t : State, exec (.dieFailure d) s = .next t ∧
      (t.die d).failed = true ∧ t.wrapNext = some ([(1, d)], (List.range 7).map fun i => (d + 1 + i) % 8) ∧ t.mem = s.mem ∧
      t.tasks = s.tasks) ∧
    ∀ p, d < 8 → (s.die d).failed = false → path p →
      (d ∉ p → ∃ t : State, exec (.dieFailure d) s = .next t ∧ (t.die d).failed = true ∧ t.wrapNext = s.wrapNext ∧ t.mem = s.mem ∧
        t.tasks = s.tasks) ∧
      ∀ l r, p = l ++ d :: r → d ∉ l → splits (.dieFailure d) (1, d) l r

/-- A die that was silent for 10 µs is marked failed (R331, R334, R356). Its cores and its operations go, but a queue operation, which the
lowest surviving die goes on with; each of its tasks goes, with a record of TYPE 0x0F, and its parent counts a failed child; a task
elsewhere whose frame lay there fails; other tasks and operations stay. A collective of a group with the die ends with DEADRANK. -/
def Claim.SilenceMarksTheDie : Prop :=
  ∀ (s : State) (d : Nat),
    let calm := s.groupBars = [] ∧ s.lateRecs = [] ∧ s.roots = [] ∧ s.queues = [] ∧ AMap.sortedFrom 0 s.tasks = true ∧
      (∀ e ∈ s.dies, e.2.queue = [] ∧ ∀ x ∈ e.2.slots, groupSpans x.2.words = false) ∧
      ∀ e ∈ s.tasks, e.2.phase = .running ∧ e.2.imageWait = false
    let noCouriers := ∀ e ∈ s.ops, ∀ w, e.2.kind ≠ .courier w
    let marked := s.putDie d { (s.die d) with failed := true, detected := true }
    let front := marked.frontDie
    let slot := (s.die front).eqBase.toNat / 4096 % 2 ^ 44 * 4096 + 64 * ((s.die front).eqTail.toNat % 4096)
    let children := fun (j : Nat) => (s.tasks.filter fun e => e.2.die == d && e.2.parent == Parent.task j).length
    (8 ≤ d ∨ (s.die d).failed = false ∨ (s.die d).detected = true → exec (.dieSilenceTimeout d) s = .next s) ∧
    (d < 8 → (s.die d).failed = true → (s.die d).detected = false → calm → noCouriers → ∃ t : State,
      exec (.dieSilenceTimeout d) s = .next t ∧ (t.die d).detected = true ∧ (t.die d).failed = true ∧ (t.die d).resumes = [] ∧
      (∀ e ∈ t.cores, e.1 / 96 ≠ d) ∧ (∀ e ∈ s.cores, e.1 / 96 ≠ d → ∃ c, (e.1, c) ∈ t.cores ∧ c = { e.2 with fill := c.fill }) ∧
      (∀ k o, AMap.get? s.ops k = some o →
        (o.die ≠ d → AMap.get? t.ops k = some o) ∧
        (o.die = d → (∀ q n, o.source ≠ .queue q n) → AMap.get? t.ops k = none) ∧
        ∀ q n, o.die = d → o.source = .queue q n → AMap.get? t.ops k = some { o with die := front, waiting := [] }) ∧
      (∀ k x, s.task? k = some x → x.die = d → t.task? k = none) ∧
      (∀ k x, s.task? k = some x → x.die ≠ d → marked.frameOn d x = false → ∃ z l, t.task? k = some z ∧
        z = { x with kids := x.kids ++ l, pendingKids := x.pendingKids - children k } ∧ l.length = children k ∧
        ∀ y ∈ l, y.failed = true ∧ y.storeSet = []) ∧
      (∀ k x, s.task? k = some x → x.die ≠ d → marked.frameOn d x = true → ∃ z, t.task? k = some z ∧ z.failed = true) ∧
      ∀ k x, s.tasks = [(k, x)] → x.die = d → s.MemOk → bits (s.die front).eqBase.toNat 12 44 ≠ 0 →
        (s.die front).eqTail - (s.die front).eqHead ≠ 4096#32 → marked.homeFailed slot = false → isRemote slot = false →
        t.mem.readNat slot 1 = 0x0F ∧ t.mem.readNat (slot + 16) 2 = x.ctx % 65536 ∧ t.mem.readNat (slot + 18) 1 = d ∧
          t.mem.readNat (slot + 24) 8 = x.frame.toNat ∧ t.mem.readNat (slot + 32) 8 = x.cidx.toNat) ∧
    ∀ id o w, d < 8 → (s.die d).failed = true → (s.die d).detected = false → calm → s.tasks = [] → s.ops = [(id, o)] →
      o.kind = .courier w → w.kind < 3 → w.kind ≠ 2 → groupSpans w.defn = false → d ∈ s.courierRing w → o.die ∈ s.courierRing w →
      (s.die o.die).failed = false → o.twins = [] →
      ∃ t : State, exec (.dieSilenceTimeout d) s = .next t ∧ AMap.get? t.ops id = none ∧ (t.slot o.die o.ctx w.slot).lastErr = 5

/-- The wrap takes effect once every failed die is detected (R331, log 67): until then nothing changes; a transfer whose way is open is
staged by its receiver, and the sender of a step's result then needs its operand no more; one whose collective has ended is dropped (R320,
R324). -/
def Claim.WrapsAndTransfers : Prop :=
  ∀ (s : State) (id : Nat) (x : Xfer) (o : Op) (w : CourierWork) (k : Nat),
    let quiet := fun (i : Nat) => (s.die i).failed = true → (s.die i).detected = true
    (s.wrapNext = none → exec .ringWrapComplete s = .next s) ∧
    (∀ l p, s.wrapNext = some (l, p) → ((∃ i, i < 8 ∧ ¬quiet i) → exec .ringWrapComplete s = .next s) ∧
      ((∀ i, i < 8 → quiet i) → ∃ t : State, exec .ringWrapComplete s = .next t ∧ t.wrapped = true ∧ t.path = p ∧
        t.wrapNext = none ∧ t.tasks = s.tasks ∧ ∀ i, i < 8 → t.deadMask.getLsbD i = (s.die i).detected)) ∧
    (AMap.get? s.xfers id = none → exec (.ringTransferArrival id) s = .next s) ∧
    (AMap.get? s.xfers id = some x → (x.rail = true ∨ s.xferOpen x = false → exec (.ringTransferArrival id) s = .next s) ∧
      (x.rail = false → s.xferOpen x = true → x.phase ≠ 3 →
        (s.courierAt x = none → exec (.ringTransferArrival id) s = .next { s with xfers := AMap.erase s.xfers id }) ∧
        (s.courierAt x = some (k, o, w) → ∃ t v, exec (.ringTransferArrival id) s = .next t ∧
          t.xfers = AMap.erase s.xfers id ∧ t.mem = s.mem ∧ AMap.get? t.ops k = some { o with kind := .courier v } ∧
          AMap.get? v.partials (64 * x.seg + x.chunk + if x.phase = 1 then 16 else 32) = some x.data ∧
          ∀ o' w', x.phase = 1 → x.op ≠ k → AMap.get? s.ops x.op = some o' → o'.kind = .courier w' → ∃ v',
            AMap.get? t.ops x.op = some { o' with kind := .courier v' } ∧
            AMap.get? v'.partials (2 ^ 30 + 64 * x.seg + x.chunk) = none)))

/-- Failures, their detection, and the wrap (R320, R331 to R335, R356). -/
def Obligations.FailureEventsComplete : Prop := Claim.FailuresPlanTheWrap ∧ Claim.SilenceMarksTheDie ∧ Claim.WrapsAndTransfers

/-- The sending side of the network engine (R374, R380, R384, R387, R389, R390): a port's state, and ENABLE, whose clearing ends every message
with LASTERR 3, as a port's 20 µs down ends it with 5. The packet of the peer whose turn it is leaves with the bytes that its message has
there, its PSN and its entropy, and is remembered; one sent again is counted; a poisoned line of a WRITE or a SEND ends the message with 4,
and what answers a READ carries it along (log 59). -/
def Claim.EngineSends : Prop :=
  ∀ (s : State) (d id i : Nat) (up again : Bool) (v : BitVec 64) (o : Op) (w : NetWork),
    let n := (s.die d).net
    let rec_ := n.peerRec w.peer
    let off := bit n.cfg.toNat 63 = false ∨ n.up = false ∨ (s.die d).failed = true
    let va := (w.laddr + i * w.payload) % 2 ^ 64
    let many := min w.payload (w.len - i * w.payload)
    let sends := ((rec_.out.find? fun x => x.psn == w.base + i).map fun (x : OutPacket) => x.sends).getD 0
    let leaves := fun (data : List Byte) (poison : List (Nat × Nat)) => ∃ t hop q, exec (.netPacketSend d) s = .next t ∧ t.mem = s.mem ∧
      (t.die d).net.wire = n.wire ++ [.packet ((w.reply.map fun (x : BitVec 128 × Nat) => x.1).getD (s.peerIp n w.peer)) hop
        (w.entropy i sends) q] ∧
      q.psn = w.base + i ∧ q.opc = w.opc ∧ q.moff = i * w.payload ∧ q.len = w.len ∧ q.data = data ∧ q.poison = poison ∧ q.intact = true ∧
      (again = false → AMap.get? t.ops id = some { o with progress := o.progress + 1 } ∧ ((t.die d).net.peerRec w.peer).out = rec_.out
        ++ [{ psn := w.base + i, op := id, index := i, sends := 1, higher := [], due := false }]) ∧
      (again = true → (t.die d).net.retrans = n.retrans + 1 ∧ ((t.die d).net.peerRec w.peer).retrans = rec_.retrans + 1 ∧
        ((t.die d).net.peerRec w.peer).out = rec_.out.map fun x =>
          if x.psn = w.base + i then { x with sends := x.sends + 1, higher := [], due := false } else x)
    (∃ t : State, exec (.netPortStateChange d up) s = .next t ∧ (t.die d).net = { n with up := up } ∧
      (n.up = false ∨ up = true → t.mem = s.mem)) ∧
    (bit v.toNat 63 = true → exec (.netcfgEnableClear d v) s = .next s) ∧
    (bit v.toNat 63 = false → s.netOps d = [] → ∃ t : State, exec (.netcfgEnableClear d v) s = .next t ∧
      (t.die d).net = { n with cfg := v &&& 0x8000FFFFFFFFFFFF#64 } ∧ t.mem = s.mem) ∧
    (bit v.toNat 63 = false → s.netOps d ≠ [] → ∃ t : State, exec (.netcfgEnableClear d v) s = .next t ∧
      (t.die d).net.lastErr = 3 ∧ t.netOps d = []) ∧
    (n.up = true → exec (.netPortDownTimeout d) s = .next s) ∧
    (n.up = false → s.netOps d ≠ [] → ∃ t : State, exec (.netPortDownTimeout d) s = .next t ∧
      (t.die d).net.lastErr = 5 ∧ t.netOps d = []) ∧
    (off ∨ s.netOps d = [] → exec (.netPacketSend d) s = .next s) ∧
    (¬off → o.die = d → (s.peerRound d).findSome? (fun i => s.peerReady d i) = some (id, o, w, i, again) →
      (w.opc = 3 → leaves [] []) ∧
      (w.opc = 5 → leaves (s.railBytes w i).1 (s.railBytes w i).2) ∧
      (∀ data bad, w.opc = 1 ∨ w.opc = 2 → s.gatherAt id o va many = (data, bad, .go) →
        (bad = [] → leaves data []) ∧
        (bad ≠ [] → ∃ t : State, exec (.netPacketSend d) s = .next t ∧ (t.die d).net.lastErr = 4 ∧ AMap.get? t.ops id = none)) ∧
      ∀ data bad, w.opc = 4 → s.gatherAt id o va many = (data, bad, .go) →
        leaves data (bad.map fun a => (a - va, min (64 - a % 64) (many - (a - va)))))

/-- Acknowledgements, losses and refusals (R375, R376, R390): a packet that a SACK names is counted, and the last one bumps LCTR and ends the
message; one that three higher ones overtake, or 20 µs pass, is due again, and after its seven resends its message ends with 2; a refusal
ends with 1 the message that holds its PSN. -/
def Claim.AcknowledgementsCount : Prop :=
  ∀ (s : State) (d peer psn fpa : Nat) (x : OutPacket) (o : Op) (w : NetWork) (l : Leaf),
    let n := (s.die d).net
    let rec_ := n.peerRec peer
    let acked := { o with kind := OpKind.net { w with acked := addNew w.acked x.index } }
    let sacked := s.modNet d fun n => n.modPeer peer fun p => p.acknowledge [psn]
    let ends := fun (i : Instr) (code : Nat) => ∃ t : State, exec i s = .next t ∧ (t.die d).net.lastErr = code ∧
      AMap.get? t.ops x.op = none
    (rec_.out = [x] → x.psn = psn → AMap.get? s.ops x.op = some o → o.kind = .net w → o.twins = [] →
      let whole := (addNew w.acked x.index).length = w.count ∧ (w.opc = 3 → w.got.length = packetsOf w.len w.payload)
      ∃ t : State, exec (.sackReceive d peer [psn]) s = .next t ∧ ((t.die d).net.peerRec peer).out = [] ∧
        (¬whole → AMap.get? t.ops x.op = some acked ∧ t.mem = s.mem) ∧
        (whole → w.opc = 4 ∨ w.lctr = 0 → AMap.get? t.ops x.op = none ∧ t.mem = s.mem) ∧
        (whole → 1 ≤ w.opc → w.opc ≤ 3 → w.lctr ≠ 0 → s.MemOk → fpa % 8 = 0 → s.homeFailed fpa = false → fpa / 64 ∉ s.badCheck →
          (∃ va, (sacked.putOp x.op { acked with noted := [] }).engineLook x.op { acked with noted := [] } .atomic w.lctr
            = .mem va fpa l) →
          AMap.get? t.ops x.op = none ∧ t.mem.readNat fpa 8 = (s.mem.readNat fpa 8 + 1) % 2 ^ 64 ∧
          ∀ a, a < fpa ∨ fpa + 8 ≤ a → t.mem.read a = s.mem.read a)) ∧
    (∀ psns : List Nat, rec_.out = [x] → x.psn ∉ psns → x.due = false → x.higher = [] → rec_.reported = [] → psns.Nodup →
      (∀ y ∈ psns, x.psn < y ∧ y < rec_.nextPsn) → x.sends ≤ 7 →
      ∃ t : State, exec (.sackReceive d peer psns) s = .next t ∧ t.mem = s.mem ∧ t.ops = s.ops ∧
        ((t.die d).net.peerRec peer).out = [{ x with higher := psns, due := decide (3 ≤ psns.length) }]) ∧
    ((∀ y ∈ rec_.out, y.psn ≠ psn) → exec (.retransmitTimeout d peer psn) s = .next s) ∧
    (rec_.out = [x] → x.psn = psn → x.due = false → x.sends ≤ 7 → ∃ t : State, exec (.retransmitTimeout d peer psn) s = .next t ∧
      ((t.die d).net.peerRec peer).out = [{ x with due := true }] ∧ t.mem = s.mem) ∧
    (rec_.out = [x] → x.psn = psn → x.due = false → 7 < x.sends → AMap.get? s.ops x.op = some o → o.kind = .net w → o.die = d →
      ends (.retransmitTimeout d peer psn) 2) ∧
    ((∀ e ∈ s.netOps d, ¬(e.2.2.peer = peer ∧ e.2.2.base ≤ psn ∧ psn < e.2.2.base + e.2.2.count)) →
      exec (.nakReceive d peer psn) s = .next s) ∧
    (s.netOps d = [(x.op, o, w)] → w.peer = peer → w.base ≤ psn → psn < w.base + w.count → ends (.nakReceive d peer psn) 1)

/-- A message's work at the receiver, piece by piece (R376, R386 to R388, log 81): a SEND takes the slot at TAIL in its turn, and TAIL goes
on, or its packets are lost where the ring is full; a packet's bytes land at the region's base plus ROFF, or in the slot behind its
header, plus MOFF; with the last one placed the SEND's header is written, then READY; then, in its turn, the message's counter is bumped
and it ends. Under ROD a packet waits for the messages before it. -/
def Claim.MessagesArePlaced : Prop :=
  ∀ (s : State) (id : Nat) (o : Op) (p : NetPacket) (placed : List Nat) (slot : Option Nat) (held : List NetPacket),
    o.kind = .recv p.srcIp p.msg placed slot (p :: held) →
    let r := s.region (s.die o.die).net p.rkey
    let ring := r.size / 2 ^ r.logsz - 1
    let slotAt := fun (k : Nat) => r.base + 2 ^ r.logsz * (k + 1)
    let va := if p.opc = 2 then slotAt (slot.getD 0) + 16 + p.moff else r.base + p.roff + p.moff
    let kind := fun (placed : List Nat) (slot : Option Nat) (held : List NetPacket) => OpKind.recv p.srcIp p.msg placed slot held
    let total := (p.len + 1024 * 2 ^ p.mtu - 1) / (1024 * 2 ^ p.mtu)
    let done := addNew placed p.moff
    let plain := fun (_ : Nat) => false
    (∀ k, s.opFree o = false → AMap.get? s.ops id = some o → s.recvRun id k = s) ∧
    (∀ k, s.opFree o = true → AMap.get? s.ops id = some o → s.recvRun id (k + 1) = (s.recvOne id o p held).recvRun id k) ∧
    (p.opc = 2 → slot = none → s.slotWaits id o p = true → s.recvOne id o p held = s) ∧
    (∀ h tl : Nat, p.opc = 2 → slot = none → s.slotWaits id o p = false → s.gatherNat id o r.base 8 = (h, .go) →
      s.gatherNat id o (r.base + 8) 8 = (tl, .go) →
      (ring ≤ (tl + 2 ^ 64 - h) % 2 ^ 64 → s.recvOne id o p held = { s with ops := AMap.erase s.ops id }) ∧
      ∀ u o1, (tl + 2 ^ 64 - h) % 2 ^ 64 < ring → held = [] → p.dmode = 0 →
        s.scatterAt id o (r.base + 8) (leBytes 8 ((tl + 1) % 2 ^ 64)) plain = (u, o1, .go) →
        s.recvOne id o p held = ((u.markSeen o.die p).sack o.die p.srcIp).putOp id { o1 with kind := kind [] (some (tl % ring)) [p] }) ∧
    (p.opc ≠ 2 ∨ slot ≠ none → s.rodWaits id o p = true → s.recvOne id o p held = s) ∧
    (p.opc ≠ 2 ∨ slot ≠ none → s.rodWaits id o p = false →
      (∀ u o1, o.progress = 0 → s.rudiDone o.die p = false →
        s.scatterAt id o va (s.landing id o va p.data) (fun i => p.poison.any fun x => x.1 ≤ i && i < x.1 + x.2) = (u, o1, .go) →
        (s.recvOne id o p held).mem = u.mem ∧
        (total ≤ done.length → AMap.get? (s.recvOne id o p held).ops id
          = some { o1 with progress := 1, kind := kind done slot (p :: held) }) ∧
        (done.length < total → AMap.get? (s.recvOne id o p held).ops id = some { o1 with kind := kind done slot held })) ∧
      (o.progress = 1 → slot = none → s.recvOne id o p held = s.putOp id { o with progress := 2 }) ∧
      (∀ k u v o1 o2, o.progress = 1 → slot = some k →
        s.scatterAt id o (slotAt k) (leBytes 4 p.tag.toNat ++ leBytes 4 p.len ++ leBytes 2 (s.peerOf (s.die o.die).net p.srcIp)) plain
          = (u, o1, .go) →
        u.scatterAt id o1 (slotAt k + 12) (leBytes 4 1) plain = (v, o2, .go) →
        s.recvOne id o p held = v.putOp id { o2 with progress := 2 }) ∧
      (2 ≤ o.progress → s.bumpWaits id o p = true → s.recvOne id o p held = s) ∧
      (2 ≤ o.progress → s.bumpWaits id o p = false → o.twins = [] →
        (p.rcoff = 0xFFFFFFFFFFFFFFFF#64 → AMap.get? (s.recvOne id o p held).ops id = none ∧ (s.recvOne id o p held).mem = s.mem) ∧
        ∀ fpa l, p.rcoff ≠ 0xFFFFFFFFFFFFFFFF#64 → r.base + p.rcoff.toNat ≠ 0 → s.MemOk → fpa % 8 = 0 → s.homeFailed fpa = false →
          fpa / 64 ∉ s.badCheck →
          (∃ y, (s.putOp id { o with noted := [] }).engineLook id { o with noted := [] } .atomic (r.base + p.rcoff.toNat)
            = .mem y fpa l) →
          AMap.get? (s.recvOne id o p held).ops id = none ∧
          (s.recvOne id o p held).mem.readNat fpa 8 = (s.mem.readNat fpa 8 + 1) % 2 ^ 64 ∧
          ∀ a, a < fpa ∨ fpa + 8 ≤ a → (s.recvOne id o p held).mem.read a = s.mem.read a)) ∧
    ((s.die o.die).net.held = [] → (∀ q ∈ p :: held, q.dmode ≠ 1) → AMap.get? s.ops id = some o → s.opFree o = true →
      exec (.engineOpComplete id) s = .next (s.recvRun id (held.length + 4)))

/-- The receiving side of the network engine (R375, R379, R382, R386 to R392): what is lost, refused, held beyond a gap or kept for the rail,
and what is acknowledged. A WRITE's packet waits for its page's walk, or leaves its bytes at the region's base plus ROFF and MOFF, and the
last one of a message without a counter ends it; a READ begins a message of its own back to the peer, of as many packets as the READ asks for (log 59); a READ's
response leaves its bytes at LADDR, and the last one ends the READ. News of a failed die reaches every die's slot. -/
def Claim.PacketsAreReceived : Prop :=
  ∀ (s : State) (d : Nat) (p : NetPacket),
    let n := (s.die d).net
    let off := bit n.cfg.toNat 63 = false ∨ n.up = false ∨ (s.die d).failed = true
    let r := s.region n p.rkey
    let seen := n.seen ++ [(p.srcIp, p.psn)]
    let sack := WireItem.sack p.srcIp ((seen.filter fun x => x.1 == p.srcIp).map (·.2)
      ++ (n.held.filter fun x => x.srcIp == p.srcIp).map (·.psn))
    let took := { n with seen := seen, wire := n.wire ++ [sack] }
    let s1 := (s.markSeen d p).sack d p.srcIp
    let total := (p.len + 1024 * 2 ^ p.mtu - 1) / (1024 * 2 ^ p.mtu)
    let plain := fun (s : State) (id : Nat) (o : Op) (va fpa : Nat) (l : Leaf) => s.MemOk ∧ s.opFree o = true ∧ 1 ≤ p.data.length ∧
      s.engineLook id o .write va = .mem va fpa l ∧ l.shadow = false ∧ s.homeFailed fpa = false ∧ fpa / 64 ∉ s.badCheck ∧
      va % 64 + p.data.length ≤ 64 ∧ fpa % 64 = va % 64 ∧ p.poison = [] ∧
      ∀ x ∈ s.past, ∀ i, i < p.data.length → AMap.get? x.old (fpa + i) = none
    let stands := fun (t : State) (fpa : Nat) => (∀ i, i < p.data.length → t.mem.read (fpa + i) = p.data.getD i 0) ∧
      ∀ a, a < fpa ∨ fpa + p.data.length ≤ a → t.mem.read a = s.mem.read a
    (off ∨ p.intact = false ∨ p.opc = 0 ∨ 5 < p.opc ∨ 2 < p.dmode ∨ 2 < p.mtu ∨ 4096 < p.data.length →
      exec (.netPacketReceive d p) s = .next s) ∧
    (¬off → p.intact = true → 1 ≤ p.opc → p.opc ≤ 5 → p.dmode ≤ 2 → p.mtu ≤ 2 → p.data.length ≤ 4096 →
      (p.dmode ≠ 2 → s.hasPacket d p = true → exec (.netPacketReceive d p) s = .next s) ∧
      (s.hasPacket d p = false → n.held = [] →
        (p.opc = 5 → isDeadNews p = false ∨ s.groupBars = [] → ∃ t : State, exec (.netPacketReceive d p) s = .next t ∧
          t.ops = s.ops ∧ t.mem = s.mem ∧ (t.die d).net = took ∧
          (isDeadNews p = false → (t.die d).rails = if s.railLate d p then (s.die d).rails else (s.die d).rails ++ [p]) ∧
          (isDeadNews p = true → ∀ e, e < 8 →
            p.rcoff.toNat % 2 ^ 32 ∈ (t.slot e (p.rkey.toNat / 64) (p.rkey.toNat % 64)).dead)) ∧
        (p.opc ≤ 3 → r.admits p = false → ∃ t : State, exec (.netPacketReceive d p) s = .next t ∧
          (t.die d).net = { n with seen := seen, wire := n.wire ++ [.nak p.srcIp p.psn] } ∧ t.ops = s.ops) ∧
        (p.opc = 1 ∨ p.opc = 3 → r.admits p = true → p.dmode = 1 → n.inOrder p = false →
          ∃ t : State, exec (.netPacketReceive d p) s = .next t ∧ t.ops = s.ops ∧ t.mem = s.mem ∧ (t.die d).net.held = [p] ∧
            (t.die d).net.seen = n.seen) ∧
        (p.opc = 3 → r.admits p = true → p.dmode ≠ 1 ∨ n.inOrder p = true → p.len < 2 ^ 32 →
          ∃ t o w, exec (.netPacketReceive d p) s = .next t ∧ t.mem = s.mem ∧ AMap.get? t.ops s.nextId = some (o : Op) ∧
            o.kind = .net w ∧ o.die = d ∧ o.ctx = r.ctx ∧ o.progress = 0 ∧ w.opc = 4 ∧ w.reply = some (p.srcIp, p.msg) ∧
            w.laddr = (r.base + p.roff) % 2 ^ 64 ∧ w.len = p.len ∧ w.payload = 1024 * 2 ^ p.mtu ∧ w.count = total ∧
            w.base = (n.peerRec (s.peerKey n p.srcIp)).nextPsn ∧ (t.die d).net.seen = seen ∧ (t.die d).net.wire = n.wire ++ [sack]) ∧
        (p.opc = 1 → r.admits p = true → p.dmode ≠ 1 → s.rudiDone d p = false →
          let va := r.base + p.roff + p.moff
          (s.recvOp d p = none → ∀ y a,
            let o := s1.recvStart d p
            let s2 := { s1 with nextId := s.nextId + 1 }.putOp s.nextId o
            s2.opFree o = true → 1 ≤ p.data.length → s2.engineLook s.nextId o .write va = .stop (.miss y a) →
            ∃ t : State, exec (.netPacketReceive d p) s = .next t ∧ t.mem = s.mem ∧ (t.die d).net.seen = seen ∧
              AMap.get? t.ops s.nextId = some { o with waiting := [y] }) ∧
          ∀ id o placed fpa l, s.recvOp d p = some (id, o) → o.kind = .recv p.srcIp p.msg placed none [] → p.moff ∉ placed →
            o.progress = 0 → o.twins = [] → o.noted = [] →
            let o1 := { o with kind := OpKind.recv p.srcIp p.msg placed none [p] }
            let more := placed.length + 1 < total
            plain (s1.putOp id o1) id o1 va fpa l → ∃ t : State, exec (.netPacketReceive d p) s = .next t ∧
              (p.rcoff = 0xFFFFFFFFFFFFFFFF#64 ∨ more → stands t fpa) ∧ (t.die d).net.seen = seen ∧
              (more → ∃ o2, AMap.get? t.ops id = some o2 ∧ o2.kind = .recv p.srcIp p.msg (placed ++ [p.moff]) none []) ∧
              (¬more → n.whole = [] → p.rcoff = 0xFFFFFFFFFFFFFFFF#64 → (∀ x, s.pendingSeen x = false) →
                AMap.get? t.ops id = none)) ∧
        (p.opc = 4 → (∀ e ∈ s.netOps d, ¬(e.2.2.opc = 3 ∧ e.2.2.base = p.msg ∧ s.peerIp n e.2.2.peer = p.srcIp)) →
          exec (.netPacketReceive d p) s = .next s1) ∧
        ∀ id o w fpa l, p.opc = 4 → s.netOps d = [(id, o, w)] → w.opc = 3 → w.base = p.msg → s.peerIp n w.peer = p.srcIp →
          w.held = [] → p.moff ∉ w.got → o.twins = [] →
          let w1 := { w with held := [p] }
          let o1 := { o with kind := OpKind.net w1 }
          let more := w.acked.length ≠ w.count ∨ w.got.length + 1 ≠ packetsOf w.len w.payload
          plain (s1.putOp id o1) id o1 ((w.laddr + p.moff) % 2 ^ 64) fpa l → ∃ t : State, exec (.netPacketReceive d p) s = .next t ∧
            (more ∨ w.lctr = 0 → stands t fpa) ∧
            (more → ∃ o2, AMap.get? t.ops id = some o2 ∧ o2.kind = .net { w with got := w.got ++ [p.moff], held := [] }) ∧
            (¬more → w.lctr = 0 → AMap.get? t.ops id = none)))

/-- The network engine's events (R374 to R376, R379 to R393). -/
def Obligations.NetworkEventsComplete : Prop :=
  Claim.EngineSends ∧ Claim.AcknowledgementsCount ∧ Claim.MessagesArePlaced ∧ Claim.PacketsAreReceived

/-! ## Frames (R47, R59) -/

/-- The frame of every word whose next state is `passed` or `became` with a party in these statements: nothing but the executing
party changes, no byte of memory, no other task, no other party, no device; and moving past a word changes nothing of the
party but where its path stands. With `RegisterWritesReadBack` this is the frame of the vector, uniform, predicate, floating-point, lane,
move and control words: every other register, lane, predicate, flag and special register reads as before. -/
def Obligations.RegisterWordsChangeOnePartyAlone : Prop :=
  ∀ (s t : State) (c : Exec) (n : Nat) (p : Party), s.current = some c →
    let alone := fun (y : Party) => t = { s with tasks := t.tasks } ∧ (∀ a, t.mem.read a = s.mem.read a) ∧
      (∀ k, k ≠ c.tid → t.task? k = s.task? k) ∧
      ∃ x, t.task? c.tid = some x ∧ x = { c.task with parties := x.parties } ∧ x.parties.length = c.task.parties.length ∧
        x.parties[c.pi]? = some y ∧ ∀ i, i ≠ c.pi → x.parties[i]? = c.task.parties[i]?
    let special := fun (p' : Party) => p'.aflags = p.aflags ∧ p'.vwb = p.vwb ∧ p'.swb = p.swb ∧ p'.ix = p.ix ∧ p'.lnk = p.lnk ∧
      p'.gang = p.gang ∧ p'.tmask = p.tmask ∧ p'.tcause = p.tcause ∧ p'.xpc = p.xpc ∧ p'.cf = p.cf ∧ p'.pend = p.pend ∧
      p'.stack = p.stack ∧ p'.hold = p.hold ∧ p'.openBatch = p.openBatch
    (s.passed c n p = .next t → alone (p.advance n)) ∧
    (s.became c p = .next t → alone p) ∧
    p.advance n = { p with stack := (p.advance n).stack } ∧ (p.advance n).stack.tail = p.stack.tail ∧
    (∀ r f, special (p.setV r f) ∧ (p.setV r f).preds = p.preds ∧ (p.setV r f).q = p.q ∧ (p.setV r f).u = p.u) ∧
    (∀ r x, special (p.setU r x) ∧ (p.setU r x).preds = p.preds ∧ (p.setU r x).q = p.q ∧ (p.setU r x).v = p.v) ∧
    (∀ k x, special (p.setPred k x) ∧ (p.setPred k x).q = p.q ∧ (p.setPred k x).v = p.v ∧ (p.setPred k x).u = p.u ∧
      ∀ j, j ≠ k → (p.setPred k x).pred j = p.pred j) ∧
    ∀ k b, special (p.setQ k b) ∧ (p.setQ k b).preds = p.preds ∧ (p.setQ k b).v = p.v ∧ (p.setQ k b).u = p.u ∧
      ∀ j, j ≠ k → (p.setQ k b).upred j = p.upred j
end

