-- ==== Sys2Proof/Laws/Maps.lean ====
section
/-! SUPPORT. Laws of the sparse maps: a read after a write, other keys left alone, and that every operation of a memory keeps
its canonical form (log 1). -/

namespace Sys2Proof.Laws

open Sys2Proof Sys2Proof.Machine

/-! ## Maps by key -/

section
variable {α : Type}

theorem get_insert (m : AMap α) (k j : Nat) (v : α) : AMap.get? (AMap.insert m k v) j = if j = k then some v else AMap.get? m j := by
  induction m with
  | nil => simp [AMap.insert, AMap.get?]
  | cons e r ih =>
    obtain ⟨k', v'⟩ := e
    simp only [AMap.insert]
    split
    · simp only [AMap.get?]
    · split
      · next h => subst h; simp only [AMap.get?]; split <;> rfl
      · next h h' =>
        simp only [AMap.get?, ih]
        split
        · next e => subst e; simp [Ne.symm h']
        · rfl

@[simp] theorem get_insert_self (m : AMap α) (k : Nat) (v : α) : AMap.get? (AMap.insert m k v) k = some v := by simp [get_insert]

theorem get_insert_other {k j : Nat} (h : j ≠ k) (m : AMap α) (v : α) : AMap.get? (AMap.insert m k v) j = AMap.get? m j := by
  simp [get_insert, h]

/-- A map that rises from above `k` holds nothing at `k`. -/
theorem get_below {m : AMap α} {lo k : Nat} (h : AMap.sortedFrom lo m = true) (hk : k < lo) : AMap.get? m k = none := by
  induction m generalizing lo with
  | nil => rfl
  | cons e r ih =>
    obtain ⟨k', v'⟩ := e
    simp only [AMap.sortedFrom, Bool.and_eq_true, decide_eq_true_eq] at h
    simp only [AMap.get?]
    split
    · omega
    · exact ih h.2 (by omega)

theorem sorted_mono {m : AMap α} {lo hi : Nat} (h : AMap.sortedFrom hi m = true) (hl : lo ≤ hi) : AMap.sortedFrom lo m = true := by
  cases m with
  | nil => rfl
  | cons e r =>
    obtain ⟨k', v'⟩ := e
    simp only [AMap.sortedFrom, Bool.and_eq_true, decide_eq_true_eq] at h ⊢
    exact ⟨by omega, h.2⟩

theorem sorted_insert {m : AMap α} {lo k : Nat} (v : α) (h : AMap.sortedFrom lo m = true) (hk : lo ≤ k) :
    AMap.sortedFrom lo (AMap.insert m k v) = true := by
  induction m generalizing lo with
  | nil => simpa [AMap.insert, AMap.sortedFrom] using hk
  | cons e r ih =>
    obtain ⟨k', v'⟩ := e
    simp only [AMap.sortedFrom, Bool.and_eq_true, decide_eq_true_eq] at h
    simp only [AMap.insert]
    split
    · simp only [AMap.sortedFrom, Bool.and_eq_true, decide_eq_true_eq]
      exact ⟨hk, by omega, h.2⟩
    · split
      · next e => subst e; simpa only [AMap.sortedFrom, Bool.and_eq_true, decide_eq_true_eq] using h
      · simp only [AMap.sortedFrom, Bool.and_eq_true, decide_eq_true_eq]
        exact ⟨h.1, ih h.2 (by omega)⟩

theorem sorted_erase {m : AMap α} {lo : Nat} (k : Nat) (h : AMap.sortedFrom lo m = true) :
    AMap.sortedFrom lo (AMap.erase m k) = true := by
  induction m generalizing lo with
  | nil => rfl
  | cons e r ih =>
    obtain ⟨k', v'⟩ := e
    simp only [AMap.sortedFrom, Bool.and_eq_true, decide_eq_true_eq] at h
    simp only [AMap.erase]
    split
    · exact sorted_mono (ih h.2) (by omega)
    · simp only [AMap.sortedFrom, Bool.and_eq_true, decide_eq_true_eq]
      exact ⟨h.1, ih h.2⟩

theorem sorted_filter {m : AMap α} {lo : Nat} (f : Nat × α → Bool) (h : AMap.sortedFrom lo m = true) :
    AMap.sortedFrom lo (m.filter f) = true := by
  induction m generalizing lo with
  | nil => rfl
  | cons e r ih =>
    obtain ⟨k', v'⟩ := e
    simp only [AMap.sortedFrom, Bool.and_eq_true, decide_eq_true_eq] at h
    simp only [List.filter]
    split
    · simp only [AMap.sortedFrom, Bool.and_eq_true, decide_eq_true_eq]
      exact ⟨h.1, ih h.2⟩
    · exact sorted_mono (ih h.2) (by omega)

theorem get_erase (m : AMap α) (k j : Nat) : AMap.get? (AMap.erase m k) j = if j = k then none else AMap.get? m j := by
  induction m with
  | nil => simp [AMap.erase, AMap.get?]
  | cons e r ih =>
    obtain ⟨k', v'⟩ := e
    simp only [AMap.erase]
    split
    · next e =>
      subst e
      simp only [AMap.get?, ih]
      split <;> rfl
    · next hne =>
      simp only [AMap.get?, ih]
      split
      · next e => subst e; simp [Ne.symm hne]
      · rfl

theorem get_modify (m : AMap α) (k j : Nat) (f : α → α) :
    AMap.get? (AMap.modify m k f) j = if j = k then (AMap.get? m k).map f else AMap.get? m j := by
  unfold AMap.modify
  split
  · next v h => rw [get_insert, h]; rfl
  · next h =>
    split
    · next e => subst e; rw [h]; rfl
    · rfl

theorem all_insert {m : AMap α} {k : Nat} {v : α} {f : Nat × α → Bool} (h : m.all f = true) (hv : f (k, v) = true) :
    (AMap.insert m k v).all f = true := by
  induction m with
  | nil => simp [AMap.insert, hv]
  | cons e r ih =>
    obtain ⟨k', v'⟩ := e
    simp only [List.all_cons, Bool.and_eq_true] at h
    simp only [AMap.insert]
    split
    · simp [hv, h.1, h.2]
    · split
      · simp [hv, h.2]
      · simp [h.1, ih h.2]

theorem all_erase {m : AMap α} {f : Nat × α → Bool} (k : Nat) (h : m.all f = true) : (AMap.erase m k).all f = true := by
  induction m with
  | nil => rfl
  | cons e r ih =>
    obtain ⟨k', v'⟩ := e
    simp only [List.all_cons, Bool.and_eq_true] at h
    simp only [AMap.erase]
    split
    · exact ih h.2
    · simp [h.1, ih h.2]

end

/-! ## Cells -/

section
variable {w : Nat}

theorem cells_wf_iff (m : Cells w) : Cells.wf m = true ↔ AMap.sortedFrom 0 m = true ∧ m.all (fun e => e.2 != 0#w) = true := by
  simp only [Cells.wf, Bool.and_eq_true]

theorem cells_wf_set {m : Cells w} (h : Cells.wf m = true) (k : Nat) (v : BitVec w) : Cells.wf (Cells.set m k v) = true := by
  rw [cells_wf_iff] at h ⊢
  unfold Cells.set
  split
  · exact ⟨sorted_erase k h.1, all_erase k h.2⟩
  · next hv => exact ⟨sorted_insert v h.1 (Nat.zero_le k), all_insert h.2 (by simpa using hv)⟩

theorem cells_wf_filter {m : Cells w} (h : Cells.wf m = true) (f : Nat × BitVec w → Bool) : Cells.wf (m.filter f) = true := by
  rw [cells_wf_iff] at h ⊢
  exact ⟨sorted_filter f h.1, List.all_eq_true.mpr fun e he => List.all_eq_true.mp h.2 e (List.mem_filter.mp he).1⟩

/-- A read after a write: the value written, and elsewhere what was there. -/
theorem cells_get_set (m : Cells w) (k j : Nat) (v : BitVec w) :
    Cells.get (Cells.set m k v) j = if j = k then v else Cells.get m j := by
  unfold Cells.set Cells.get
  split
  · next hv =>
    rw [get_erase]
    split
    · simp [hv]
    · rfl
  · rw [get_insert]
    split <;> rfl

end

/-! ## Memory -/

theorem wf_nil : Memory.wf [] = true := rfl

theorem wf_write {m : Memory} (h : Memory.wf m = true) (a : Nat) (v : Byte) : Memory.wf (m.write a v) = true := cells_wf_set h a v

theorem wf_writeBytes {m : Memory} (h : Memory.wf m = true) (a : Nat) (bs : List Byte) : Memory.wf (m.writeBytes a bs) = true := by
  induction bs generalizing m a with
  | nil => exact h
  | cons b bs ih => exact ih (wf_write h a b) (a + 1)

theorem wf_writeNat {m : Memory} (h : Memory.wf m = true) (a n v : Nat) : Memory.wf (m.writeNat a n v) = true :=
  wf_writeBytes h a (leBytes n v)

theorem wf_filter {m : Memory} (h : Memory.wf m = true) (f : Nat × Byte → Bool) : Memory.wf (m.filter f) = true := cells_wf_filter h f

theorem wf_foldl_write (l : List (Nat × Byte)) (a : Nat × Byte → Nat) {m : Memory} (h : Memory.wf m = true) :
    Memory.wf (l.foldl (fun m e => m.write (a e) e.2) m) = true := by
  induction l generalizing m with
  | nil => exact h
  | cons x l ih => exact ih (wf_write h _ _)

theorem wf_copyRange {m : Memory} (h : Memory.wf m = true) (src dst n : Nat) : Memory.wf (m.copyRange src dst n) = true :=
  wf_foldl_write _ (fun e => e.1 - src + dst) (wf_filter h _)

theorem read_write (m : Memory) (a b : Nat) (v : Byte) :
    (m.write a v).read b = if b = a then v else m.read b := cells_get_set m a b v

/-- A byte of memory after bytes are written from `a` up: the one written, or the one that was there. -/
theorem read_writeBytes (m : Memory) (a b : Nat) (bs : List Byte) :
    (m.writeBytes a bs).read b = if a ≤ b ∧ b < a + bs.length then bs.getD (b - a) 0 else m.read b := by
  induction bs generalizing m a with
  | nil =>
    rw [if_neg (by simp)]
    rfl
  | cons v vs ih =>
    show (Memory.writeBytes (m.write a v) (a + 1) vs).read b = _
    rw [ih (m.write a v) (a + 1), read_write]
    simp only [List.length_cons]
    by_cases hb : a + 1 ≤ b ∧ b < a + 1 + vs.length
    · rw [if_pos hb, if_pos (by omega), show b - a = b - (a + 1) + 1 by omega, List.getD_cons_succ]
    · rw [if_neg hb]
      by_cases e : b = a
      · subst e; rw [if_pos rfl, if_pos (by omega)]; simp
      · rw [if_neg e, if_neg (by omega)]

theorem read_outside (m : Memory) {a b : Nat} {bs : List Byte} (hb : b < a ∨ a + bs.length ≤ b) :
    (m.writeBytes a bs).read b = m.read b := by rw [read_writeBytes, if_neg (by omega)]

theorem length_leBytes (n v : Nat) : (leBytes n v).length = n := by
  induction n generalizing v with
  | zero => rfl
  | succ n ih => simp [leBytes, ih]

theorem length_readBytes (m : Memory) (a n : Nat) : (m.readBytes a n).length = n := by
  induction n generalizing a with
  | zero => rfl
  | succ n ih => simp [Memory.readBytes, ih]

theorem readBytes_getD (m : Memory) (a n i : Nat) (h : i < n) : (m.readBytes a n).getD i 0 = m.read (a + i) := by
  induction n generalizing a i with
  | zero => omega
  | succ n ih =>
    cases i with
    | zero => rfl
    | succ i =>
      show (m.readBytes (a + 1) n).getD i 0 = _
      rw [ih (a + 1) i (by omega), show a + 1 + i = a + (i + 1) by omega]

/-- Little-endian bytes read back as the number, modulo what they hold (R6). -/
theorem natOfBytes_leBytes (n v : Nat) : natOfBytes (leBytes n v) = v % 256 ^ n := by
  induction n generalizing v with
  | zero => simp [leBytes, natOfBytes, Nat.mod_one]
  | succ n ih =>
    simp only [leBytes, natOfBytes, ih, BitVec.toNat_ofNat]
    have h1 : (256 : Nat) ^ (n + 1) = 256 * 256 ^ n := Nat.pow_succ'
    exact Nat.mod_mul.symm.trans (congrArg (v % ·) h1.symm)

theorem readBytes_writeBytes (m : Memory) (a : Nat) (bs : List Byte) :
    (m.writeBytes a bs).readBytes a bs.length = bs := by
  have key : ∀ (k : Nat) (l : List Byte) (m : Memory) (a : Nat), (∀ i, i < l.length → m.read (a + i) = l.getD i 0) → k = l.length →
      m.readBytes a k = l := by
    intro k l
    induction l generalizing k with
    | nil => intro m a _ e; subst e; rfl
    | cons v vs ih =>
      intro m a hr e
      subst e
      show m.read a :: m.readBytes (a + 1) vs.length = v :: vs
      rw [show m.read a = v by simpa using hr 0 (by simp)]
      rw [ih vs.length m (a + 1) (fun i hi => by
        have := hr (i + 1) (by simpa using hi)
        rw [show a + 1 + i = a + (i + 1) by omega, this]; simp) rfl]
  refine key _ bs _ a (fun i hi => ?_) rfl
  rw [read_writeBytes, if_pos (by omega), show a + i - a = i by omega]

theorem readNat_writeNat (m : Memory) (a n v : Nat) : (m.writeNat a n v).readNat a n = v % 256 ^ n := by
  unfold Memory.writeNat Memory.readNat
  have := readBytes_writeBytes m a (leBytes n v)
  rw [length_leBytes] at this
  rw [this, natOfBytes_leBytes]

end Sys2Proof.Laws
end

