-- ==== Sys2Proof/Laws/State.lean ====
section
/-! SUPPORT. What the updates of the machine's parts change: each field of the state after each update, and what is found after
something is stored. -/

namespace Sys2Proof.Laws

open Sys2Proof Sys2Proof.Machine

/-! ## Every other field stays -/

@[simp] theorem putDie_fields (s : State) (d : Nat) (x : Die) :
    (s.putDie d x).mem = s.mem ∧ (s.putDie d x).past = s.past ∧ (s.putDie d x).writes = s.writes ∧ (s.putDie d x).homeFloors =
    s.homeFloors ∧ (s.putDie d x).poison = s.poison ∧ (s.putDie d x).badCheck = s.badCheck ∧ (s.putDie d x).heldWrites = s.heldWrites ∧
    (s.putDie d x).tasks = s.tasks ∧ (s.putDie d x).roots = s.roots ∧ (s.putDie d x).ops = s.ops ∧ (s.putDie d x).flits = s.flits ∧
    (s.putDie d x).xfers = s.xfers ∧ (s.putDie d x).images = s.images ∧ (s.putDie d x).cores = s.cores ∧ (s.putDie d x).ctxs = s.ctxs ∧
    (s.putDie d x).queues = s.queues ∧ (s.putDie d x).groupBars = s.groupBars ∧ (s.putDie d x).instances = s.instances ∧ (s.putDie d
    x).stage = s.stage ∧ (s.putDie d x).code = s.code ∧ (s.putDie d x).winsel = s.winsel ∧ (s.putDie d x).attStatus = s.attStatus ∧
    (s.putDie d x).attHeld = s.attHeld ∧ (s.putDie d x).attreq = s.attreq ∧ (s.putDie d x).attrsp = s.attrsp ∧ (s.putDie d x).fabcfg =
    s.fabcfg ∧ (s.putDie d x).portUp = s.portUp ∧ (s.putDie d x).farDown = s.farDown ∧ (s.putDie d x).wrapped = s.wrapped ∧ (s.putDie d
    x).path = s.path ∧ (s.putDie d x).wrapNext = s.wrapNext ∧ (s.putDie d x).deadMask = s.deadMask ∧ (s.putDie d x).lateRecs =
    s.lateRecs ∧ (s.putDie d x).lastQueue = s.lastQueue ∧ (s.putDie d x).vectors = s.vectors ∧ (s.putDie d x).hostRead = s.hostRead ∧
    (s.putDie d x).answers = s.answers ∧ (s.putDie d x).aer = s.aer ∧ (s.putDie d x).cxlSteps = s.cxlSteps ∧ (s.putDie d x).firmware =
    s.firmware ∧ (s.putDie d x).fuses = s.fuses ∧ (s.putDie d x).agenda = s.agenda ∧ (s.putDie d x).cur = s.cur ∧ (s.putDie d x).fresh =
    s.fresh ∧ (s.putDie d x).nextId = s.nextId ∧ (s.putDie d x).ticks = s.ticks ∧ (s.putDie d x).time = s.time := by
  refine ⟨?_, ?_, ?_, ?_, ?_, ?_, ?_, ?_, ?_, ?_, ?_, ?_, ?_, ?_, ?_, ?_, ?_, ?_, ?_, ?_, ?_, ?_, ?_, ?_, ?_, ?_, ?_, ?_, ?_, ?_, ?_, ?_, ?_, ?_, ?_, ?_, ?_, ?_, ?_, ?_, ?_, ?_, ?_, ?_, ?_, ?_, ?_⟩ <;> rfl

@[simp] theorem putCore_fields (s : State) (d c : Nat) (x : Core) :
    (s.putCore d c x).mem = s.mem ∧ (s.putCore d c x).past = s.past ∧ (s.putCore d c x).writes = s.writes ∧ (s.putCore d c x).homeFloors
    = s.homeFloors ∧ (s.putCore d c x).poison = s.poison ∧ (s.putCore d c x).badCheck = s.badCheck ∧ (s.putCore d c x).heldWrites =
    s.heldWrites ∧ (s.putCore d c x).tasks = s.tasks ∧ (s.putCore d c x).roots = s.roots ∧ (s.putCore d c x).ops = s.ops ∧ (s.putCore d
    c x).flits = s.flits ∧ (s.putCore d c x).xfers = s.xfers ∧ (s.putCore d c x).images = s.images ∧ (s.putCore d c x).dies = s.dies ∧
    (s.putCore d c x).ctxs = s.ctxs ∧ (s.putCore d c x).queues = s.queues ∧ (s.putCore d c x).groupBars = s.groupBars ∧ (s.putCore d c
    x).instances = s.instances ∧ (s.putCore d c x).stage = s.stage ∧ (s.putCore d c x).code = s.code ∧ (s.putCore d c x).winsel =
    s.winsel ∧ (s.putCore d c x).attStatus = s.attStatus ∧ (s.putCore d c x).attHeld = s.attHeld ∧ (s.putCore d c x).attreq = s.attreq ∧
    (s.putCore d c x).attrsp = s.attrsp ∧ (s.putCore d c x).fabcfg = s.fabcfg ∧ (s.putCore d c x).portUp = s.portUp ∧ (s.putCore d c
    x).farDown = s.farDown ∧ (s.putCore d c x).wrapped = s.wrapped ∧ (s.putCore d c x).path = s.path ∧ (s.putCore d c x).wrapNext =
    s.wrapNext ∧ (s.putCore d c x).deadMask = s.deadMask ∧ (s.putCore d c x).lateRecs = s.lateRecs ∧ (s.putCore d c x).lastQueue =
    s.lastQueue ∧ (s.putCore d c x).vectors = s.vectors ∧ (s.putCore d c x).hostRead = s.hostRead ∧ (s.putCore d c x).answers =
    s.answers ∧ (s.putCore d c x).aer = s.aer ∧ (s.putCore d c x).cxlSteps = s.cxlSteps ∧ (s.putCore d c x).firmware = s.firmware ∧
    (s.putCore d c x).fuses = s.fuses ∧ (s.putCore d c x).agenda = s.agenda ∧ (s.putCore d c x).cur = s.cur ∧ (s.putCore d c x).fresh =
    s.fresh ∧ (s.putCore d c x).nextId = s.nextId ∧ (s.putCore d c x).ticks = s.ticks ∧ (s.putCore d c x).time = s.time := by
  refine ⟨?_, ?_, ?_, ?_, ?_, ?_, ?_, ?_, ?_, ?_, ?_, ?_, ?_, ?_, ?_, ?_, ?_, ?_, ?_, ?_, ?_, ?_, ?_, ?_, ?_, ?_, ?_, ?_, ?_, ?_, ?_, ?_, ?_, ?_, ?_, ?_, ?_, ?_, ?_, ?_, ?_, ?_, ?_, ?_, ?_, ?_, ?_⟩ <;> rfl

@[simp] theorem putCtx_fields (s : State) (c : Nat) (x : Ctx) :
    (s.putCtx c x).mem = s.mem ∧ (s.putCtx c x).past = s.past ∧ (s.putCtx c x).writes = s.writes ∧ (s.putCtx c x).homeFloors =
    s.homeFloors ∧ (s.putCtx c x).poison = s.poison ∧ (s.putCtx c x).badCheck = s.badCheck ∧ (s.putCtx c x).heldWrites = s.heldWrites ∧
    (s.putCtx c x).tasks = s.tasks ∧ (s.putCtx c x).roots = s.roots ∧ (s.putCtx c x).ops = s.ops ∧ (s.putCtx c x).flits = s.flits ∧
    (s.putCtx c x).xfers = s.xfers ∧ (s.putCtx c x).images = s.images ∧ (s.putCtx c x).dies = s.dies ∧ (s.putCtx c x).cores = s.cores ∧
    (s.putCtx c x).queues = s.queues ∧ (s.putCtx c x).groupBars = s.groupBars ∧ (s.putCtx c x).instances = s.instances ∧ (s.putCtx c
    x).stage = s.stage ∧ (s.putCtx c x).code = s.code ∧ (s.putCtx c x).winsel = s.winsel ∧ (s.putCtx c x).attStatus = s.attStatus ∧
    (s.putCtx c x).attHeld = s.attHeld ∧ (s.putCtx c x).attreq = s.attreq ∧ (s.putCtx c x).attrsp = s.attrsp ∧ (s.putCtx c x).fabcfg =
    s.fabcfg ∧ (s.putCtx c x).portUp = s.portUp ∧ (s.putCtx c x).farDown = s.farDown ∧ (s.putCtx c x).wrapped = s.wrapped ∧ (s.putCtx c
    x).path = s.path ∧ (s.putCtx c x).wrapNext = s.wrapNext ∧ (s.putCtx c x).deadMask = s.deadMask ∧ (s.putCtx c x).lateRecs =
    s.lateRecs ∧ (s.putCtx c x).lastQueue = s.lastQueue ∧ (s.putCtx c x).vectors = s.vectors ∧ (s.putCtx c x).hostRead = s.hostRead ∧
    (s.putCtx c x).answers = s.answers ∧ (s.putCtx c x).aer = s.aer ∧ (s.putCtx c x).cxlSteps = s.cxlSteps ∧ (s.putCtx c x).firmware =
    s.firmware ∧ (s.putCtx c x).fuses = s.fuses ∧ (s.putCtx c x).agenda = s.agenda ∧ (s.putCtx c x).cur = s.cur ∧ (s.putCtx c x).fresh =
    s.fresh ∧ (s.putCtx c x).nextId = s.nextId ∧ (s.putCtx c x).ticks = s.ticks ∧ (s.putCtx c x).time = s.time := by
  refine ⟨?_, ?_, ?_, ?_, ?_, ?_, ?_, ?_, ?_, ?_, ?_, ?_, ?_, ?_, ?_, ?_, ?_, ?_, ?_, ?_, ?_, ?_, ?_, ?_, ?_, ?_, ?_, ?_, ?_, ?_, ?_, ?_, ?_, ?_, ?_, ?_, ?_, ?_, ?_, ?_, ?_, ?_, ?_, ?_, ?_, ?_, ?_⟩ <;> rfl

@[simp] theorem putQueue_fields (s : State) (q : Nat) (x : Queue) :
    (s.putQueue q x).mem = s.mem ∧ (s.putQueue q x).past = s.past ∧ (s.putQueue q x).writes = s.writes ∧ (s.putQueue q x).homeFloors =
    s.homeFloors ∧ (s.putQueue q x).poison = s.poison ∧ (s.putQueue q x).badCheck = s.badCheck ∧ (s.putQueue q x).heldWrites =
    s.heldWrites ∧ (s.putQueue q x).tasks = s.tasks ∧ (s.putQueue q x).roots = s.roots ∧ (s.putQueue q x).ops = s.ops ∧ (s.putQueue q
    x).flits = s.flits ∧ (s.putQueue q x).xfers = s.xfers ∧ (s.putQueue q x).images = s.images ∧ (s.putQueue q x).dies = s.dies ∧
    (s.putQueue q x).cores = s.cores ∧ (s.putQueue q x).ctxs = s.ctxs ∧ (s.putQueue q x).groupBars = s.groupBars ∧ (s.putQueue q
    x).instances = s.instances ∧ (s.putQueue q x).stage = s.stage ∧ (s.putQueue q x).code = s.code ∧ (s.putQueue q x).winsel = s.winsel
    ∧ (s.putQueue q x).attStatus = s.attStatus ∧ (s.putQueue q x).attHeld = s.attHeld ∧ (s.putQueue q x).attreq = s.attreq ∧ (s.putQueue
    q x).attrsp = s.attrsp ∧ (s.putQueue q x).fabcfg = s.fabcfg ∧ (s.putQueue q x).portUp = s.portUp ∧ (s.putQueue q x).farDown =
    s.farDown ∧ (s.putQueue q x).wrapped = s.wrapped ∧ (s.putQueue q x).path = s.path ∧ (s.putQueue q x).wrapNext = s.wrapNext ∧
    (s.putQueue q x).deadMask = s.deadMask ∧ (s.putQueue q x).lateRecs = s.lateRecs ∧ (s.putQueue q x).lastQueue = s.lastQueue ∧
    (s.putQueue q x).vectors = s.vectors ∧ (s.putQueue q x).hostRead = s.hostRead ∧ (s.putQueue q x).answers = s.answers ∧ (s.putQueue q
    x).aer = s.aer ∧ (s.putQueue q x).cxlSteps = s.cxlSteps ∧ (s.putQueue q x).firmware = s.firmware ∧ (s.putQueue q x).fuses = s.fuses
    ∧ (s.putQueue q x).agenda = s.agenda ∧ (s.putQueue q x).cur = s.cur ∧ (s.putQueue q x).fresh = s.fresh ∧ (s.putQueue q x).nextId =
    s.nextId ∧ (s.putQueue q x).ticks = s.ticks ∧ (s.putQueue q x).time = s.time := by
  refine ⟨?_, ?_, ?_, ?_, ?_, ?_, ?_, ?_, ?_, ?_, ?_, ?_, ?_, ?_, ?_, ?_, ?_, ?_, ?_, ?_, ?_, ?_, ?_, ?_, ?_, ?_, ?_, ?_, ?_, ?_, ?_, ?_, ?_, ?_, ?_, ?_, ?_, ?_, ?_, ?_, ?_, ?_, ?_, ?_, ?_, ?_, ?_⟩ <;> rfl

@[simp] theorem putTask_fields (s : State) (t : Nat) (x : Task) :
    (s.putTask t x).mem = s.mem ∧ (s.putTask t x).past = s.past ∧ (s.putTask t x).writes = s.writes ∧ (s.putTask t x).homeFloors =
    s.homeFloors ∧ (s.putTask t x).poison = s.poison ∧ (s.putTask t x).badCheck = s.badCheck ∧ (s.putTask t x).heldWrites = s.heldWrites
    ∧ (s.putTask t x).roots = s.roots ∧ (s.putTask t x).ops = s.ops ∧ (s.putTask t x).flits = s.flits ∧ (s.putTask t x).xfers = s.xfers
    ∧ (s.putTask t x).images = s.images ∧ (s.putTask t x).dies = s.dies ∧ (s.putTask t x).cores = s.cores ∧ (s.putTask t x).ctxs =
    s.ctxs ∧ (s.putTask t x).queues = s.queues ∧ (s.putTask t x).groupBars = s.groupBars ∧ (s.putTask t x).instances = s.instances ∧
    (s.putTask t x).stage = s.stage ∧ (s.putTask t x).code = s.code ∧ (s.putTask t x).winsel = s.winsel ∧ (s.putTask t x).attStatus =
    s.attStatus ∧ (s.putTask t x).attHeld = s.attHeld ∧ (s.putTask t x).attreq = s.attreq ∧ (s.putTask t x).attrsp = s.attrsp ∧
    (s.putTask t x).fabcfg = s.fabcfg ∧ (s.putTask t x).portUp = s.portUp ∧ (s.putTask t x).farDown = s.farDown ∧ (s.putTask t
    x).wrapped = s.wrapped ∧ (s.putTask t x).path = s.path ∧ (s.putTask t x).wrapNext = s.wrapNext ∧ (s.putTask t x).deadMask =
    s.deadMask ∧ (s.putTask t x).lateRecs = s.lateRecs ∧ (s.putTask t x).lastQueue = s.lastQueue ∧ (s.putTask t x).vectors = s.vectors ∧
    (s.putTask t x).hostRead = s.hostRead ∧ (s.putTask t x).answers = s.answers ∧ (s.putTask t x).aer = s.aer ∧ (s.putTask t x).cxlSteps
    = s.cxlSteps ∧ (s.putTask t x).firmware = s.firmware ∧ (s.putTask t x).fuses = s.fuses ∧ (s.putTask t x).agenda = s.agenda ∧
    (s.putTask t x).cur = s.cur ∧ (s.putTask t x).fresh = s.fresh ∧ (s.putTask t x).nextId = s.nextId ∧ (s.putTask t x).ticks = s.ticks
    ∧ (s.putTask t x).time = s.time := by
  refine ⟨?_, ?_, ?_, ?_, ?_, ?_, ?_, ?_, ?_, ?_, ?_, ?_, ?_, ?_, ?_, ?_, ?_, ?_, ?_, ?_, ?_, ?_, ?_, ?_, ?_, ?_, ?_, ?_, ?_, ?_, ?_, ?_, ?_, ?_, ?_, ?_, ?_, ?_, ?_, ?_, ?_, ?_, ?_, ?_, ?_, ?_, ?_⟩ <;> rfl

@[simp] theorem modTask_fields (s : State) (t : Nat) (f : Task → Task) :
    (s.modTask t f).mem = s.mem ∧ (s.modTask t f).past = s.past ∧ (s.modTask t f).writes = s.writes ∧ (s.modTask t f).homeFloors =
    s.homeFloors ∧ (s.modTask t f).poison = s.poison ∧ (s.modTask t f).badCheck = s.badCheck ∧ (s.modTask t f).heldWrites = s.heldWrites
    ∧ (s.modTask t f).roots = s.roots ∧ (s.modTask t f).ops = s.ops ∧ (s.modTask t f).flits = s.flits ∧ (s.modTask t f).xfers = s.xfers
    ∧ (s.modTask t f).images = s.images ∧ (s.modTask t f).dies = s.dies ∧ (s.modTask t f).cores = s.cores ∧ (s.modTask t f).ctxs =
    s.ctxs ∧ (s.modTask t f).queues = s.queues ∧ (s.modTask t f).groupBars = s.groupBars ∧ (s.modTask t f).instances = s.instances ∧
    (s.modTask t f).stage = s.stage ∧ (s.modTask t f).code = s.code ∧ (s.modTask t f).winsel = s.winsel ∧ (s.modTask t f).attStatus =
    s.attStatus ∧ (s.modTask t f).attHeld = s.attHeld ∧ (s.modTask t f).attreq = s.attreq ∧ (s.modTask t f).attrsp = s.attrsp ∧
    (s.modTask t f).fabcfg = s.fabcfg ∧ (s.modTask t f).portUp = s.portUp ∧ (s.modTask t f).farDown = s.farDown ∧ (s.modTask t
    f).wrapped = s.wrapped ∧ (s.modTask t f).path = s.path ∧ (s.modTask t f).wrapNext = s.wrapNext ∧ (s.modTask t f).deadMask =
    s.deadMask ∧ (s.modTask t f).lateRecs = s.lateRecs ∧ (s.modTask t f).lastQueue = s.lastQueue ∧ (s.modTask t f).vectors = s.vectors ∧
    (s.modTask t f).hostRead = s.hostRead ∧ (s.modTask t f).answers = s.answers ∧ (s.modTask t f).aer = s.aer ∧ (s.modTask t f).cxlSteps
    = s.cxlSteps ∧ (s.modTask t f).firmware = s.firmware ∧ (s.modTask t f).fuses = s.fuses ∧ (s.modTask t f).agenda = s.agenda ∧
    (s.modTask t f).cur = s.cur ∧ (s.modTask t f).fresh = s.fresh ∧ (s.modTask t f).nextId = s.nextId ∧ (s.modTask t f).ticks = s.ticks
    ∧ (s.modTask t f).time = s.time := by
  refine ⟨?_, ?_, ?_, ?_, ?_, ?_, ?_, ?_, ?_, ?_, ?_, ?_, ?_, ?_, ?_, ?_, ?_, ?_, ?_, ?_, ?_, ?_, ?_, ?_, ?_, ?_, ?_, ?_, ?_, ?_, ?_, ?_, ?_, ?_, ?_, ?_, ?_, ?_, ?_, ?_, ?_, ?_, ?_, ?_, ?_, ?_, ?_⟩ <;> rfl

@[simp] theorem putParty_fields (s : State) (t i : Nat) (p : Party) :
    (s.putParty t i p).mem = s.mem ∧ (s.putParty t i p).past = s.past ∧ (s.putParty t i p).writes = s.writes ∧ (s.putParty t i
    p).homeFloors = s.homeFloors ∧ (s.putParty t i p).poison = s.poison ∧ (s.putParty t i p).badCheck = s.badCheck ∧ (s.putParty t i
    p).heldWrites = s.heldWrites ∧ (s.putParty t i p).roots = s.roots ∧ (s.putParty t i p).ops = s.ops ∧ (s.putParty t i p).flits =
    s.flits ∧ (s.putParty t i p).xfers = s.xfers ∧ (s.putParty t i p).images = s.images ∧ (s.putParty t i p).dies = s.dies ∧ (s.putParty
    t i p).cores = s.cores ∧ (s.putParty t i p).ctxs = s.ctxs ∧ (s.putParty t i p).queues = s.queues ∧ (s.putParty t i p).groupBars =
    s.groupBars ∧ (s.putParty t i p).instances = s.instances ∧ (s.putParty t i p).stage = s.stage ∧ (s.putParty t i p).code = s.code ∧
    (s.putParty t i p).winsel = s.winsel ∧ (s.putParty t i p).attStatus = s.attStatus ∧ (s.putParty t i p).attHeld = s.attHeld ∧
    (s.putParty t i p).attreq = s.attreq ∧ (s.putParty t i p).attrsp = s.attrsp ∧ (s.putParty t i p).fabcfg = s.fabcfg ∧ (s.putParty t i
    p).portUp = s.portUp ∧ (s.putParty t i p).farDown = s.farDown ∧ (s.putParty t i p).wrapped = s.wrapped ∧ (s.putParty t i p).path =
    s.path ∧ (s.putParty t i p).wrapNext = s.wrapNext ∧ (s.putParty t i p).deadMask = s.deadMask ∧ (s.putParty t i p).lateRecs =
    s.lateRecs ∧ (s.putParty t i p).lastQueue = s.lastQueue ∧ (s.putParty t i p).vectors = s.vectors ∧ (s.putParty t i p).hostRead =
    s.hostRead ∧ (s.putParty t i p).answers = s.answers ∧ (s.putParty t i p).aer = s.aer ∧ (s.putParty t i p).cxlSteps = s.cxlSteps ∧
    (s.putParty t i p).firmware = s.firmware ∧ (s.putParty t i p).fuses = s.fuses ∧ (s.putParty t i p).agenda = s.agenda ∧ (s.putParty t
    i p).cur = s.cur ∧ (s.putParty t i p).fresh = s.fresh ∧ (s.putParty t i p).nextId = s.nextId ∧ (s.putParty t i p).ticks = s.ticks ∧
    (s.putParty t i p).time = s.time := by
  refine ⟨?_, ?_, ?_, ?_, ?_, ?_, ?_, ?_, ?_, ?_, ?_, ?_, ?_, ?_, ?_, ?_, ?_, ?_, ?_, ?_, ?_, ?_, ?_, ?_, ?_, ?_, ?_, ?_, ?_, ?_, ?_, ?_, ?_, ?_, ?_, ?_, ?_, ?_, ?_, ?_, ?_, ?_, ?_, ?_, ?_, ?_, ?_⟩ <;> rfl

@[simp] theorem modParty_fields (s : State) (t i : Nat) (f : Party → Party) :
    (s.modParty t i f).mem = s.mem ∧ (s.modParty t i f).past = s.past ∧ (s.modParty t i f).writes = s.writes ∧ (s.modParty t i
    f).homeFloors = s.homeFloors ∧ (s.modParty t i f).poison = s.poison ∧ (s.modParty t i f).badCheck = s.badCheck ∧ (s.modParty t i
    f).heldWrites = s.heldWrites ∧ (s.modParty t i f).roots = s.roots ∧ (s.modParty t i f).ops = s.ops ∧ (s.modParty t i f).flits =
    s.flits ∧ (s.modParty t i f).xfers = s.xfers ∧ (s.modParty t i f).images = s.images ∧ (s.modParty t i f).dies = s.dies ∧ (s.modParty
    t i f).cores = s.cores ∧ (s.modParty t i f).ctxs = s.ctxs ∧ (s.modParty t i f).queues = s.queues ∧ (s.modParty t i f).groupBars =
    s.groupBars ∧ (s.modParty t i f).instances = s.instances ∧ (s.modParty t i f).stage = s.stage ∧ (s.modParty t i f).code = s.code ∧
    (s.modParty t i f).winsel = s.winsel ∧ (s.modParty t i f).attStatus = s.attStatus ∧ (s.modParty t i f).attHeld = s.attHeld ∧
    (s.modParty t i f).attreq = s.attreq ∧ (s.modParty t i f).attrsp = s.attrsp ∧ (s.modParty t i f).fabcfg = s.fabcfg ∧ (s.modParty t i
    f).portUp = s.portUp ∧ (s.modParty t i f).farDown = s.farDown ∧ (s.modParty t i f).wrapped = s.wrapped ∧ (s.modParty t i f).path =
    s.path ∧ (s.modParty t i f).wrapNext = s.wrapNext ∧ (s.modParty t i f).deadMask = s.deadMask ∧ (s.modParty t i f).lateRecs =
    s.lateRecs ∧ (s.modParty t i f).lastQueue = s.lastQueue ∧ (s.modParty t i f).vectors = s.vectors ∧ (s.modParty t i f).hostRead =
    s.hostRead ∧ (s.modParty t i f).answers = s.answers ∧ (s.modParty t i f).aer = s.aer ∧ (s.modParty t i f).cxlSteps = s.cxlSteps ∧
    (s.modParty t i f).firmware = s.firmware ∧ (s.modParty t i f).fuses = s.fuses ∧ (s.modParty t i f).agenda = s.agenda ∧ (s.modParty t
    i f).cur = s.cur ∧ (s.modParty t i f).fresh = s.fresh ∧ (s.modParty t i f).nextId = s.nextId ∧ (s.modParty t i f).ticks = s.ticks ∧
    (s.modParty t i f).time = s.time := by
  unfold State.modParty
  split <;> simp

@[simp] theorem retire_fields (s : State) (c : Exec) (n : Nat) :
    (s.retire c n).mem = s.mem ∧ (s.retire c n).past = s.past ∧ (s.retire c n).writes = s.writes ∧ (s.retire c n).homeFloors =
    s.homeFloors ∧ (s.retire c n).poison = s.poison ∧ (s.retire c n).badCheck = s.badCheck ∧ (s.retire c n).heldWrites = s.heldWrites ∧
    (s.retire c n).roots = s.roots ∧ (s.retire c n).ops = s.ops ∧ (s.retire c n).flits = s.flits ∧ (s.retire c n).xfers = s.xfers ∧
    (s.retire c n).images = s.images ∧ (s.retire c n).dies = s.dies ∧ (s.retire c n).cores = s.cores ∧ (s.retire c n).ctxs = s.ctxs ∧
    (s.retire c n).queues = s.queues ∧ (s.retire c n).groupBars = s.groupBars ∧ (s.retire c n).instances = s.instances ∧ (s.retire c
    n).stage = s.stage ∧ (s.retire c n).code = s.code ∧ (s.retire c n).winsel = s.winsel ∧ (s.retire c n).attStatus = s.attStatus ∧
    (s.retire c n).attHeld = s.attHeld ∧ (s.retire c n).attreq = s.attreq ∧ (s.retire c n).attrsp = s.attrsp ∧ (s.retire c n).fabcfg =
    s.fabcfg ∧ (s.retire c n).portUp = s.portUp ∧ (s.retire c n).farDown = s.farDown ∧ (s.retire c n).wrapped = s.wrapped ∧ (s.retire c
    n).path = s.path ∧ (s.retire c n).wrapNext = s.wrapNext ∧ (s.retire c n).deadMask = s.deadMask ∧ (s.retire c n).lateRecs =
    s.lateRecs ∧ (s.retire c n).lastQueue = s.lastQueue ∧ (s.retire c n).vectors = s.vectors ∧ (s.retire c n).hostRead = s.hostRead ∧
    (s.retire c n).answers = s.answers ∧ (s.retire c n).aer = s.aer ∧ (s.retire c n).cxlSteps = s.cxlSteps ∧ (s.retire c n).firmware =
    s.firmware ∧ (s.retire c n).fuses = s.fuses ∧ (s.retire c n).agenda = s.agenda ∧ (s.retire c n).cur = s.cur ∧ (s.retire c n).fresh =
    s.fresh ∧ (s.retire c n).nextId = s.nextId ∧ (s.retire c n).ticks = s.ticks ∧ (s.retire c n).time = s.time := by
  unfold State.retire
  simp

@[simp] theorem putOp_fields (s : State) (id : Nat) (o : Op) :
    (s.putOp id o).mem = s.mem ∧ (s.putOp id o).past = s.past ∧ (s.putOp id o).writes = s.writes ∧ (s.putOp id o).homeFloors =
    s.homeFloors ∧ (s.putOp id o).poison = s.poison ∧ (s.putOp id o).badCheck = s.badCheck ∧ (s.putOp id o).heldWrites = s.heldWrites ∧
    (s.putOp id o).tasks = s.tasks ∧ (s.putOp id o).roots = s.roots ∧ (s.putOp id o).flits = s.flits ∧ (s.putOp id o).xfers = s.xfers ∧
    (s.putOp id o).images = s.images ∧ (s.putOp id o).dies = s.dies ∧ (s.putOp id o).cores = s.cores ∧ (s.putOp id o).ctxs = s.ctxs ∧
    (s.putOp id o).queues = s.queues ∧ (s.putOp id o).groupBars = s.groupBars ∧ (s.putOp id o).instances = s.instances ∧ (s.putOp id
    o).stage = s.stage ∧ (s.putOp id o).code = s.code ∧ (s.putOp id o).winsel = s.winsel ∧ (s.putOp id o).attStatus = s.attStatus ∧
    (s.putOp id o).attHeld = s.attHeld ∧ (s.putOp id o).attreq = s.attreq ∧ (s.putOp id o).attrsp = s.attrsp ∧ (s.putOp id o).fabcfg =
    s.fabcfg ∧ (s.putOp id o).portUp = s.portUp ∧ (s.putOp id o).farDown = s.farDown ∧ (s.putOp id o).wrapped = s.wrapped ∧ (s.putOp id
    o).path = s.path ∧ (s.putOp id o).wrapNext = s.wrapNext ∧ (s.putOp id o).deadMask = s.deadMask ∧ (s.putOp id o).lateRecs =
    s.lateRecs ∧ (s.putOp id o).lastQueue = s.lastQueue ∧ (s.putOp id o).vectors = s.vectors ∧ (s.putOp id o).hostRead = s.hostRead ∧
    (s.putOp id o).answers = s.answers ∧ (s.putOp id o).aer = s.aer ∧ (s.putOp id o).cxlSteps = s.cxlSteps ∧ (s.putOp id o).firmware =
    s.firmware ∧ (s.putOp id o).fuses = s.fuses ∧ (s.putOp id o).agenda = s.agenda ∧ (s.putOp id o).cur = s.cur ∧ (s.putOp id o).fresh =
    s.fresh ∧ (s.putOp id o).nextId = s.nextId ∧ (s.putOp id o).ticks = s.ticks ∧ (s.putOp id o).time = s.time := by
  refine ⟨?_, ?_, ?_, ?_, ?_, ?_, ?_, ?_, ?_, ?_, ?_, ?_, ?_, ?_, ?_, ?_, ?_, ?_, ?_, ?_, ?_, ?_, ?_, ?_, ?_, ?_, ?_, ?_, ?_, ?_, ?_, ?_, ?_, ?_, ?_, ?_, ?_, ?_, ?_, ?_, ?_, ?_, ?_, ?_, ?_, ?_, ?_⟩ <;> rfl

@[simp] theorem putRoot_fields (s : State) (id : Nat) (r : Root) :
    (s.putRoot id r).mem = s.mem ∧ (s.putRoot id r).past = s.past ∧ (s.putRoot id r).writes = s.writes ∧ (s.putRoot id r).homeFloors =
    s.homeFloors ∧ (s.putRoot id r).poison = s.poison ∧ (s.putRoot id r).badCheck = s.badCheck ∧ (s.putRoot id r).heldWrites =
    s.heldWrites ∧ (s.putRoot id r).tasks = s.tasks ∧ (s.putRoot id r).ops = s.ops ∧ (s.putRoot id r).flits = s.flits ∧ (s.putRoot id
    r).xfers = s.xfers ∧ (s.putRoot id r).images = s.images ∧ (s.putRoot id r).dies = s.dies ∧ (s.putRoot id r).cores = s.cores ∧
    (s.putRoot id r).ctxs = s.ctxs ∧ (s.putRoot id r).queues = s.queues ∧ (s.putRoot id r).groupBars = s.groupBars ∧ (s.putRoot id
    r).instances = s.instances ∧ (s.putRoot id r).stage = s.stage ∧ (s.putRoot id r).code = s.code ∧ (s.putRoot id r).winsel = s.winsel
    ∧ (s.putRoot id r).attStatus = s.attStatus ∧ (s.putRoot id r).attHeld = s.attHeld ∧ (s.putRoot id r).attreq = s.attreq ∧ (s.putRoot
    id r).attrsp = s.attrsp ∧ (s.putRoot id r).fabcfg = s.fabcfg ∧ (s.putRoot id r).portUp = s.portUp ∧ (s.putRoot id r).farDown =
    s.farDown ∧ (s.putRoot id r).wrapped = s.wrapped ∧ (s.putRoot id r).path = s.path ∧ (s.putRoot id r).wrapNext = s.wrapNext ∧
    (s.putRoot id r).deadMask = s.deadMask ∧ (s.putRoot id r).lateRecs = s.lateRecs ∧ (s.putRoot id r).lastQueue = s.lastQueue ∧
    (s.putRoot id r).vectors = s.vectors ∧ (s.putRoot id r).hostRead = s.hostRead ∧ (s.putRoot id r).answers = s.answers ∧ (s.putRoot id
    r).aer = s.aer ∧ (s.putRoot id r).cxlSteps = s.cxlSteps ∧ (s.putRoot id r).firmware = s.firmware ∧ (s.putRoot id r).fuses = s.fuses
    ∧ (s.putRoot id r).agenda = s.agenda ∧ (s.putRoot id r).cur = s.cur ∧ (s.putRoot id r).fresh = s.fresh ∧ (s.putRoot id r).nextId =
    s.nextId ∧ (s.putRoot id r).ticks = s.ticks ∧ (s.putRoot id r).time = s.time := by
  refine ⟨?_, ?_, ?_, ?_, ?_, ?_, ?_, ?_, ?_, ?_, ?_, ?_, ?_, ?_, ?_, ?_, ?_, ?_, ?_, ?_, ?_, ?_, ?_, ?_, ?_, ?_, ?_, ?_, ?_, ?_, ?_, ?_, ?_, ?_, ?_, ?_, ?_, ?_, ?_, ?_, ?_, ?_, ?_, ?_, ?_, ?_, ?_⟩ <;> rfl

@[simp] theorem raise_fields (s : State) (v : Nat) :
    (s.raise v).mem = s.mem ∧ (s.raise v).past = s.past ∧ (s.raise v).writes = s.writes ∧ (s.raise v).homeFloors = s.homeFloors ∧
    (s.raise v).poison = s.poison ∧ (s.raise v).badCheck = s.badCheck ∧ (s.raise v).heldWrites = s.heldWrites ∧ (s.raise v).tasks =
    s.tasks ∧ (s.raise v).roots = s.roots ∧ (s.raise v).ops = s.ops ∧ (s.raise v).flits = s.flits ∧ (s.raise v).xfers = s.xfers ∧
    (s.raise v).images = s.images ∧ (s.raise v).dies = s.dies ∧ (s.raise v).cores = s.cores ∧ (s.raise v).ctxs = s.ctxs ∧ (s.raise
    v).queues = s.queues ∧ (s.raise v).groupBars = s.groupBars ∧ (s.raise v).instances = s.instances ∧ (s.raise v).stage = s.stage ∧
    (s.raise v).code = s.code ∧ (s.raise v).winsel = s.winsel ∧ (s.raise v).attStatus = s.attStatus ∧ (s.raise v).attHeld = s.attHeld ∧
    (s.raise v).attreq = s.attreq ∧ (s.raise v).attrsp = s.attrsp ∧ (s.raise v).fabcfg = s.fabcfg ∧ (s.raise v).portUp = s.portUp ∧
    (s.raise v).farDown = s.farDown ∧ (s.raise v).wrapped = s.wrapped ∧ (s.raise v).path = s.path ∧ (s.raise v).wrapNext = s.wrapNext ∧
    (s.raise v).deadMask = s.deadMask ∧ (s.raise v).lateRecs = s.lateRecs ∧ (s.raise v).lastQueue = s.lastQueue ∧ (s.raise v).hostRead =
    s.hostRead ∧ (s.raise v).answers = s.answers ∧ (s.raise v).aer = s.aer ∧ (s.raise v).cxlSteps = s.cxlSteps ∧ (s.raise v).firmware =
    s.firmware ∧ (s.raise v).fuses = s.fuses ∧ (s.raise v).agenda = s.agenda ∧ (s.raise v).cur = s.cur ∧ (s.raise v).fresh = s.fresh ∧
    (s.raise v).nextId = s.nextId ∧ (s.raise v).ticks = s.ticks ∧ (s.raise v).time = s.time := by
  refine ⟨?_, ?_, ?_, ?_, ?_, ?_, ?_, ?_, ?_, ?_, ?_, ?_, ?_, ?_, ?_, ?_, ?_, ?_, ?_, ?_, ?_, ?_, ?_, ?_, ?_, ?_, ?_, ?_, ?_, ?_, ?_, ?_, ?_, ?_, ?_, ?_, ?_, ?_, ?_, ?_, ?_, ?_, ?_, ?_, ?_, ?_, ?_⟩ <;> rfl

@[simp] theorem poisonLine_fields (s : State) (l : Nat) :
    (s.poisonLine l).mem = s.mem ∧ (s.poisonLine l).past = s.past ∧ (s.poisonLine l).writes = s.writes ∧ (s.poisonLine l).homeFloors =
    s.homeFloors ∧ (s.poisonLine l).badCheck = s.badCheck ∧ (s.poisonLine l).heldWrites = s.heldWrites ∧ (s.poisonLine l).tasks =
    s.tasks ∧ (s.poisonLine l).roots = s.roots ∧ (s.poisonLine l).ops = s.ops ∧ (s.poisonLine l).flits = s.flits ∧ (s.poisonLine
    l).xfers = s.xfers ∧ (s.poisonLine l).images = s.images ∧ (s.poisonLine l).dies = s.dies ∧ (s.poisonLine l).cores = s.cores ∧
    (s.poisonLine l).ctxs = s.ctxs ∧ (s.poisonLine l).queues = s.queues ∧ (s.poisonLine l).groupBars = s.groupBars ∧ (s.poisonLine
    l).instances = s.instances ∧ (s.poisonLine l).stage = s.stage ∧ (s.poisonLine l).code = s.code ∧ (s.poisonLine l).winsel = s.winsel
    ∧ (s.poisonLine l).attStatus = s.attStatus ∧ (s.poisonLine l).attHeld = s.attHeld ∧ (s.poisonLine l).attreq = s.attreq ∧
    (s.poisonLine l).attrsp = s.attrsp ∧ (s.poisonLine l).fabcfg = s.fabcfg ∧ (s.poisonLine l).portUp = s.portUp ∧ (s.poisonLine
    l).farDown = s.farDown ∧ (s.poisonLine l).wrapped = s.wrapped ∧ (s.poisonLine l).path = s.path ∧ (s.poisonLine l).wrapNext =
    s.wrapNext ∧ (s.poisonLine l).deadMask = s.deadMask ∧ (s.poisonLine l).lateRecs = s.lateRecs ∧ (s.poisonLine l).lastQueue =
    s.lastQueue ∧ (s.poisonLine l).vectors = s.vectors ∧ (s.poisonLine l).hostRead = s.hostRead ∧ (s.poisonLine l).answers = s.answers ∧
    (s.poisonLine l).aer = s.aer ∧ (s.poisonLine l).cxlSteps = s.cxlSteps ∧ (s.poisonLine l).firmware = s.firmware ∧ (s.poisonLine
    l).fuses = s.fuses ∧ (s.poisonLine l).agenda = s.agenda ∧ (s.poisonLine l).cur = s.cur ∧ (s.poisonLine l).fresh = s.fresh ∧
    (s.poisonLine l).nextId = s.nextId ∧ (s.poisonLine l).ticks = s.ticks ∧ (s.poisonLine l).time = s.time := by
  refine ⟨?_, ?_, ?_, ?_, ?_, ?_, ?_, ?_, ?_, ?_, ?_, ?_, ?_, ?_, ?_, ?_, ?_, ?_, ?_, ?_, ?_, ?_, ?_, ?_, ?_, ?_, ?_, ?_, ?_, ?_, ?_, ?_, ?_, ?_, ?_, ?_, ?_, ?_, ?_, ?_, ?_, ?_, ?_, ?_, ?_, ?_, ?_⟩ <;> rfl

/-! ## What is found after something is stored -/

theorem getD_insert {α : Type} (m : AMap α) (k j : Nat) (v d : α) :
    AMap.getD (AMap.insert m k v) j d = if j = k then v else AMap.getD m j d := by
  unfold AMap.getD
  rw [get_insert]
  split <;> rfl

theorem die_putDie (s : State) (d e : Nat) (x : Die) : (s.putDie d x).die e = if e = d then x else s.die e := getD_insert _ _ _ _ _
theorem ctx_putCtx (s : State) (c e : Nat) (x : Ctx) : (s.putCtx c x).ctx e = if e = c then x else s.ctx e := getD_insert _ _ _ _ _
theorem queue_putQueue (s : State) (q r : Nat) (x : Queue) : (s.putQueue q x).queue r = if r = q then x else s.queue r :=
  getD_insert _ _ _ _ _
theorem core_putCore (s : State) (d c e f : Nat) (x : Core) :
    (s.putCore d c x).core e f = if coreKey e f = coreKey d c then x else s.core e f := getD_insert _ _ _ _ _
theorem task_putTask (s : State) (t u : Nat) (x : Task) : (s.putTask t x).task? u = if u = t then some x else s.task? u :=
  get_insert _ _ _ _
theorem task_modTask (s : State) (t u : Nat) (f : Task → Task) :
    (s.modTask t f).task? u = if u = t then (s.task? t).map f else s.task? u := get_modify _ _ _ _
theorem op_putOp (s : State) (id j : Nat) (o : Op) : AMap.get? (s.putOp id o).ops j = if j = id then some o else AMap.get? s.ops j :=
  get_insert _ _ _ _

@[simp] theorem die_putDie_self (s : State) (d : Nat) (x : Die) : (s.putDie d x).die d = x := by simp [die_putDie]
@[simp] theorem ctx_putCtx_self (s : State) (c : Nat) (x : Ctx) : (s.putCtx c x).ctx c = x := by simp [ctx_putCtx]
@[simp] theorem queue_putQueue_self (s : State) (q : Nat) (x : Queue) : (s.putQueue q x).queue q = x := by simp [queue_putQueue]
@[simp] theorem core_putCore_self (s : State) (d c : Nat) (x : Core) : (s.putCore d c x).core d c = x := by simp [core_putCore]
@[simp] theorem task_putTask_self (s : State) (t : Nat) (x : Task) : (s.putTask t x).task? t = some x := by simp [task_putTask]

/-- A party stored is the one found; every other party and task is as before. -/
theorem party_putParty {s : State} {t i : Nat} {q : Party} (h : s.party? t i = some q) (p : Party) :
    (s.putParty t i p).party? t i = some p := by
  unfold State.party? State.putParty at *
  rw [task_modTask, if_pos rfl]
  cases e : s.task? t with
  | none => rw [e] at h; cases h
  | some x =>
    rw [e] at h
    have hi : i < x.parties.length := (List.getElem?_eq_some_iff.mp h).1
    simp [Task.putParty, hi]

theorem party_putParty_other (s : State) {t i u j : Nat} (p : Party) (h : u ≠ t ∨ j ≠ i) :
    (s.putParty t i p).party? u j = s.party? u j := by
  unfold State.party? State.putParty
  rw [task_modTask]
  split
  · next e =>
    subst e
    have hj : j ≠ i := h.resolve_left (fun f => f rfl)
    cases s.task? u with
    | none => rfl
    | some x => simp [Task.putParty, Ne.symm hj]
  · rfl

theorem task_putParty_other (s : State) {t u : Nat} (i : Nat) (p : Party) (h : u ≠ t) : (s.putParty t i p).task? u = s.task? u := by
  unfold State.putParty
  rw [task_modTask, if_neg h]

/-- The party found executing stands in its task. -/
theorem current_spec {s : State} {c : Exec} (h : s.current = some c) :
    s.cur = some (c.tid, c.pi) ∧ s.task? c.tid = some c.task ∧ c.task.parties[c.pi]? = some c.party ∧
      s.party? c.tid c.pi = some c.party := by
  unfold State.current at h
  split at h
  · cases h
  · next t i e =>
    split at h
    · cases h
    · next x ex =>
      split at h
      · cases h
      · next p ep =>
        cases h
        exact ⟨e, ex, ep, by simp [State.party?, ex, ep]⟩

end Sys2Proof.Laws
end

