-- ==== Sys2Proof/Laws/Ops.lean ====
section
/-! SUPPORT. For each operation that meanings share, one lemma that says everything it can answer; what the register checks ask;
what the register writes leave behind; and that whatever writes memory keeps its canonical form. -/

namespace Sys2Proof.Laws

open Sys2Proof Sys2Proof.Machine

/-! ## Runs of a word -/

section
variable {s t : State} {n : Nat}

/-- What a word does that raises a cause, or goes on with a party. -/
def Ends (s : State) (c : Exec) (r : Except Trap Party) (f : Party → Party) (t : State) : Prop :=
  (∃ p, r = .ok p ∧ t = s.putParty c.tid c.pi (f p)) ∨ ∃ tr, r = .error tr ∧ t = s.takeTrap c.tid c.pi tr

theorem runParty_cases {f : Env → Party → Except Trap Party} (h : s.runParty n f = .next t) :
    (s.current = none ∧ t = s) ∨ ∃ c, s.current = some c ∧ Ends s c (f (c.env s) c.party) (·.advance n) t := by
  unfold State.runParty at h
  split at h
  · next e => cases h; exact .inl ⟨e, rfl⟩
  · next c e =>
    refine .inr ⟨c, e, ?_⟩
    split at h <;> next e' => cases h; simp [Ends, e']

theorem runJump_cases {f : Env → Party → Except Trap Party} (h : s.runJump f = .next t) :
    (s.current = none ∧ t = s) ∨ ∃ c, s.current = some c ∧ Ends s c (f (c.env s) c.party) id t := by
  unfold State.runJump at h
  split at h
  · next e => cases h; exact .inl ⟨e, rfl⟩
  · next c e =>
    refine .inr ⟨c, e, ?_⟩
    split at h <;> next e' => cases h; simp [Ends, e']

theorem runExec_cases {f : Exec → Except Trap State} (h : s.runExec f = .next t) :
    (s.current = none ∧ t = s) ∨
      ∃ c, s.current = some c ∧ (f c = .ok t ∨ ∃ tr, f c = .error tr ∧ t = s.takeTrap c.tid c.pi tr) := by
  unfold State.runExec at h
  split at h
  · next e => cases h; exact .inl ⟨e, rfl⟩
  · next c e =>
    refine .inr ⟨c, e, ?_⟩
    split at h <;> next e' => cases h; simp [e']

theorem runWide_cases {f : Env → Party → Except Trap Party} (h : s.runWide n f = .next t) :
    (s.current = none ∧ t = s) ∨ ∃ c, s.current = some c ∧
      ((∃ p, c.party.reconverge = .switch p ∧ t = s.putParty c.tid c.pi p) ∨
        ∃ p, c.party.reconverge = .issue p ∧
          ((∃ q, f (c.env s) p = .ok q ∧ t = s.putParty c.tid c.pi (q.advance n)) ∨
            ∃ tr, f (c.env s) p = .error tr ∧ t = (s.putParty c.tid c.pi p).takeTrap c.tid c.pi tr)) := by
  unfold State.runWide at h
  split at h
  · next e => cases h; exact .inl ⟨e, rfl⟩
  · next c e =>
    refine .inr ⟨c, e, ?_⟩
    split at h
    · next p e1 => cases h; exact .inl ⟨p, e1, rfl⟩
    · next p e1 =>
      refine .inr ⟨p, e1, ?_⟩
      split at h <;> next e' => cases h; simp [e']

theorem runV_cases {fs : BitVec 1} {f : Env → Party → Except Trap VResult} (h : s.runV n fs f = .next t) :
    (s.current = none ∧ t = s) ∨ ∃ c, s.current = some c ∧
      ((255 ≤ c.party.cfCount (c.party.coverFlag fs) ∧ t = s) ∨
        (∃ r, f (c.env s) c.party = .ok r ∧ t = { s with nextId := s.nextId + 1 }.putParty c.tid c.pi
          ((c.party.addPending (r.pending s.nextId (c.party.coverFlag fs))).advance n)) ∨
        ∃ tr, f (c.env s) c.party = .error tr ∧ t = s.takeTrap c.tid c.pi tr) := by
  unfold State.runV at h
  split at h
  · next e => cases h; exact .inl ⟨e, rfl⟩
  · next c e =>
    refine .inr ⟨c, e, ?_⟩
    split at h
    · next hc => cases h; exact .inl ⟨hc, rfl⟩
    · split at h <;> next e' => cases h; simp [e']

end

/-! ## Traps (R340, R341) -/

/-- A cause taken: the party enters its handler, or its task fails. -/
theorem takeTrap_cases {s : State} {k i : Nat} {x : Task} {p : Party} (tr : Trap) (hx : s.task? k = some x) (hp : x.parties[i]? = some p) :
    (p.masked = false ∧ x.desc.trap ≠ 0#64 ∧ s.takeTrap k i tr
        = s.putTask k (x.putParty i (p.enterTrap x.desc.trap tr.cause tr.info (tr.addr.getD p.top.pc)))) ∨
      ((p.masked = true ∨ x.desc.trap = 0#64) ∧
        s.takeTrap k i tr = s.failTask k tr.cause tr.info (tr.addr.getD p.top.pc) p.masked) := by
  unfold State.takeTrap
  simp only [hx, hp]
  by_cases h : p.masked = true
  · right; simp [h]
  · by_cases h' : x.desc.trap = 0#64
    · right; simp [h']
    · left; simp [h, h']

/-! ## Register checks (R55 to R58, R84) -/

theorem need_ok {b : Bool} {tr : Trap} : need b tr = .ok () ↔ b = true := by
  unfold need
  split <;> simp_all

theorem noneOutside_ok {env : Env} {l : List (Nat × Nat)} : noneOutside env l = .ok () ↔ l = [] := by
  unfold noneOutside
  split <;> simp

/-- The checks pass exactly when every name is aligned and every register lies inside the allotment. -/
theorem useRegs_ok {env : Env} {p : Party} {l : List RegUse} :
    useRegs env p l = .ok () ↔ (∀ r ∈ l, r.misaligned = false ∧ r.outside env p = []) := by
  have key : useRegs env p l = .ok () ↔ l.any RegUse.misaligned = false ∧ l.flatMap (RegUse.outside env p) = [] := by
    unfold useRegs
    by_cases h : l.any RegUse.misaligned = true
    · simp [h]
    · simp [h, noneOutside_ok]
  rw [key]
  simp only [List.any_eq_false, List.flatMap_eq_nil_iff, Bool.not_eq_true]
  exact ⟨fun h r hr => ⟨h.1 r hr, h.2 r hr⟩, fun h => ⟨fun r hr => (h r hr).1, fun r hr => (h r hr).2⟩⟩

/-- A use of one vector or uniform register. -/
theorem outside_v {env : Env} {p : Party} {n : Nat} : (RegUse.v n).outside env p = [] ↔ p.vwb.toNat + n < env.desc.vregs := by
  simp [RegUse.outside, RegUse.span, List.filter_eq_nil_iff]
theorem outside_u {env : Env} {p : Party} {n : Nat} : (RegUse.u n).outside env p = [] ↔ p.swb.toNat + n < env.desc.uregs := by
  simp [RegUse.outside, RegUse.span, List.filter_eq_nil_iff]

/-! ## Register writes (R59) -/

section
variable (p : Party)

@[simp] theorem setPhys_fields (r : Nat) (m : BitVec 32) (f : Nat → Word) :
    (p.setPhys r m f).stack = p.stack ∧ (p.setPhys r m f).u = p.u ∧ (p.setPhys r m f).preds = p.preds ∧ (p.setPhys r m f).q = p.q ∧
    (p.setPhys r m f).vwb = p.vwb ∧ (p.setPhys r m f).swb = p.swb ∧ (p.setPhys r m f).ix = p.ix ∧ (p.setPhys r m f).lnk = p.lnk ∧
    (p.setPhys r m f).gang = p.gang ∧ (p.setPhys r m f).gangMask = p.gangMask ∧ (p.setPhys r m f).aflags = p.aflags ∧
    (p.setPhys r m f).tmask = p.tmask ∧ (p.setPhys r m f).tcause = p.tcause ∧ (p.setPhys r m f).xpc = p.xpc ∧ (p.setPhys r m f).cf = p.cf ∧
    (p.setPhys r m f).pend = p.pend ∧ (p.setPhys r m f).hold = p.hold := by
  refine ⟨?_, ?_, ?_, ?_, ?_, ?_, ?_, ?_, ?_, ?_, ?_, ?_, ?_, ?_, ?_, ?_, ?_⟩ <;> rfl

@[simp] theorem setUPhys_fields (r : Nat) (x : Word) :
    (p.setUPhys r x).stack = p.stack ∧ (p.setUPhys r x).v = p.v ∧ (p.setUPhys r x).preds = p.preds ∧ (p.setUPhys r x).q = p.q ∧
    (p.setUPhys r x).vwb = p.vwb ∧ (p.setUPhys r x).swb = p.swb ∧ (p.setUPhys r x).ix = p.ix ∧ (p.setUPhys r x).lnk = p.lnk ∧
    (p.setUPhys r x).gang = p.gang ∧ (p.setUPhys r x).gangMask = p.gangMask ∧ (p.setUPhys r x).aflags = p.aflags ∧
    (p.setUPhys r x).tmask = p.tmask ∧ (p.setUPhys r x).tcause = p.tcause ∧ (p.setUPhys r x).xpc = p.xpc ∧ (p.setUPhys r x).cf = p.cf ∧
    (p.setUPhys r x).pend = p.pend ∧ (p.setUPhys r x).hold = p.hold := by
  refine ⟨?_, ?_, ?_, ?_, ?_, ?_, ?_, ?_, ?_, ?_, ?_, ?_, ?_, ?_, ?_, ?_, ?_⟩ <;> rfl

/-- A lane of a physical register after a masked write. -/
theorem vphys_setPhys (r q l : Nat) (m : BitVec 32) (f : Nat → Word) (hl : l < 32) :
    (p.setPhys r m f).vphys q l = if q = r then (if m.getLsbD l then f l else p.vphys r l) else p.vphys q l := by
  unfold Party.vphys Party.setPhys
  simp only [get_insert]
  split
  · simp [hl, Party.vphys]
  · rfl

/-- A move past words touches nothing but where the path stands. -/
theorem modTop_eq (f : Entry → Entry) : p.modTop f = { p with stack := (p.modTop f).stack } := by
  unfold Party.modTop
  split <;> rfl

theorem advance_eq (n : Nat) : p.advance n = { p with stack := (p.advance n).stack } := modTop_eq p _

@[simp] theorem exm_setPhys (r : Nat) (m : BitVec 32) (f : Nat → Word) : (p.setPhys r m f).exm = p.exm := rfl

end

/-! ## What a read returns (R246) -/

section
variable {before : PastWrite → Bool} {stop : Nat → PastWrite → Bool}

/-- Below a write that the reader comes after, and that comes after all older ones, nothing is left to return. -/
theorem raceByte_closed (a : Nat) (v : PastWrite) (ws : List PastWrite) (h : ∀ w ∈ ws, v.after.has w = true) :
    ∀ i last b, v ∈ last → raceByte before stop a ws i last b = none := by
  induction ws with
  | nil =>
    intro i last b hv
    cases last with
    | nil => cases hv
    | cons x l => rfl
  | cons w r ih =>
    intro i last b hv
    have hr : ∀ j l c, v ∈ l → raceByte before stop a r j l c = none := ih fun x hx => h x (by simp [hx])
    have hw : last.any (fun x => x.after.has w) = true := List.any_eq_true.mpr ⟨v, hv, h w (by simp)⟩
    simp only [raceByte]
    split
    · exact hr _ _ _ hv
    · rw [hr _ _ _ (by split <;> simp [hv])]
      simp [hw]

/-- Where the reader comes after every write, and each write after the older ones, a read returns what stands at the home. -/
theorem racyByte_ordered (s : State) (a : Nat) (ws : List PastWrite) (hb : ∀ w ∈ ws, before w = true)
    (h : ws.Pairwise fun w v => w.after.has v = true) : s.racyByte ws before stop a = s.mem.read a := by
  suffices ∀ i, raceByte before stop a ws i [] (s.mem.read a) = some (s.mem.read a) by simp [State.racyByte, this]
  induction ws with
  | nil => intro i; rfl
  | cons w r ih =>
    intro i
    obtain ⟨hw, hr⟩ := List.pairwise_cons.mp h
    simp only [raceByte]
    split
    · exact ih (fun x hx => hb x (by simp [hx])) hr _
    · rw [raceByte_closed a w r hw _ _ _ (by simp [hb w (by simp)])]
      simp

@[simp] theorem racyByte_nil (s : State) (a : Nat) : s.racyByte [] before stop a = s.mem.read a := rfl

end

/-! ## Whatever writes memory keeps its canonical form (log 1) -/

section
variable {s : State}

theorem mem_remark (s : State) (a : Nat) (w : Bool) : (s.remark a w).mem = s.mem := by
  unfold State.remark
  split
  · rfl
  · split <;> rfl

theorem memOk_putLine (h : s.MemOk) (a : Nat) (bs : List Byte) (w : Bool) : (s.putLine a bs w).MemOk := wf_writeBytes h a bs

theorem memOk_postEvent (h : s.MemOk) (d type flags : Nat) (payload : List Byte) : (s.postEvent d type flags payload).MemOk := by
  unfold State.postEvent
  dsimp only
  split
  · exact h
  · split
    · exact h
    · split
      · exact h
      · exact memOk_putLine h _ _ true

theorem memOk_writeLine (h : s.MemOk) (a : Nat) (bs : List Byte) (w : Bool) : (s.writeLine a bs w).MemOk := by
  unfold State.writeLine
  dsimp only
  split
  · exact h
  · split
    · exact memOk_postEvent (memOk_putLine h _ _ _) _ _ _ _
    · exact memOk_putLine h _ _ _

theorem memOk_writeLines (w : Bool) (n : Nat) (h : s.MemOk) (a : Nat) (bs : List Byte) : (State.writeLines w n s a bs).MemOk := by
  induction n generalizing s a bs with
  | zero => exact h
  | succ n ih =>
    unfold State.writeLines
    split
    · exact h
    · exact ih (memOk_writeLine h _ _ _) _ _

theorem memOk_writeHome (h : s.MemOk) (a : Nat) (bs : List Byte) : (s.writeHome a bs).MemOk := memOk_writeLines _ _ h a bs
theorem memOk_writeWhole (h : s.MemOk) (a : Nat) (bs : List Byte) : (s.writeWhole a bs).MemOk := memOk_writeLines _ _ h a bs

theorem memOk_orderedBy (s0 : State) (x : Seen) (h : s.MemOk) : (s.orderedBy s0 x).MemOk := h

theorem wf_foldWrite (m : AMap Byte) {M : Memory} (h : Memory.wf M = true) : Memory.wf (m.foldl (fun x e => x.write e.1 e.2) M) = true := by
  induction m generalizing M with
  | nil => exact h
  | cons e r ih => exact ih (wf_write h e.1 e.2)

theorem memOk_writeAs (h : s.MemOk) (id : Nat) (after : Seen) (m : AMap Byte) : (s.writeAs id after m).MemOk := by
  unfold State.writeAs
  dsimp only
  split
  · exact h
  · split
    · exact h
    · split
      · exact memOk_postEvent (wf_foldWrite _ h) _ _ _ _
      · exact wf_foldWrite _ h

theorem memOk_writeSome (h : s.MemOk) (after : Seen) (m : AMap Byte) : (s.writeSome after m).MemOk := memOk_writeAs h _ _ _

theorem memOk_noteLine (h : s.MemOk) (ctx va fpa : Nat) : (s.noteLine ctx va fpa).MemOk := by
  unfold State.noteLine
  dsimp only
  split <;> exact h

theorem memOk_settleStore (h : s.MemOk) (x : Store) : (s.settleStore x).MemOk := memOk_noteLine (memOk_writeAs h _ _ _) _ _ _

theorem memOk_copyFrame (h : s.MemOk) (src dst n : Nat) : (s.copyFrame src dst n).MemOk := wf_copyRange h src dst n

/-- A fold of operations that each keep it. -/
theorem memOk_foldl {β : Type} {f : State → β → State} (hf : ∀ s x, s.MemOk → (f s x).MemOk) (l : List β) (h : s.MemOk) :
    (l.foldl f s).MemOk := by
  induction l generalizing s with
  | nil => exact h
  | cons x l ih => exact ih (hf s x h)

theorem memOk_failTask (h : s.MemOk) (t cause info : Nat) (addr : DWord) (handler : Bool) :
    (s.failTask t cause info addr handler).MemOk := by
  unfold State.failTask
  split
  · exact h
  · split
    · exact h
    · exact memOk_postEvent (s := s.putTask t _) h _ _ _ _

theorem memOk_takeTrap (h : s.MemOk) (t i : Nat) (tr : Trap) : (s.takeTrap t i tr).MemOk := by
  unfold State.takeTrap
  split
  · exact h
  · split
    · exact h
    · split
      · exact memOk_failTask h _ _ _ _ _
      · exact h

/-- A word that acts on its party alone writes no memory but the record of a task that fails. -/
theorem memOk_runParty {t : State} {n : Nat} {f : Env → Party → Except Trap Party} (h : s.MemOk) (e : s.runParty n f = .next t) :
    t.MemOk := by
  rcases runParty_cases e with ⟨_, rfl⟩ | ⟨c, _, ⟨p, _, rfl⟩ | ⟨tr, _, rfl⟩⟩
  · exact h
  · exact h
  · exact memOk_takeTrap h _ _ _

theorem memOk_runJump {t : State} {f : Env → Party → Except Trap Party} (h : s.MemOk) (e : s.runJump f = .next t) : t.MemOk := by
  rcases runJump_cases e with ⟨_, rfl⟩ | ⟨c, _, ⟨p, _, rfl⟩ | ⟨tr, _, rfl⟩⟩
  · exact h
  · exact h
  · exact memOk_takeTrap h _ _ _

theorem memOk_runExec {t : State} {f : Exec → Except Trap State} (h : s.MemOk) (hf : ∀ c u, f c = .ok u → u.MemOk)
    (e : s.runExec f = .next t) : t.MemOk := by
  rcases runExec_cases e with ⟨_, rfl⟩ | ⟨c, _, e' | ⟨tr, _, rfl⟩⟩
  · exact h
  · exact hf c t e'
  · exact memOk_takeTrap h _ _ _

theorem memOk_runWide {t : State} {n : Nat} {f : Env → Party → Except Trap Party} (h : s.MemOk) (e : s.runWide n f = .next t) :
    t.MemOk := by
  rcases runWide_cases e with ⟨_, rfl⟩ | ⟨c, _, ⟨p, _, rfl⟩ | ⟨p, _, ⟨q, _, rfl⟩ | ⟨tr, _, rfl⟩⟩⟩
  · exact h
  · exact h
  · exact h
  · refine memOk_takeTrap ?_ _ _ _
    exact h

theorem memOk_runV {t : State} {n : Nat} {fs : BitVec 1} {f : Env → Party → Except Trap VResult} (h : s.MemOk)
    (e : s.runV n fs f = .next t) : t.MemOk := by
  rcases runV_cases e with ⟨_, rfl⟩ | ⟨c, _, ⟨_, rfl⟩ | ⟨r, _, rfl⟩ | ⟨tr, _, rfl⟩⟩
  · exact h
  · exact h
  · exact h
  · exact memOk_takeTrap h _ _ _

end

end Sys2Proof.Laws
end

