-- ==== Sys2Proof/Tests/Slice0.lean ====
section
/-! SUPPORT. Tests of the model and witnesses of its statements: ill-formed terms that the checks refuse, words written out from
the spec's encodings, single steps on a small machine with results taken from the spec's own tables, and for every statement
with hypotheses a state and operands that meet them. -/

namespace Sys2Proof.Tests

open Sys2Proof Sys2Proof.Machine

set_option maxRecDepth 1000000
set_option Elab.async false

/-! ## Well-formedness: one ill-formed term for each check (R77, R79, R80, R83) -/

theorem test_wf_brd_psel : ¬ (Instr.brd 0 8 0 0).WellFormed := by decide
theorem test_wf_brd_trailer : ¬ (Instr.brd 0 0 0 0x02000000).WellFormed := by decide
theorem test_wf_movl : ¬ (Instr.movl 0 2 0).WellFormed := by decide
theorem test_wf_spawn : ¬ (Instr.spawn 1 0 0 0).WellFormed := by decide
theorem test_wf_lscan : ¬ (Instr.lscan 0 0 6).WellFormed := by decide
theorem test_wf_cvt_same : ¬ (Instr.cvt 0 0 0 0 0 0).WellFormed := by decide
theorem test_wf_cvt_code : ¬ (Instr.cvt 0 0 9 0 0 0).WellFormed := by decide
theorem test_wf_cvt_pos : ¬ (Instr.cvt 0 0 5 0 0 1).WellFormed := by decide
theorem test_wf_cvt_sat : ¬ (Instr.cvt 0 0 1 0 1 0).WellFormed := by decide
theorem test_wf_qscale : ¬ (Instr.qscale 0 0 3).WellFormed := by decide
theorem test_wf_qcvt : ¬ (Instr.qcvt 0 0 0 3).WellFormed := by decide
theorem test_wf_qst : ¬ (Instr.qst 0 0 0 3).WellFormed := by decide
theorem test_wf_dqld : ¬ (Instr.dqld 0 0 0 0 3).WellFormed := by decide
theorem test_wf_dq : ¬ (Instr.dq 0 0 0 3).WellFormed := by decide
theorem test_wf_rekey : ¬ (Instr.rekey 0 0 0 3).WellFormed := by decide
theorem test_wf_ld : ¬ (Instr.ld 0 0 0 0 7).WellFormed := by decide
theorem test_wf_ldu : ¬ (Instr.ldu 0 0 0 0 7).WellFormed := by decide
theorem test_wf_lds : ¬ (Instr.lds 0 0 0 0 7).WellFormed := by decide
theorem test_wf_st : ¬ (Instr.st 0 0 0 1).WellFormed := by decide
theorem test_wf_sts : ¬ (Instr.sts 0 0 0 3).WellFormed := by decide
theorem test_wf_atom : ¬ (Instr.atom 0 0 0 0 14).WellFormed := by decide
theorem test_wf_ared : ¬ (Instr.ared 0 0 11).WellFormed := by decide
theorem test_wf_staq : ¬ (Instr.paccStaq 0 0 5).WellFormed := by decide
theorem test_wf_iadd : (Instr.iadd 127 127 127 1).WellFormed := by decide

/-! ## Words (R45, R75 to R82): MAJ, D, A, B and M in their places -/

/-- The words decode to the instruction, with none left. -/
def reads (ws : List Word) (i : Instr) : Bool := match decode ws with | .ok (j, []) => j == i | _ => false
def readsAll (l : List (List Word × Instr)) : Bool := l.all fun x => reads x.1 x.2

/-- The words are refused for this reason. -/
def refuses (ws : List Word) (e : DecodeError) : Bool := match decode ws with | .error x => x == e | _ => false

theorem test_decode_control : readsAll
    [([0x030087EB], .clh 0x804 3 15 5 1), ([0x059FFFFD], .bra 1 9 (-3)), ([0x06100006, 0x00000008], .brd 0 1 6 8),
     ([0x08001080, 0x00400008], .jtab 2 8 0x00400008), ([0x0A006000], .jmpi 12), ([0x0DA7FFFF], .call 1 2 0x7FFFF),
     ([0x0E000000], .ret), ([0x10000000], .exit), ([0x14000000], .yield), ([0x120C07FE], .wbase 1 1 (-2)),
     ([0x160007FF], .trapi 2047), ([0x18000000], .tfence), ([0x1A000000], .tret),
     ([0x1C000000, 0x00000001, 0x00000002, 0x00000003], .ppt 1 2 3), ([0x1E000401], .mark 1025)] = true := by decide

theorem test_decode_spawn_wait : readsAll
    [([0x20242061], .spawn 9 4 6 1), ([0x22282061], .spawnr 10 4 6 1), ([0x24002800], .await 5), ([0x26002800], .awaitp 5),
     ([0x28002060], .awaitc 4 6), ([0x2A1C0000], .bclose 7), ([0x2A003801], .bwait 7), ([0x2A20000A], .bstat 8 1),
     ([0x2C0028D0], .bar 5 13), ([0x2E002800], .pbar 5), ([0x2E002051], .signal 4 5), ([0x2E000002], .flushwc)] = true := by decide

theorem test_decode_vector_integer : readsAll
    [([0x31923210], .iadd 100 70 33 0), ([0x31923219], .isub 100 70 33 1), ([0x31923212], .iaddSs 100 70 33 0),
     ([0x3192321B], .iaddZs 100 70 33 1), ([0x31923214], .isubSs 100 70 33 0), ([0x3192321D], .isubZs 100 70 33 1),
     ([0x31923216], .iabsd 100 70 33 0), ([0x3192321F], .iavg 100 70 33 1), ([0x33923210], .iadd64 100 70 33 0),
     ([0x33923219], .isub64 100 70 33 1), ([0x33923212], .shl64 100 70 33 0), ([0x3392321B], .shr64 100 70 33 1),
     ([0x33923214], .sar64 100 70 33 0), ([0x3392321D], .imulw 100 70 33 1), ([0x33923216], .imulwZ 100 70 33 0),
     ([0x35923210], .imul 100 70 33 0), ([0x35923219], .imulhS 100 70 33 1), ([0x35923212], .imulhZ 100 70 33 0),
     ([0x3592321B], .imad 100 70 33 1), ([0x35923214], .idot4S 100 70 33 0), ([0x3592321D], .idot4Z 100 70 33 1),
     ([0x35923216], .idot2 100 70 33 0), ([0x37923210], .iminS 100 70 33 0), ([0x37923219], .iminZ 100 70 33 1),
     ([0x37923212], .imaxS 100 70 33 0), ([0x3792321B], .imaxZ 100 70 33 1), ([0x37923004], .iabs 100 70 0),
     ([0x3792300D], .ineg 100 70 1), ([0x37923006], .isgn 100 70 0)] = true := by decide

theorem test_decode_logic_shifts : readsAll
    [([0x39923210], .and 100 70 33 0), ([0x39923219], .or 100 70 33 1), ([0x39923212], .xor 100 70 33 0),
     ([0x3992321B], .andn 100 70 33 1), ([0x39923214], .orn 100 70 33 0), ([0x3992321D], .xnor 100 70 33 1),
     ([0x39923006], .not 100 70 0), ([0x3B923210], .shl 100 70 33 0), ([0x3B923219], .shr 100 70 33 1),
     ([0x3B923212], .sar 100 70 33 0), ([0x3B92321B], .rol 100 70 33 1), ([0x3B923214], .ror 100 70 33 0),
     ([0x3B92321D], .fshl 100 70 33 1), ([0x3B923216], .fshr 100 70 33 0), ([0x3D923000], .popc 100 70 0),
     ([0x3D923009], .clz 100 70 1), ([0x3D923002], .ctz 100 70 0), ([0x3D92300B], .brev 100 70 1),
     ([0x3D923214], .bfeZ 100 70 33 0), ([0x3D92321D], .bfeS 100 70 33 1), ([0x3D923216], .bfi 100 70 33 0),
     ([0x3D92321F], .prmt 100 70 33 1), ([0x3E08209F], .isetp 2 4 9 1 7), ([0x4168209D], .sel 90 4 9 1 5)] = true := by decide

theorem test_decode_moves_immediates : readsAll
    [([0x420C2808], .mov 3 5 1), ([0x42008801], .mfs 0 0x11), ([0x42643002], .mts 0x19 6), ([0x422017F3], .vxget 8 2 127),
     ([0x42201854], .vxput 8 3 5), ([0x42200805], .p2v 8 1), ([0x42044006], .v2p 1 8), ([0x42104867], .uvget 4 9 6),
     ([0x44183FFF], .iaddi 6 7 (-1)), ([0x461807FB], .movi 6 (-5)), ([0x48300800, 0x3F800000], .movl 12 1 0x3F800000),
     ([0x4A103080], .lea 4 6 8), ([0x4A103081], .leaG 4 6 8), ([0x66183FFF], .saddi 6 7 (-1)), ([0x6818004D], .smovi 6 77),
     ([0x6A103080], .slea 4 6 8), ([0x6A103081], .sleaG 4 6 8)] = true := by decide

theorem test_decode_uniform : readsAll
    [([0x61923210], .sadd 100 70 33), ([0x61923211], .ssub 100 70 33), ([0x61923212], .smul 100 70 33),
     ([0x61923213], .sand 100 70 33), ([0x61923214], .sor 100 70 33), ([0x61923215], .sxor 100 70 33),
     ([0x61923216], .sshl 100 70 33), ([0x61923217], .sshr 100 70 33), ([0x63923210], .sminS 100 70 33),
     ([0x63923211], .smaxS 100 70 33), ([0x63923212], .sminZ 100 70 33), ([0x63923213], .smaxZ 100 70 33),
     ([0x63923214], .sadd64 100 70 33), ([0x63923215], .ssub64 100 70 33), ([0x63923216], .ssar 100 70 33),
     ([0x63923007], .spopc 100 70), ([0x64163216], .ssetq 5 70 33 6)] = true := by decide

theorem test_decode_lanes : readsAll
    [([0x70143070], .shflIdx 5 6 7), ([0x701431F1], .shflUp 5 6 31), ([0x70143012], .shflDn 5 6 1),
     ([0x70284013], .shflXor 10 8 1), ([0x720C6800], .voteAny 3 1 5), ([0x720C2801], .voteAll 3 0 5),
     ([0x738C6802], .voteBallot 99 1 5), ([0x720C2803], .voteUni 3 0 5), ([0x74141006], .lred 5 2 6),
     ([0x76141003], .lscan 5 2 3), ([0x78141000], .matchLanes 5 2)] = true := by decide

theorem test_decode_floating_point : readsAll
    [([0x81923210], .fadd 100 70 33 0), ([0x81923219], .fsub 100 70 33 1), ([0x81923212], .fmul 100 70 33 0),
     ([0x8192321B], .fmin 100 70 33 1), ([0x81923214], .fmax 100 70 33 0), ([0x8192321D], .fminn 100 70 33 1),
     ([0x81923216], .fmaxn 100 70 33 0), ([0x8192321F], .fcsgn 100 70 33 1), ([0x83923210], .ffma 100 70 33 0),
     ([0x83923219], .ffms 100 70 33 1), ([0x83923212], .fnfma 100 70 33 0), ([0x8392321B], .fnfms 100 70 33 1),
     ([0x8408209E], .fsetp 2 4 9 1 6), ([0x87923000], .fclass 100 70 0), ([0x87923009], .frnd 100 70 1),
     ([0x87923212], .fldexp 100 70 33 0), ([0x8792300B], .fgetx 100 70 1), ([0x87923004], .ffrac 100 70 0),
     ([0x8792300D], .fabs 100 70 1), ([0x87923006], .fneg 100 70 0), ([0x8792300F], .fsat 100 70 1)] = true := by decide

theorem test_decode_long_packed_floating_point : readsAll
    [([0x88141008], .rcp 5 2 0 1), ([0x88141401], .rsq 5 2 1 0), ([0x8814100A], .sqrt 5 2 0 1), ([0x88141403], .ex2 5 2 1 0),
     ([0x8814100C], .lg2 5 2 0 1), ([0x88141405], .sinpi 5 2 1 0), ([0x8814100E], .cospi 5 2 0 1),
     ([0x8A103490], .fdiv 4 6 1 9 0), ([0x8C200820], .hadd2 8 1 2 0), ([0x8C200829], .hsub2 8 1 2 1),
     ([0x8C200822], .hmul2 8 1 2 0), ([0x8C20082B], .hfma2 8 1 2 1), ([0x8C200824], .hmin2 8 1 2 0),
     ([0x8C20082D], .hmax2 8 1 2 1), ([0x8E141008], .hrcp 5 2 0 1), ([0x8E141401], .hrsq 5 2 1 0),
     ([0x8E14100A], .hsqrt 5 2 0 1), ([0x8E141403], .hex2 5 2 1 0), ([0x8E14100C], .hlg2 5 2 0 1),
     ([0x8E141405], .hsinpi 5 2 1 0), ([0x8E14100E], .hcospi 5 2 0 1)] = true := by decide

theorem test_decode_conversion_quantisation : readsAll
    [([0x900C3B86], .cvt 3 7 7 0 1 2), ([0xA0143000], .fmtset 5 6), ([0xA228A002], .qscale 10 20 2),
     ([0xA4143081], .qcvt 5 6 8 1), ([0xA6508080], .qst 20 16 8 0), ([0xA830808A], .dqld 12 16 8 1 2),
     ([0xAA143082], .dq 5 6 8 2), ([0xAC143081], .rekey 5 6 8 1)] = true := by decide

theorem test_decode_memory : readsAll
    [([0xB024343B], .ld 9 6 0x43 1 3), ([0xB20C2007], .ldi 3 4 3 1), ([0xB4203026], .st 8 6 2 6),
     ([0xB63027FE], .sti 12 4 (-2)), ([0xB8141474], .lds 5 2 1 7 4), ([0xB81416BC], .sts 5 2 107 4),
     ([0xBA202415], .ldu 8 4 0x41 0 5), ([0xBC282430], .atom 10 4 1 3 0), ([0xBE002079], .ared 4 7 9),
     ([0xC0008000], .acp 16), ([0xC2001040], .cwb 2 4), ([0xC2181041], .cinvD 6 2 4), ([0xC2001042], .cinvW 2 4),
     ([0xC2001013], .pref 2 1), ([0xC228100C], .cprobe 10 2 1), ([0xC4008000], .stm 16), ([0xC6008000], .comb 16)] = true := by decide

theorem test_decode_engines : readsAll
    [([0xD0001040], .gang 2 4), ([0xD20C8285], .pmma 3 16 40 5), ([0xD47C0000], .paccZero 31), ([0xD47C8001], .paccLda 31 16),
     ([0xD47C8002], .paccSta 31 16), ([0xD47C8043], .paccStaq 31 16 4), ([0xD450283C], .paccRda 20 5 3 1),
     ([0xD47C8005], .paccScale 31 16), ([0xE000C000], .cgrp 24), ([0xE2008000], .cag 16), ([0xE2008001], .crs 16),
     ([0xE2008002], .car 16), ([0xE2008003], .chand 16), ([0xE4385008], .cstat 14 10 1), ([0xE8010000], .npost 32),
     ([0xEA281008], .npoll 10 2 1)] = true := by decide

theorem test_decode_system : readsAll
    [([0xF8004000], .syscallVersion 8), ([0xF8100001], .rdtime 4), ([0xF8100002], .digestValue 4),
     ([0xF8100802], .digestCount 4), ([0xF8183883], .tmask 6 7 8), ([0xF8183884], .aflags 6 7 8), ([0xFA003800], .ctxmode 7),
     ([0xFC001040], .tlbi 2 4)] = true := by decide


/-- The worked words of spec/04, spec/06, spec/07, spec/08 and spec/09, as they are printed there. -/
theorem test_decode_worked : readsAll
    [([0xB0202024], .ld 8 4 2 0 4), ([0xBC282430], .atom 10 4 1 3 0), ([0x90243901], .cvt 9 7 2 0 0 1), ([0x300C2878], .iadd 3 5 7 1),
     ([0x3E082092], .isetp 2 4 9 0 2), ([0x461807FB], .movi 6 (-5)), ([0x48300800, 0x3F800000], .movl 12 1 0x3F800000),
     ([0x70284013], .shflXor 10 8 1), ([0x42008801], .mfs 0 0x11), ([0x822818B8], .ffma 10 3 11 1), ([0x8A103490], .fdiv 4 6 1 9 0),
     ([0x88141000], .rcp 5 2 0 0), ([0x8C20082B], .hfma2 8 1 2 1), ([0x900C3B86], .cvt 3 7 7 0 1 2), ([0xA0143000], .fmtset 5 6),
     ([0xA6508080], .qst 20 16 8 0), ([0xA8308082], .dqld 12 16 8 0 2), ([0xB024343B], .ld 9 6 0x43 1 3), ([0xB20C2007], .ldi 3 4 3 1),
     ([0xB63027FE], .sti 12 4 (-2)), ([0xB8141074], .lds 5 2 0 7 4), ([0xB814107C], .sts 5 2 7 4), ([0xBE002079], .ared 4 7 9),
     ([0xC0008000], .acp 16), ([0xC2181041], .cinvD 6 2 4), ([0xC2281004], .cprobe 10 2 0), ([0xD0001040], .gang 2 4),
     ([0xD20C8280], .pmma 3 16 40 0), ([0xD2004107], .pmma 0 8 16 7), ([0xD450283C], .paccRda 20 5 3 1), ([0xE2008002], .car 16),
     ([0xE4281000], .cstat 10 2 0), ([0xE8010000], .npost 32), ([0xF8100001], .rdtime 4), ([0xF8183884], .aflags 6 7 8),
     ([0xFC001040], .tlbi 2 4)] = true := by decide

/-- Words that are no instruction: R44, R77, R79, R80, R81 and R83 (the cases of spec/04). -/
theorem test_decode_refused : (refuses [0] .zeroWord && refuses [0x92000000] .unassigned && refuses [0xBE00000B] .unassigned &&
    refuses [0x90000000] .unassigned && refuses [0x90000281] .unassigned && refuses [0xD2000009] .unassigned && refuses [0xB4000001] .unassigned &&
    refuses [0x06100006, 0x02000008] .reserved && refuses [0x0E000001] .reserved && refuses [0x06100006] .short) = true := by decide

/-! ## A small machine -/

/-- Pages of 64 KiB at their own addresses: code and data that no cache holds, data that L1 holds, node memory, and tile memory. -/
def plainLeaf (va : Nat) : Leaf := { fetchLeaf with frame := va }
def cachedLeaf : Leaf := { fetchLeaf with frame := 0x20000, home := .cached }
def nodeLeaf : Leaf := { fetchLeaf with frame := 2 ^ 55 + 0x40000 }
def tileLeaf : Leaf := { fetchLeaf with frame := 3 * 2 ^ 54 + 2 ^ 50 + 2 ^ 37, home := .slice }

/-- The tables that map them (R273, R274), and a machine whose context 0 they are. -/
def tables : Memory :=
  [(0x100000, 1), (0x100002, 0x11), (0x110000, 1), (0x110002, 0x12), (0x120000, 1), (0x120002, 0x13), (0x130010, 0xDF), (0x130012, 1),
    (0x130020, 0x9F), (0x130022, 2), (0x130030, 0xDF), (0x130032, 3), (0x130040, 0xDF), (0x130042, 4), (0x130046, 0x80), (0x130050, 0x5F),
    (0x130054, 0x20), (0x130056, 0xC4)]
def mapped (s : State) : State := { (s.putCtx 0 { s.ctx 0 with ctxpt := 0x100001 }) with mem := tables }

/-- The descriptor of its task: 128 registers of each kind, 4 KiB of scratch, a handler at 0x10100. -/
def demoDesc : Descriptor :=
  { entry := 0x10000, trap := 0x10100, scratch := 4096, parties := 1, vregs := 128, uregs := 128, stage := 0, ord := false, nd := false
    det := false, ranges := [] }

/-- Its party, with these uniform registers and active lanes, inside a clause of one word. -/
def demoParty (u : Cells 32) (m : BitVec 32) : Party :=
  { (Party.start demoDesc 0 0 Seen.none) with u := u, stack := [{ (fetchEntry [0x461807FB]) with mask := m }] }

def demoTask (p : Party) : Task := { (fetchTask [0x461807FB]) with desc := demoDesc, parties := [p] }

/-- The machine: that party on core 0 of die 0, its pages in the TLB, executing. -/
def demo (p : Party) : State :=
  let s := mapped (State.reset.putTask 0 (demoTask p))
  { (s.putCore 0 0 { (s.core 0 0) with tlb := [{ ctx := 0, va := 0x10000, leaf := plainLeaf 0x10000 },
      { ctx := 0, va := 0x20000, leaf := cachedLeaf }, { ctx := 0, va := 0x30000, leaf := plainLeaf 0x30000 },
      { ctx := 0, va := 0x40000, leaf := nodeLeaf },
      { ctx := 0, va := 0x50000, leaf := tileLeaf }] }) with cur := some (0, 0), stage := 3, nextId := 5, fabcfg := 0xFFFFFFFF0080, portUp := 0xFFFFFFFF }

def demoExec (p : Party) : Exec := { tid := 0, pi := 0, task := demoTask p, party := p }

theorem demo_current (p : Party) : (demo p).current = some (demoExec p) := rfl

/-- All 32 lanes with nothing in any register but these uniform ones; and lane 0 alone. -/
def full (u : Cells 32) : Party := demoParty u 0xFFFFFFFF
def solo (u : Cells 32) : Party := demoParty u 1

/-- A store of one byte, and a flit that brings one. -/
def aStore (fpa : Nat) : Store := { bytes := [(fpa, 7)], va := 0x40000, ctx := 0, id := 0, after := Seen.none }

def flitOf (who : List (Nat × Nat)) (custody performed : Bool) (fpa : Nat) : Flit :=
  { fpa := fpa, va := 0x40000, frame := 0, work := .line [aStore fpa], die := 0, core := 0, ctx := 0, who := who, write := 0, after := Seen.none, sure := false
    custody := custody, performed := performed, failed := false, olds := [] }

/-- A machine with a failed die. -/
def dead (d : Nat) (seen : Bool) : State := State.reset.putDie d { Die.reset with failed := true, detected := seen }

/-- What a word leaves in the executing party. -/
def after (o : Out) : Option Party := match o with | .next t => t.party? 0 0 | _ => none

/-- The machine with a clause header's word at an address: a transfer's target (R51). -/
def header (a : Nat) (s : State) : State := { s with mem := s.mem.writeBytes a [0, 0, 0, 2] }

/-- A vector register's lane 0, and a uniform register, after a word. -/
def vAfter (o : Out) (n : Nat) : Option Word := (after o).map fun p => p.vreg n 0
def uAfter (o : Out) (n : Nat) : Option Word := (after o).map fun p => p.ureg n
def causeAfter (o : Out) : Option Word := (after o).map (·.tcause)

/-- The party with lane 0 of a vector register set. -/
def withV (p : Party) (l : List (Nat × Word)) : Party := l.foldl (fun p x => p.setV x.1 fun _ => x.2) p

/-! ## Single steps, with results from the spec's tables and cases -/

/-- IADD.SS of 0x7FFF_FFFF and 1 saturates, and no flag is raised (R115, the cases of spec/06). -/
theorem test_iaddSs_saturates : let s := demo (withV (solo []) [(1, 0x7FFFFFFF), (2, 1)])
    (vAfter (exec (.iaddSs 3 1 2 0) s) 3, (after (exec (.iaddSs 3 1 2 0) s)).map (·.aflags)) = (some 0x7FFFFFFF, some 0) := by decide
theorem test_iadd_wraps : vAfter (exec (.iadd 3 1 2 0) (demo (withV (solo []) [(1, 0xFFFFFFFF), (2, 2)]))) 3 = some 1 := by decide
theorem test_isub_takes_uniform_a : vAfter (exec (.isub 3 1 2 1) (demo (withV (solo [(1, 5)]) [(2, 7)]))) 3 = some 0xFFFFFFFE := by decide
theorem test_isubZs_floor : vAfter (exec (.isubZs 3 1 2 0) (demo (withV (solo []) [(1, 3), (2, 4)]))) 3 = some 0 := by decide
theorem test_iavg_rounds_up : vAfter (exec (.iavg 3 1 2 0) (demo (withV (solo []) [(1, 0xFFFFFFFE), (2, 1)]))) 3 = some 0 := by decide
theorem test_iabsd : vAfter (exec (.iabsd 3 1 2 0) (demo (withV (solo []) [(1, 0x80000000), (2, 0x7FFFFFFF)]))) 3 = some 0xFFFFFFFF := by
  decide
/-- IDOT4.S with every byte 0x80 and d = 0 (the cases of spec/06). -/
theorem test_idot4S : vAfter (exec (.idot4S 3 1 2 0) (demo (withV (solo []) [(1, 0x80808080), (2, 0x80808080)]))) 3 = some 0x00010000 := by
  decide
theorem test_imulhS : vAfter (exec (.imulhS 3 1 2 0) (demo (withV (solo []) [(1, 0xFFFFFFFF), (2, 1)]))) 3 = some 0xFFFFFFFF := by decide
theorem test_imulhZ : vAfter (exec (.imulhZ 3 1 2 0) (demo (withV (solo []) [(1, 0xFFFFFFFF), (2, 1)]))) 3 = some 0 := by decide
theorem test_iabs_of_least : vAfter (exec (.iabs 3 1 0) (demo (withV (solo []) [(1, 0x80000000)]))) 3 = some 0x80000000 := by decide
/-- SAR of 0x8000_0000 by 40 (the cases of spec/06). -/
theorem test_sar_by_40 : vAfter (exec (.sar 3 1 2 0) (demo (withV (solo []) [(1, 0x80000000), (2, 40)]))) 3 = some 0xFFFFFFFF := by decide
theorem test_shl_by_32 : vAfter (exec (.shl 3 1 2 0) (demo (withV (solo []) [(1, 1), (2, 32)]))) 3 = some 0 := by decide
theorem test_fshl_by_0 : vAfter (exec (.fshl 3 1 2 0) (demo (withV (solo []) [(1, 7), (2, 9), (3, 32)]))) 3 = some 7 := by decide
theorem test_fshr_by_8 : vAfter (exec (.fshr 3 1 2 0) (demo (withV (solo []) [(1, 0x12), (2, 0x34567890), (3, 8)]))) 3 = some 0x12345678 := by
  decide
theorem test_clz_of_zero : vAfter (exec (.clz 3 1 0) (demo (solo []))) 3 = some 32 := by decide
theorem test_bfeS_signs : vAfter (exec (.bfeS 3 1 2 0) (demo (withV (solo []) [(1, 0xF0), (2, 0x0404)]))) 3 = some 0xFFFFFFFF := by decide
theorem test_bfe_stops_at_31 : vAfter (exec (.bfeZ 3 1 2 0) (demo (withV (solo []) [(1, 0xF0000000), (2, 0x201F)]))) 3 = some 1 := by decide
/-- IMULW with an odd destination pair raises ILL (R58, the cases of spec/06). -/
theorem test_imulw_odd_pair : causeAfter (exec (.imulw 5 2 3 0) (demo (solo []))) = some 0x02000005 := by decide
theorem test_sel : vAfter (exec (.sel 3 1 2 0 1) (demo ((withV (solo []) [(1, 5), (2, 9)]).setPred 1 fun _ => true))) 3 = some 5 := by decide
theorem test_isetp_unsigned : (after (exec (.isetp 2 1 3 0 6) (demo (withV (solo []) [(1, 1), (3, 0x80000000)])))).map (fun p => p.pred 2)
    = some 1 := by decide
/-- UVGET s4, v9, s6 with s6 = 0x0000_0045 reads lane 5, active or not (the cases of spec/06). -/
theorem test_uvget_lane_5 : uAfter (exec (.uvget 4 9 6) (demo
    ({ (({ solo [(6, 0x45)] with stack := (full []).stack }).setV 9 fun l => BitVec.ofNat 32 (100 + l)) with stack := (solo []).stack }))) 4
    = some 105 := by decide
/-- VXGET with ix2 = 500 and displacement 20 raises RBX (the cases of spec/06). -/
theorem test_vxget_above_511 : ((causeAfter (exec (.vxget 8 2 20) (demo { solo [] with ix := [0, 0, 500, 0] }))).map
    fun w => w.toNat / 2 ^ 24) = some 0x04 := by decide
/-- MTS exm of all ones on a path that holds lanes 0 to 15 leaves its mask (the cases of spec/06). -/
theorem test_mts_exm : (after (exec (.mts 0 6) (demo (demoParty [(6, 0xFFFFFFFF)] 0xFFFF)))).map (·.exm) = some 0xFFFF := by decide
theorem test_sadd_uniform : uAfter (exec (.sadd 3 1 2) (demo (solo [(1, 0xFFFFFFFF), (2, 3)]))) 3 = some 2 := by decide
theorem test_inactive_lane_keeps : (after (exec (.movi 3 7) (demo (solo [])))).map (fun p => (p.vreg 3 0, p.vreg 3 1)) = some (7, 0) := by decide
theorem test_register_outside_is_rbx : ((causeAfter (exec (.movi 3 7) (demo { solo [] with vwb := 128 }))).map fun w => w.toNat / 2 ^ 24)
    = some 0x04 := by decide

/-- The worked run of R133: lanes 0 to 3 hold 1.0, 2^24, 1.0 and 1.0. -/
def laneRun (m : BitVec 32) : State :=
  demo (demoParty [] m |> fun p => p.setV 2 fun l => if l = 1 then 0x4B800000 else 0x3F800000)
theorem test_lred_fadd_in_order : (after (exec (.lred 5 2 6) (laneRun 0xF))).map (fun p => (p.ureg 5, p.aflags)) = some (0x4B800000, 1) := by
  decide
theorem test_lred_fadd_without_lane_1 : (after (exec (.lred 5 2 6) (laneRun 0xD))).map (fun p => (p.ureg 5, p.aflags))
    = some (0x40400000, 0) := by decide
theorem test_lscan_fadd_exc : (after (exec (.lscan 4 2 3) (laneRun 0xF))).map (fun p => [p.vreg 4 0, p.vreg 4 1, p.vreg 4 2, p.vreg 4 3])
    = some [0x80000000, 0x3F800000, 0x4B800000, 0x4B800000] := by decide
/-- SHFL.UP #3 in lane 1 gives lane 1 its own value (the cases of spec/06). -/
theorem test_shfl_up : (after (exec (.shflUp 4 2 3) (laneRun 0xF))).map (fun p => (p.vreg 4 1, p.vreg 4 3)) = some (0x4B800000, 0x3F800000) := by
  decide

/-- FMIN and FMAXN of a quiet NaN and 2.0 (the cases of spec/07). -/
theorem test_fmin_of_nan : vAfter (exec (.fmin 3 1 2 0) (demo (withV (solo []) [(1, 0x7FC00001), (2, 0x40000000)]))) 3 = some 0x40000000 := by
  decide
theorem test_fmaxn_of_nan : vAfter (exec (.fmaxn 3 1 2 0) (demo (withV (solo []) [(1, 0x7FC00001), (2, 0x40000000)]))) 3 = some 0x7FC00000 := by
  decide
/-- FFMA of infinity, 0 and a quiet NaN (the cases of spec/07). -/
theorem test_ffma_inf_zero_nan : (after (exec (.ffma 3 1 2 0) (demo (withV (solo []) [(1, 0x7F800000), (3, 0x7FC00000)])))).map
    (fun p => (p.vreg 3 0, p.aflags)) = some (0x7FC00000, 0x10) := by decide
/-- FSETP.LT with a quiet NaN: 0, and NV (the cases of spec/07). -/
theorem test_fsetp_lt_nan : (after (exec (.fsetp 2 1 3 0 2) (demo (withV (solo []) [(1, 0x7FC00000)])))).map (fun p => (p.pred 2, p.aflags))
    = some (0, 0x10) := by decide
/-- FADD rounds by the path's own mode (R64): 1 + 2^-24 to nearest even, and towards plus infinity. -/
theorem test_fadd_rounds_even : (after (exec (.fadd 3 1 2 0) (demo (withV (solo []) [(1, 0x3F800000), (2, 0x33800000)])))).map
    (fun p => (p.vreg 3 0, p.aflags)) = some (0x3F800000, 1) := by decide
theorem test_fdiv_by_zero_pends : (after (exec (.fdiv 4 1 0 2 0) (demo (withV (solo []) [(1, 0x3F800000)])))).map
    (fun p => (p.vreg 4 0, p.pend.map fun x => (x.vwrites.map fun y => y.2.2.getD 0 0, x.aflags))) = some (0, [([0x7F800000], 0x08)]) := by decide
/-- QSCALE.E2M1X over 32 lanes of +0.0, and with a lane of infinity (the cases of spec/07). -/
theorem test_qscale_zeros : uAfter (exec (.qscale 10 20 2) (demo (full []))) 10 = some 0x7F := by decide
theorem test_qscale_infinity : (uAfter (exec (.qscale 10 20 2) (demo (withV (full []) [(20, 0x7F800000)]))) 10).map (fun w => w.toNat % 65536)
    = some 0xFF := by decide
theorem test_cvt_same_format_ill : causeAfter (exec (.unassignedEncoding 0x90000000) (demo (solo []))) = some 0x02000000 := by decide
theorem test_zero_word_zwf : (causeAfter (exec (.unassignedEncoding 0) (demo (solo [])))).map (fun w => w.toNat / 2 ^ 24) = some 0x01 := by decide

/-- The worked run of an FADD group (spec/08): four lanes add 1.0 to 2^24 at one address, a fifth to 1.0 at another. -/
def groupRun : State :=
  let p := ((demoParty [] 0x1F).setV 2 fun _ => 0x3F800000).setV 4 fun l => if l = 4 then 0x30040 else 0x30000
  let s := demo p
  { s with mem := (s.mem.writeBytes 0x30000 [0, 0, 0x80, 0x4B]).writeBytes 0x30040 [0, 0, 0x80, 0x3F] }
def memAfter (o : Out) (a n : Nat) : Option Nat := match o with | .next t => some (t.mem.readNat a n) | _ => none
theorem test_atom_fadd_group : let o := exec (.atom 8 4 0 2 9) groupRun
    (memAfter o 0x30000 4, memAfter o 0x30040 4) = (some 0x4B800002, some 0x40000000) := by decide +kernel
theorem test_atom_fadd_olds : (after (exec (.atom 8 4 0 2 9) groupRun)).map (fun p => p.pend.map fun x => x.vwrites.map fun y => y.2.2.take 5)
    = some [[[0x4B800000, 0x4B800000, 0x4B800001, 0x4B800002, 0x3F800000]]] := by decide +kernel

/-- A machine whose lanes hold addresses from 0x30000 on, 4 bytes apart, in v4:v5, and these values in v6. -/
def memRun (m : BitVec 32) (f : Nat → Word) : State :=
  demo (((demoParty [] m).setV 4 fun l => BitVec.ofNat 32 (0x30000 + 4 * l)).setV 6 f)
theorem test_st_lowest_byte_first : memAfter (exec (.st 6 4 0x40 4) (memRun 1 fun _ => 0x11223344)) 0x30000 1 = some 0x44 := by decide +kernel
theorem test_st_byte_width : memAfter (exec (.st 6 4 0x40 0) (memRun 1 fun _ => 0x11223344)) 0x30000 4 = some 0x44 := by decide +kernel
/-- One ST.w32 that writes 5 from lane 2 and 9 from lane 7 to one word leaves 9 (the cases of spec/08). -/
theorem test_st_higher_lane_wins : memAfter (exec (.st 6 4 0x40 4)
    (demo (((demoParty [] 0x84).setV 4 fun _ => 0x30000).setV 6 fun l => if l = 2 then 5 else 9))) 0x30000 4 = some 9 := by decide +kernel
/-- 32 lanes ATOM.ADD 1 to a word of 10: 42 (the cases of spec/08). -/
theorem test_atom_add_32_lanes :
    let s := demo (((full []).setV 4 fun _ => 0x30000).setV 6 fun _ => 1)
    memAfter (exec (.ared 4 6 0) { s with mem := s.mem.writeBytes 0x30000 [10, 0, 0, 0] }) 0x30000 4 = some 42 := by decide +kernel
/-- LD.w32 at an address 2 mod 4 in lane 9: ALN of that lane, a read (R161, R162, R339). -/
theorem test_ld_misaligned_lane_9 : ((causeAfter (exec (.ld 8 4 0x40 0 4)
    (demo ((full []).setV 4 fun l => BitVec.ofNat 32 (0x30000 + 4 * l + (if l = 9 then 2 else 0)))))).map fun w => w.toNat / 2 ^ 24)
    = some 0x12 := by decide +kernel
/-- LD.w128 with D = 6 raises ILL (the cases of spec/08). -/
theorem test_ld_w128_of_v6 : causeAfter (exec (.ld 6 4 0x40 0 6) (memRun 1 fun _ => 0)) = some 0x02000005 := by decide
theorem test_ld_sign : (after (exec (.ld 8 4 0x40 1 1) { memRun 1 (fun _ => 0) with mem := tables.write 0x30000 0x80 })).map
    (fun p => p.pend.map fun x => x.vwrites.map fun y => y.2.2.getD 0 0) = some [[0xFFFFFF80]] := by decide +kernel
theorem test_sts_lds_past_scratch : ((causeAfter (exec (.sts 6 4 3 4) (demo ((solo [(3, 4)]).setV 4 fun _ => 4092)))).map
    fun w => w.toNat / 2 ^ 24) = some 0x11 := by decide
theorem test_pref_noncanonical : (exec (.pref 4 0) (demo ((solo []).setV 5 fun _ => 0x80000000))) matches .next _ := by decide

/-! Control, traps and waiting. -/

theorem test_bra_backwards : (after (exec (.bra 0 15 (-1)) (header 0x10000 (demo (solo []))))).map (fun p => (p.top.pc, p.top.clause)) = some (0x10000, none) := by
  decide +kernel
theorem test_bra_divided_predicate : ((causeAfter (exec (.bra 0 1 5) (demo ((full []).setPred 1 fun l => l == 3)))).map fun w => w.toNat / 2 ^ 24)
    = some 0x05 := by decide
theorem test_call_saves_next_word : (after (exec (.call 0 7 4) (header 0x10014 (demo (solo []))))).map (fun p => (p.lnk, p.top.pc)) = some (0x10008, 0x10014) := by
  decide +kernel
theorem test_jmpi_misaligned : ((causeAfter (exec (.jmpi 2) (demo (solo [(2, 0x10002)])))).map fun w => w.toNat / 2 ^ 24) = some 0x03 := by decide +kernel
/-- The worked BRD of R91: lanes 0 to 15 taken, the lower address on top. -/
theorem test_brd_worked :
    let s := demo ({ full [] with stack := [fetchEntry [1, 1]] }.setPred 1 fun l => l < 16)
    (after (exec (.brd 0 1 6 8) (header 0x1001C (header 0x10024 s)))).map (fun p => p.stack.map fun e => (e.pc, e.mask, e.rpc)) = some
      [(0x1000C, 0xFFFF0000, some 0x10024), (0x1001C, 0x0000FFFF, some 0x10024), (0x10024, 0xFFFFFFFF, none)] := by decide
theorem test_trapi_info : causeAfter (exec (.trapi 2047) (demo (solo []))) = some 0x210007FF := by decide
theorem test_tret_outside_handler : causeAfter (exec .tret (demo (solo []))) = some 0x02000004 := by decide
theorem test_exit_ends_party : (after (exec .exit (demo (solo [])))).map (·.ended) = some true := by decide
theorem test_wbase_worked : (after (exec (.wbase 0 0 2) (demo (solo [])))).map (·.vwb) = some 32 := by decide
theorem test_bclose_numbers : (after (exec (.bclose 3) (demo (solo [])))).map (fun p => (p.ureg 3, p.openBatch.no)) = some (0, 1) := by decide
theorem test_signal_adds : memAfter (exec (.signal 2 4) (demo (solo [(2, 0x30008), (4, 7)]))) 0x30008 8 = some 7 := by decide +kernel
theorem test_syscall_clock : (after (exec (.syscallClock 8) (demo (solo [(8, 2)])))).map (fun p => (p.ureg 8, p.ureg 9)) = some (0, 1050) := by
  decide
theorem test_tmask_sets_and_clears : (after (exec (.tmask 3 4 5) (demo { solo [(4, 0x1FF), (5, 0x1)] with tmask := 0x101 }))).map
    (fun p => (p.ureg 3, p.tmask)) = some (0x101, 0x11F) := by decide
theorem test_ctxmode_needs_supervisor : causeAfter (exec (.ctxmode 3) (demo (solo []))) = some 0x02000002 := by decide
theorem test_gang_of_one_ill : causeAfter (exec (.gang 2 4) (demo (solo [(2, 1)]))) = some 0x02000003 := by decide
theorem test_acp_overlap_ill : causeAfter (exec (.acp 16) (demo (solo [(16, 0x30000), (18, 0x30004), (20, 64), (21, 1)]))) = some 0x02000003 := by
  decide

/-! A step from reset, and a program's first instruction. -/

theorem test_reset_runs_no_program : (match step State.reset with | .next t => (t.stage, t.tasks.length) | _ => (99, 0)) = (1, 0) := by decide
theorem test_placed_word_runs : (match step (State.reset.withFetchWord 32 0x461807FB) with
    | .next t => (t.party? 0 0).map fun p => p.vreg 6 31 | _ => none) = some 0xFFFFFFFB := by decide
theorem test_failed_boot_stops : step { State.reset with stage := 15, code := 4, agenda := [.ev (.qnop 0)] } = .fault (.bootHalted 4) := rfl

/-- R242, R246: children 0 and 2 wrote the half-word 0x0100 and then 0x0303 with no edge between them. After their join a byte may be
either's, and the word's earlier value is neither's; where the second write follows the first, it is the second's alone. -/
def raced (upto : Nat) : List PastWrite :=
  [ { old := [(0, 0x00), (1, 0x01)], upto := 7, id := 2, after := { upto := upto, ids := [] } },
    { old := [(0, 0xEE), (1, 0xEE)], upto := 5, id := 1, after := Seen.none } ]
theorem test_race_either : [0, 1].map (fun a => raceByte (fun _ => true) (fun i _ => i == a) a (raced 0) 0 [] 3) = [some 3, some 1] := by decide
theorem test_race_never_initial : raceByte (fun _ => true) (fun _ _ => false) 0 (raced 0) 0 [] 3 = some 0x00 ∧
    raceByte (fun _ => true) (fun _ _ => false) 0 (raced 5) 0 [] 3 = some 3 := by decide

/-! ## Witnesses: states and operands that meet the hypotheses of each statement together -/

/-- StepKeepsMemoryCanonical. -/
theorem witness_step : ∃ s t : State, s.MemOk ∧ step s = .next t := ⟨State.reset, _, by decide, rfl⟩

/-- DecodeAndEncodeAgree. -/
theorem witness_encode : ∃ i : Instr, encode i ≠ [] ∧ (∀ w, i ≠ .unassignedEncoding w) ∧
    (∀ a, i ≠ .syscallUserEvent a ∧ i ≠ .syscallClock a ∧ i ≠ .syscallUnknown a) ∧ i.WellFormed :=
  ⟨.jtab 127 127 0xFFFFFFFF, by decide, fun _ => nofun, fun _ => ⟨nofun, nofun, nofun⟩, by decide⟩
theorem witness_decode : ∃ ws i, decode ws = .ok (i, []) := ⟨[0x461807FB], .movi 6 (-5), rfl⟩

/-- StepTakesTheNextTurn: a party's turn, an event, and a failed boot. -/
theorem witness_turn : ∃ (s : State) (x : Task) (p : Party) (k : Clause) (i : Instr), s.agenda = [.issue 0 0] ∧ s.stage ≠ 15 ∧
    s.task? 0 = some x ∧ x.parties[0]? = some p ∧ s.mayIssue x p = true ∧ p.top.clause = some k ∧ decode k.words = .ok (i, []) :=
  ⟨{ demo (full []) with agenda := [.issue 0 0] }, demoTask (full []), full [], _, .movi 6 (-5), rfl, by decide, rfl, rfl, by decide,
    rfl, rfl⟩
/-- A path at its reconvergence address above one that stopped inside its clause. -/
def stoppedParty : Party :=
  let e := (full []).top
  { full [] with stack := [{ e with mask := 1, rpc := some e.pc, clause := none }, { e with mask := 2, rpc := some e.pc, stopped := some 1 }, e] }
theorem witness_stopped_turn : ∃ (s : State) (x : Task) (p : Party) (k : Clause) (i : Instr), s.agenda = [.issue 0 0] ∧ s.stage ≠ 15 ∧
    s.task? 0 = some x ∧ x.parties[0]? = some p ∧ s.mayIssue x p = true ∧ p.top.clause = none ∧ p.reconcile.top.clause = some k ∧
    decode k.words = .ok (i, []) :=
  ⟨{ demo stoppedParty with agenda := [.issue 0 0] }, demoTask stoppedParty, stoppedParty, _, .movi 6 (-5), rfl, by decide, rfl, rfl,
    by decide, rfl, rfl, rfl⟩
theorem witness_event : ∃ s : State, s.agenda = [.ev (.qnop 0)] ∧ s.stage ≠ 15 :=
  ⟨{ State.reset with agenda := [.ev (.qnop 0)] }, rfl, by decide⟩
theorem witness_halted : ∃ s : State, s.stage = 15 ∧ s.agenda = [.ev (.qnop 0)] ∧ Turn.ev (.qnop 0) ≠ .ev .packageReset :=
  ⟨{ State.reset with stage := 15, agenda := [.ev (.qnop 0)] }, rfl, rfl, by decide⟩

/-- ClausesBeginAtHeaders: a misaligned PC; a header, a zero word and another word there; a flag with a count; a clause that breaks
no row of R51, and one that does. -/
def atHeader (w : Word) (pc : DWord) : Party :=
  { full [] with stack := [{ (fetchEntry [w]) with pc := pc, clause := none }] }
def headerRun (w : Word) (pc : DWord) : State :=
  let s := demo (atHeader w pc)
  { s with mem := s.mem.writeBytes 0x10000 (leBytes 4 w.toNat) }
theorem witness_pc_misaligned : (atHeader 0 0x10002).reconcile.top.pc.toNat % 4 ≠ 0 := by decide
def codeIs (s : State) (c : Exec) (a : Nat) (w : Word) : Bool := match s.codeWord c a with | .words ws => ws == [w] | _ => false
theorem witness_header : codeIs (headerRun 0x02000000 0x10000) (demoExec (atHeader 0x02000000 0x10000)) 0x10000 0x02000000 = true ∧
    reads [0x02000000] (.clh 0 0 0 0 0) = true := by decide +kernel
theorem witness_zero_word : codeIs (headerRun 0 0x10000) (demoExec (atHeader 0 0x10000)) 0x10000 0 = true ∧ refuses [0] .zeroWord = true := by
  decide +kernel
theorem witness_no_header : codeIs (headerRun 0x461807FB 0x10000) (demoExec (atHeader 0 0x10000)) 0x10000 0x461807FB = true ∧
    reads [0x461807FB] (.movi 6 (-5)) = true := by decide +kernel
theorem witness_flag_waits : ∃ i, i < 12 ∧ (0x800#12).getLsbD i = true ∧
    ({ atHeader 0 0x10000 with cf := (List.replicate 12 0).set 11 1 } : Party).cfCount i ≠ 0 := ⟨11, by decide⟩
theorem witness_clause_rows : clauseRow 1 2 [0x461807FB] = none ∧ clauseRow 1 2 [0x04F00003, 0x461807FB] ≠ none := by decide
def codesAre (s : State) (c : Exec) (a n : Nat) (l : List Word) : Bool := match s.codeWords c a n with | .words ws => ws == l | _ => false
theorem witness_clause_words : codesAre (headerRun 0x461807FB 0x10000) (demoExec (atHeader 0 0x10000)) 0x10000 1 [0x461807FB] = true := by
  decide +kernel

/-- RegistersReadBackAndAreChecked: the last lane and predicate; a name at the allotment's end, one past it, and an odd pair. -/
theorem witness_register : 31 < 32 ∧ (full []).preds.length = 8 ∧ 7 < 8 ∧ 6 < 7 := by decide
def checkSays (l : List RegUse) : Option Nat :=
  match useRegs ((demoExec (full [])).env (demo (full []))) (full []) l with | .ok _ => none | .error t => some t.cause
theorem witness_names : checkSays [RegUse.vb 127 1] = none ∧ checkSays [RegUse.vb 128 1] = some 4 := by decide

/-- TrapsEnterOrFailTheTask: a handler with traps not masked; masked; no handler; a task that has failed. -/
theorem witness_trap : ∃ (s : State) (x : Task) (p : Party) (e : Entry) (r : List Entry), s.task? 0 = some x ∧ x.parties[0]? = some p ∧
    p.stack = e :: r ∧ p.masked = false ∧ x.desc.trap ≠ 0#64 :=
  ⟨demo (full []), demoTask (full []), full [], _, _, rfl, rfl, rfl, by decide, by decide⟩
theorem witness_masked : ∃ (s : State) (x : Task) (p : Party), s.task? 0 = some x ∧ x.parties[0]? = some p ∧ p.masked = true ∧
    x.failed = false := ⟨demo { full [] with tmask := 0x100 }, _, _, rfl, rfl, by decide, rfl⟩
theorem witness_no_handler : ∃ (s : State) (x : Task) (p : Party), s.task? 0 = some x ∧ x.parties[0]? = some p ∧ x.desc.trap = 0#64 ∧
    x.failed = true :=
  ⟨State.reset.putTask 0 { demoTask (full []) with desc := { demoDesc with trap := 0 }, failed := true }, _, _, rfl, rfl, rfl, rfl⟩

/-- EventGoesToItsSlot: no ring, a full ring, and a ring with room. -/
def ringed (tail : Word) : State := State.reset.putDie 0 { Die.reset with eqBase := 0x30000, eqTail := tail }
theorem witness_ring : bits ((State.reset.die 0).eqBase.toNat) 12 44 * 4096 = 0 ∧
    ((ringed 4096).die 0).eqTail - ((ringed 4096).die 0).eqHead = 4096#32 ∧ (ringed 4095).MemOk ∧
    bits ((ringed 4095).die 0).eqBase.toNat 12 44 * 4096 ≠ 0 ∧ ((ringed 4095).die 0).eqTail - ((ringed 4095).die 0).eqHead ≠ 4096#32 ∧
    (ringed 4095).homeFailed (0x30000 + 64 * 4095) = false ∧ (ringed 4095).farLost 0 (0x30000 + 64 * 4095) (0x30000 + 64 * 4095) = false := by
  decide

/-- The statements of the vector and uniform words: the last name of the allotment, pairs and blocks at its end. -/
theorem witness_words : ∃ (s : State) (c : Exec), s.current = some c ∧ c.VOk 127 ∧ c.UOk 127 ∧ c.AOk 127 0 ∧ c.AOk 127 1 ∧ c.VPairOk 126 ∧
    c.UPairOk 126 ∧ c.APairOk 126 0 ∧ c.APairOk 126 1 ∧ c.UBlockOk 112 16 ∧ c.PosOk 125 ∧ c.CanPend 0 ∧ c.CanPend 1 :=
  ⟨demo (full []), demoExec (full []), rfl, by decide⟩
/-- MovesAndAddressesComplete: an index at the last register, and one past the allotment. -/
theorem witness_index : (((demoExec { full [] with ix := [120, 0, 0, 0] }).party.ix.getD 0 0).toNat + 7 < 128) ∧
    (128 ≤ ((demoExec { full [] with ix := [120, 0, 0, 0] }).party.ix.getD 0 0).toNat + 8) := by decide
/-- SpecialRegistersReadAndWrite: a window base that R57 admits, the first it does not, an `exm` that leaves a lane, and one that leaves
none to a bottom path and to one above another. -/
theorem witness_windows : (112#32).toNat % 16 = 0 ∧ (112#32).toNat < demoDesc.vregs ∧ demoDesc.vregs ≤ (128#32).toNat ∧
    (1#32) &&& (full []).exm ≠ 0#32 ∧ (full []).stack ≠ [] := by decide
theorem witness_exm_cleared : (∃ e, (solo []).stack = [e]) ∧ (2#32) &&& (solo []).exm = 0#32 ∧
    (∃ e r, stoppedParty.stack = e :: r ∧ r ≠ []) ∧ (2#32) &&& stoppedParty.exm = 0#32 := ⟨⟨_, rfl⟩, by decide, ⟨_, _, rfl, nofun⟩, by decide⟩
/-- LaneWordsComplete, ConversionsComplete, GangAndPressWordsComplete: a party-wide word that issues at once. -/
theorem witness_wide : (demoExec (full [])).IssuesWide (full []) ∧ lanesOf (full []).exm = 0 :: (List.range 32).tail ∧
    (full []).vwb.toNat + 127 < demoDesc.vregs ∧ (full []).swb.toNat + 127 < demoDesc.uregs := ⟨rfl, by decide⟩
/-- A party-wide word on the last path of a region that the other path has already reached (R230). -/
def dividedParty : Party :=
  let e := (full []).top
  { full [] with stack := [{ e with mask := 1, rpc := some 0x10010 }, { e with mask := 0xFFFFFFFE, rpc := some 0x10010, stopped := some 1 },
      { e with pc := 0x10010, clause := none }] }
def mergedParty : Party :=
  let e := { (full []).top with mask := 0xFFFFFFFF, rpc := some 0x10010, go := true }
  { full [] with stack := [e, { (full []).top with pc := 0x10010, clause := none }] }
theorem witness_wide_divided : (demoExec dividedParty).IssuesWide mergedParty ∧ mergedParty.exm = 0xFFFFFFFF := by decide

/-- ClassVResultCompletes: a result that is ready, one that waits, and a flag below the twelve. -/
def pendingOf (w : PendWait) : Pending :=
  { id := 4, flag := 11, vwrites := [(3, 0xFFFFFFFF, [7])], uwrites := [], aflags := 0, floating := true, wait := w }
theorem witness_class_v : ∃ (s : State) (p : Party), s.party? 0 0 = some p ∧ p.pend[0]? = some (pendingOf .ready) ∧ 11 < p.cf.length :=
  ⟨demo { full [] with pend := [pendingOf .ready] }, _, rfl, rfl, by decide⟩
theorem witness_class_v_waits : ∃ (s : State) (p : Party), s.party? 0 0 = some p ∧ p.pend[0]? = some (pendingOf (.flits [1])) ∧
    (pendingOf (.flits [1])).wait ≠ .ready := ⟨demo { full [] with pend := [pendingOf (.flits [1])] }, _, rfl, rfl, by decide⟩

/-! Memory words: one active lane whose address in v4:v5 lies in a page at its own address. -/

def lane0 (m : Nat) : Party := (solo [(2, BitVec.ofNat 32 m), (20, BitVec.ofNat 32 m), (21, 0)]).setV 4 fun _ => BitVec.ofNat 32 m
def at_ (m : Nat) : Target := .mem m m (plainLeaf (m / 65536 * 65536))

/-- A lane's look comes to a target. -/
def reaches (x : Except Trap LaneLook) (y : Target) : Bool := match x with | .ok (.ok z) => z == y | _ => false
theorem reached {x : Except Trap LaneLook} {y : Target} (h : reaches x y = true) : x = .ok (.ok y) := by
  unfold reaches at h
  split at h
  · rw [eq_of_beq h]
  · cases h
theorem only_lane_0 : ∀ l, l < 32 → (1#32).getLsbD l = true → l = 0 := by decide

/-- LoadsComplete and StoresComplete: every width's operand names, an access at a page's last bytes, and a home that answers. -/
theorem witness_widths : ∃ c : Exec, c.VWidthOk 0 127 ∧ c.VWidthOk 5 126 ∧ c.VWidthOk 6 124 ∧ c.UWidthOk 5 126 ∧ c.UWidthOk 6 124 ∧
    c.OffOk 63 ∧ c.OffOk 64 := ⟨demoExec (full []), by decide⟩
theorem witness_load : ∃ (s : State) (c : Exec), s.current = some c ∧ c.CanPend 1 ∧
    s.Reaches c .read 1 (fun l => ea64 (c.party.vpair 4 l) 0) (fun _ => at_ 0x3FFFF) ∧
    s.Readable c .read (c.targets fun _ => at_ 0x3FFFF) :=
  ⟨demo (lane0 0x3FFFF), demoExec (lane0 0x3FFFF), rfl, by decide, fun l hl h => by cases only_lane_0 l hl h; exact reached (by decide +kernel), by decide, rfl⟩
theorem witness_uniform_load : ∃ (s : State) (c : Exec) (ut : Target), s.current = some c ∧
    s.checkLane (c.env s) c.party .read 16 c.party.lowLane (ea64 (c.party.upair 20) 0) = .ok (.ok ut) ∧ s.Readable c .read [(0, ut)] :=
  ⟨demo (lane0 0x30000), demoExec (lane0 0x30000), at_ 0x30000, rfl, reached (by decide +kernel), by decide, rfl⟩
theorem witness_scratch : ∃ c : Exec, ∀ l, l < 32 → c.party.exm.getLsbD l = true →
    (c.party.vreg 4 l + c.party.ureg 3).toNat % 16 = 0 ∧ (c.party.vreg 4 l + c.party.ureg 3).toNat + 16 ≤ c.task.desc.scratch :=
  ⟨demoExec (lane0 4080), by decide⟩
theorem witness_store : ∃ (s : State) (c : Exec), s.current = some c ∧ s.MemOk ∧ c.party.storing = [] ∧
    s.Reaches c .write 16 (fun l => ea64 (c.party.vpair 4 l) 0) (fun _ => at_ 0x3FFF0) ∧
    s.storeWaits (c.targets fun _ => at_ 0x3FFF0) = false ∧ s.spillStalls c.task (c.targets fun _ => at_ 0x3FFF0) = false ∧
    s.satchelNeed c.task (c.targets fun _ => at_ 0x3FFF0) = 0 :=
  ⟨demo (lane0 0x3FFF0), demoExec (lane0 0x3FFF0), rfl, by decide, rfl, fun l hl h => by cases only_lane_0 l hl h; exact reached (by decide +kernel), by decide, by decide,
    by decide⟩
def heldStore : Party := { lane0 0x3FFF0 with storing := [(3, 0x3FFF0, [7])] }
/-- A store whose later lanes are still held, and the two ways in which its lanes may end. -/
theorem witness_store_held : ∃ (s : State) (c : Exec) (l : List (Nat × Nat × List Byte)), s.current = some c ∧ c.party.storing = l ∧ l ≠ [] ∧
    (∀ x ∈ l, s.checkLane (c.env s) c.party .write x.2.2.length x.1 x.2.1 = .ok (.ok (at_ 0x3FFF0))) ∧
    s.storeWaits (l.map fun x => (x.1, at_ 0x3FFF0)) = false ∧ s.spillStalls c.task (l.map fun x => (x.1, at_ 0x3FFF0)) = false ∧
    s.satchelNeed c.task (l.map fun x => (x.1, at_ 0x3FFF0)) = 0 ∧
    (∃ u, State.storeLanes 0 0 (l.map fun x => (at_ 0x3FFF0, x)) s = (u, [])) :=
  ⟨demo heldStore, demoExec heldStore, [(3, 0x3FFF0, [7])], rfl, rfl, nofun, fun x h => by rw [List.mem_singleton.mp h]; exact reached (by decide +kernel), by decide, by decide, by decide,
    _, rfl⟩
def contribLeaf : Leaf := { plainLeaf 0x30000 with r := false, x := false, contrib := true, slot := 63 }
/-- A Vat with no room for another round. -/
def fullVat : State :=
  (demo (full [])).putDie 0 { Die.reset with
    slots := [(63, { words := [0x100, 0, 1, 2, 0, 0, 0, 0], lastErr := 0, counts := [], ended := [], dead := [] })]
    rounds := [{ ctx := 0, fpa := 0, twin := 0, ctr := 0, size := Config.vatRoundBytes, op := 0, format := 0, ranks := 1, bytes := [] }] }
theorem witness_store_stops : State.storeLanes 0 0 [(.mem 0x30000 0x30000 contribLeaf, 3, 0x30000, [7])] fullVat
    = (fullVat, [(3, 0x30000, [7])]) := rfl

/-- StoredBytesGoByPage: a DET task, a page that L1 holds, and one that it does not; the line's last byte. -/
theorem witness_store_places : ∃ (s : State) (t : Task), s.task? 0 = some t ∧ s.MemOk ∧ t.det = false ∧ s.homeFailed 0x2003F = false ∧
    isRemote 0x2003F = false ∧ cachedLeaf.typ = .normal ∧ cachedLeaf.home = .cached ∧ cachedLeaf.contrib = false ∧
    (plainLeaf 0x30000).home ≠ .cached ∧ 0x2003F % 64 + [(7 : Byte)].length ≤ 64 :=
  ⟨demo (full []), demoTask (full []), rfl, by decide, rfl, by decide, by decide, rfl, rfl, rfl, by decide, by decide⟩
theorem witness_store_far : ∃ (s : State) (t : Task), s.task? 0 = some t ∧ t.det = false ∧ s.homeFailed (2 ^ 55 + 0x40000) = false ∧
    isRemote (2 ^ 55 + 0x40000) = true ∧ nodeLeaf.typ = .normal ∧ nodeLeaf.contrib = false ∧ (s.core t.die t.core).satchel = [] ∧
    t.scratchBad = [] ∧ (s.party? 0 0).isSome = true ∧ (plainLeaf 0x30000).typ ≠ .wcomb ∧ s.badCheck = [] :=
  ⟨demo (full []), demoTask (full []), rfl, rfl, by decide, by decide, rfl, rfl, rfl, rfl, rfl, nofun, rfl⟩
theorem witness_store_det : ∃ t : Task, t.det = true := ⟨{ demoTask (full []) with det := true }, rfl⟩

/-- PlainStoreFrame. -/
theorem witness_plain_store : ∃ (s t : State) (c : Exec), s.current = some c ∧ s.MemOk ∧
    c.VWidthOk 4 6 ∧ c.VPairOk 4 ∧ c.OffOk 64 ∧
    s.Reaches c .write 4 (fun l => ea64 (c.party.vpair 4 l) (c.party.offB 64 4)) (fun _ => at_ 0x3FFFC) ∧
    (∀ l, l < 32 → c.party.exm.getLsbD l = true → s.PlainTarget c (at_ 0x3FFFC) ∧ (at_ 0x3FFFC).fpa % 64 + 4 ≤ 64) ∧
    s.storeWaits (c.targets fun _ => at_ 0x3FFFC) = false ∧ c.party.storing = [] ∧ exec (.st 6 4 64 4) s = .next t :=
  ⟨demo (lane0 0x3FFFC), _, demoExec (lane0 0x3FFFC), rfl, by decide, by decide, by decide, by decide,
    fun l hl h => by cases only_lane_0 l hl h; exact reached (by decide +kernel),
    fun _ _ _ => ⟨⟨_, _, _, rfl, by decide, by decide, by decide, by decide, by decide, by decide, by decide⟩, by decide⟩, by decide, rfl, rfl⟩

/-- QuantisedStoreAndLoadComplete: a view at s4 with its codes at 0x30000 and its metadata at 0x38000, straight and transposed. -/
def viewParty (trans col : Nat) : Party :=
  solo [(4, 0x30000), (8, 256), (9, BitVec.ofNat 32 trans), (10, 0x38000), (17, BitVec.ofNat 32 col)]
theorem witness_view : ∃ (s : State) (c : Exec), s.current = some c ∧ c.VOk 20 ∧ c.UBlockOk 4 8 ∧ c.PosOk 16 ∧
    (viewOf (c.party.ublock 4 8)).reserved = true ∧ (viewOf (c.party.ublock 4 8)).trans = false ∧
    s.Reaches c .write 1 (fun _ => (viewOf (c.party.ublock 4 8)).codeAddr 0 (0, 32)) (fun _ => at_ 0x30020) ∧
    s.storeWaits (c.targets fun _ => at_ 0x30020) = false ∧ s.spillStalls c.task (c.targets fun _ => at_ 0x30020) = false ∧
    s.satchelNeed c.task (c.targets fun _ => at_ 0x30020) = 0 ∧ c.party.storing = [] :=
  ⟨demo (viewParty 0 32), demoExec (viewParty 0 32), rfl, by decide, by decide, by decide, by decide, by decide,
    fun l hl h => by cases only_lane_0 l hl h; exact reached (by decide +kernel), by decide, by decide, by decide, rfl⟩
theorem witness_block : ∃ (s : State) (c : Exec) (v : View), s.current = some c ∧ v = viewOf (c.party.ublock 4 8) ∧ v.pitch % 16 = 0 ∧
    v.sbase.toNat % 2 = 0 ∧ 32 % 32 = 0 ∧ v.aligned 2 = true ∧
    s.checkLane (c.env s) c.party .write 16 c.party.lowLane (v.codeAddr 2 (0, 32)) = .ok (.ok (at_ 0x30010)) ∧
    s.checkLane (c.env s) c.party .write 2 c.party.lowLane (v.metaAddr (0, 32)) = .ok (.ok (at_ 0x38002)) :=
  ⟨demo (viewParty 0 32), demoExec (viewParty 0 32), _, rfl, rfl, by decide, by decide, by decide, by decide, reached (by decide +kernel),
    reached (by decide +kernel)⟩
theorem witness_view_transposed : (viewOf ((viewParty 1 32).ublock 4 8)).trans = true ∧ (viewOf ((viewParty 1 32).ublock 4 8)).reserved = true := by
  decide

/-- AtomicLanesActInOrder and AtomicsComplete: a 64-bit operation at a line's last bytes. -/
theorem witness_atomic : ∃ (s : State) (c : Exec), s.current = some c ∧ c.VPairOk 4 ∧ c.VPairOk 6 ∧ c.CanPend 0 ∧ s.MemOk ∧
    s.Reaches c .atomic 8 (fun l => (c.party.vpair 4 l).toNat) (fun _ => at_ 0x3FFF8) ∧
    s.storeWaits (c.targets fun _ => at_ 0x3FFF8) = false ∧
    s.bufferStalls c.task (c.targets fun _ => at_ 0x3FFF8) = false ∧ s.intOf c.task.die .atomic (c.targets fun _ => at_ 0x3FFF8) = .ok () ∧
    c.party.exm ≠ 0#32 ∧ c.task.det = false ∧ isRemote 0x3FFF8 = false ∧ s.homeFailed 0x3FFF8 = false ∧ 0x3FFF8 % 64 + 8 ≤ 64 :=
  ⟨demo (lane0 0x3FFF8), demoExec (lane0 0x3FFF8), rfl, by decide, by decide, by decide, by decide,
    fun l hl h => by cases only_lane_0 l hl h; exact reached (by decide +kernel), by decide, by decide, rfl, by decide, rfl, by decide, by decide, by decide⟩
theorem witness_atomic_values : 2 ^ 32 - 1 < 2 ^ 32 ∧ (0xFFFFFFFF#64).toNat < 2 ^ 32 := by decide

/-- CacheWordsComplete: a range of one line of a cached page, with a dirty byte and without one, all of whose writes are near; a line of
it on its way; and a probe of each class of address, with a wrap under way and without. -/
def rangeParty : Party := solo [(20, 0x20000), (21, 0), (22, 64)]
def rangeRun (stores : List Store) : State :=
  let s := demo rangeParty
  s.putCore 0 0 { (s.core 0 0) with stores := stores }
def rangeSpan : Span := { lo := 0x20000, hi := 0x20040, leaf := cachedLeaf }
theorem witness_range : ∃ (s : State) (c : Exec), s.current = some c ∧ c.UPairOk 20 ∧ c.UOk 22 ∧ c.task.det = false ∧
    (c.party.upair 20).toNat = 0x20000 ∧ (c.party.ureg 22).toNat = 64 ∧
    (∀ acc, acc = Access.read ∨ acc = .write → (pieces 0x20000 0x20040).map (fun x => s.rangePage (c.env s) c.party acc x.1 x.2)
      = [RangeLook.span rangeSpan].map .ok) ∧ (∀ va, .miss va ∉ [RangeLook.span rangeSpan]) ∧
    ((s.core 0 0).stores.filter fun x => inSpans [rangeSpan] x.fpa) = [aStore 0x20010] ∧ rangeSpan.leaf.soft = true ∧ rangeSpan.leaf.w = true ∧
    (s.core 0 0).satchel = [] ∧ s.flits = [] ∧ s.MemOk ∧ s.badCheck = [] ∧ ∀ k, (s.die k).failed = false :=
  ⟨rangeRun [aStore 0x20010], demoExec rangeParty, rfl, by decide, by decide, rfl, by decide, by decide,
    fun acc h => by rcases h with rfl | rfl <;> rfl, (by intro va h; cases h with | tail _ h => cases h), by decide, rfl, rfl, rfl, rfl, by decide, rfl,
    fun _ => rfl⟩
theorem witness_probe : ∃ (s : State) (c : Exec) (l : Leaf), s.current = some c ∧ c.CanPend 1 ∧ c.UPairOk 126 ∧
    s.placeLane (c.env s) c.party.lowLane 0x40000 = .ok (.va 0x40000) ∧
    s.lookWord c.party.cancelled c.task.die c.task.core c.task.ctx 0x40000 = .hit l (2 ^ 55 + 0x40000) ∧ fpaClass (2 ^ 55 + 0x40000) = 2 ∧
    s.nodeUp (fpaNode (2 ^ 55 + 0x40000)) = true ∧ s.wrapNext = none :=
  ⟨demo (full []), demoExec (full []), nodeLeaf, rfl, by decide, by decide, rfl, by decide +kernel, by decide, by decide, rfl⟩
theorem witness_probe_classes : fpaClass 0x3FFFF = 0 ∧ fpaClass (2 ^ 54) = 1 ∧ fpaClass (3 * 2 ^ 54) = 3 ∧ bits (3 * 2 ^ 54) 50 4 ≠ 2 ∧
    ({ demo (full []) with wrapNext := some ([(1, 7)], [0]) } : State).wrapNext ≠ none ∧ ∃ e, (demo (full [])).exitDie 0 7 = some e := by
  refine ⟨by decide, by decide, by decide, by decide, by decide, 0, by decide⟩
/-- TransfersComplete: every lane, no lane, and some lanes hold; a target of each kind. -/
def predParty (f : Nat → Bool) : Party := (full [(20, 0x10100), (22, 0x10102), (24, 0), (25, 0x01000000)]).setPred 1 f
def holdsIn (f : Nat → Bool) (l : Nat) : Bool := ((predParty f).pred 1).getLsbD l != false
theorem witness_branch : (∀ l, l < 32 → holdsIn (fun _ => true) l = true) ∧ (∀ l, l < 32 → holdsIn (fun _ => false) l = false) ∧
    holdsIn (· == 31) 31 = true ∧ holdsIn (· == 31) 30 = false ∧ (full []).upred 7 = true ∧ (full []).upred 6 = false := by decide
theorem witness_jump : ((predParty fun _ => true).upair 20).toNat % 4 = 0 ∧ canonical ((predParty fun _ => true).upair 20).toNat = true ∧
    ((predParty fun _ => true).upair 22).toNat % 4 ≠ 0 ∧ ((predParty fun _ => true).upair 24).toNat % 4 = 0 ∧
    canonical ((predParty fun _ => true).upair 24).toNat = false := by decide

/-- DivergentBranchesComplete: the lanes divide, the join's word is a header, and is none; JTAB's table with one target for all lanes. -/
def forkRun (join : Word) : State :=
  let s := demo { predParty (· < 16) with stack := [fetchEntry [0x06100006, 8]] }
  { s with mem := s.mem.writeBytes 0x10024 (leBytes 4 join.toNat) }
def forkExec : Exec := demoExec { predParty (· < 16) with stack := [fetchEntry [0x06100006, 8]] }
theorem witness_fork : ∃ (s : State) (c : Exec) (e : Entry) (r : List Entry), s.current = some c ∧ c.party.stack = e :: r ∧
    e.mask &&& c.party.pred 1 ≠ 0#32 ∧ e.mask &&& ~~~(c.party.pred 1) ≠ 0#32 ∧ codeIs s c 0x10024 0x02000000 = true ∧
    (0x02000000#32).toNat / 2 ^ 25 = 1 := ⟨forkRun 0x02000000, forkExec, _, _, rfl, rfl, by decide +kernel, by decide +kernel, by decide +kernel, by decide +kernel⟩
theorem witness_fork_no_join : codeIs (forkRun 1) forkExec 0x10024 1 = true ∧ (1#32) ≠ 0#32 ∧ (1#32).toNat / 2 ^ 25 ≠ 1 := by decide +kernel
def tableParty : Party := (solo [(20, 0x30000)]).setV 9 fun _ => 4095
theorem witness_table : ∃ (s : State) (c : Exec), s.current = some c ∧ c.VOk 9 ∧ c.UPairOk 20 ∧ (c.party.upair 20).toNat % 8 = 0 ∧
    (∀ l, l < 32 ∧ c.party.exm.getLsbD l = true → (c.party.vreg 9 l).toNat < (0xFFF00000#32).toNat / 2 ^ 20 + 1) ∧
    s.Reaches c .read 8 (fun l => ea64 (c.party.upair 20) (8 * (c.party.vreg 9 l).toNat)) (fun _ => at_ 0x37FF8) ∧
    s.Readable c .read (c.targets fun _ => at_ 0x37FF8) ∧ natOfBytes (s.targetBytes c.task c.party.seen (at_ 0x37FF8) 8 0) % 4 = 0 :=
  ⟨demo tableParty, demoExec tableParty, rfl, by decide, by decide, by decide, fun l h => by cases only_lane_0 l h.1 h.2; decide,
    fun l hl h => by cases only_lane_0 l hl h; exact reached (by decide +kernel), ⟨by decide, rfl⟩, by decide⟩

/-- ExitYieldWindowsComplete: a party in a hold-off; the last base that R57 admits, and the next. -/
theorem witness_yield : ∃ (s : State) (p : Party), s.party? 0 0 = some p ∧ p.hold = .yield := ⟨demo { full [] with hold := .yield }, _, rfl, rfl⟩
theorem witness_wbase : (7#11).signExtend 32 * 16#32 = 112#32 ∧ (112#32).toNat % 16 = 0 ∧ (112#32).toNat < demoDesc.vregs ∧
    demoDesc.vregs ≤ ((8#11).signExtend 32 * 16#32).toNat := by decide

/-- TrapWordsComplete: enabled flags with MASK clear and set, an outstanding floating-point word, a handler at its own depth, and
one that is not; PPT's masks inside the allotment and outside, with a request and without; words of each refusal. -/
theorem witness_trapi : ∃ (s : State) (c : Exec) (e : Entry) (r : List Entry), s.current = some c ∧ c.party.stack = e :: r ∧
    c.party.masked = false ∧ c.task.desc.trap ≠ 0#64 := ⟨demo (full []), demoExec (full []), _, _, rfl, rfl, by decide, by decide⟩
def flagged : Party := { full [] with aflags := 0x10, tmask := 0x10 }
theorem witness_tfence : (∀ x ∈ flagged.pend, x.floating = false) ∧ flagged.aflags &&& flagged.tmask.setWidth 5 ≠ 0#5 ∧
    flagged.masked = false ∧ (∃ x ∈ ({ flagged with pend := [pendingOf .ready] } : Party).pend, x.floating = true) ∧
    ({ flagged with tmask := 0x110 } : Party).masked = true :=
  ⟨by decide, by decide, by decide, ⟨_, .head _, rfl⟩, by decide⟩
def inHandler (d : Nat) : Party := { full [] with tmask := 0x100, ts := some { depth := d, clause := none, addr := 0x10004, mask := false } }
theorem witness_tret : ∃ (s : State) (c : Exec) (e : Entry) (r : List Entry) (ts : TrapState), s.current = some c ∧ c.party.stack = e :: r ∧
    c.party.ts = some ts ∧ c.party.masked = true ∧ ts.depth = r.length + 1 :=
  ⟨demo (inHandler 1), demoExec (inHandler 1), _, _, _, rfl, rfl, rfl, by decide, rfl⟩
theorem witness_tret_depth : ∃ (c : Exec) (r : List Entry) (ts : TrapState), c.party.ts = some ts ∧ c.party.stack.tail = r ∧
    ts.depth ≠ r.length + 1 := ⟨demoExec (inHandler 2), _, _, rfl, rfl, by decide⟩
def coversOk (m : Word) (unit lim : Nat) : Prop := ∀ k, k < 32 → m.getLsbD k = true → unit * k < lim
theorem witness_ppt : coversOk 0x80 16 128 ∧ ¬ coversOk 0x100 16 128 ∧ coversOk 1 8192 4096 ∧ ¬ coversOk 2 8192 4096 := by
  unfold coversOk; decide
theorem witness_ppt_asked : ∃ s : State, (s.core 0 0).requests ≠ [] ∧ 2 ≤ (s.ctx 0).mode ∧ (full []).masked = false :=
  ⟨(State.reset.putCore 0 0 { Core.empty with requests := [.suspend] }).putCtx 0 { Ctx.reset with mode := 2 }, by decide⟩
theorem witness_illegal : refuses [0x92000000, 0, 0, 0] .unassigned = true ∧ refuses [0x0E000001, 0, 0, 0] .reserved = true := by decide

/-- SpawnsCountAndPlaceChildren: a descriptor at 0x30000 that passes R218, for the full count of SPAWNR and for a lane's child. -/
def childBytes : List Byte := leBytes 8 0x10000 ++ leBytes 8 0 ++ leBytes 4 262144 ++ [32, 7, 7, 0] ++ List.replicate 40 0
def spawnRun : State :=
  let s := demo (lane0 0x30000)
  { s with mem := s.mem.writeBytes 0x30000 childBytes }
theorem witness_spawn : ∃ (s : State) (c : Exec), s.current = some c ∧ c.UPairOk 20 ∧ c.party.spawnSeq < 2 ^ 27 - 1 ∧
    s.checkLane (c.env s) c.party .read 64 c.party.lowLane (c.party.upair 20).toNat = .ok (.ok (at_ 0x30000)) ∧
    s.Readable c .read [(0, at_ 0x30000)] ∧ descriptorOk (s.targetBytes c.task c.party.seen (at_ 0x30000) 64 0) = true ∧
    checkControl c.task.det true 0xBF = .ok () ∧ (s.die 7).detected = false ∧ 2 ^ 24 ≤ 2 ^ 24 ∧ c.task.pendingKids + 2 ^ 24 < 2 ^ 32 :=
  ⟨spawnRun, demoExec (lane0 0x30000), rfl, by decide, by decide, reached (by decide +kernel), ⟨by decide, rfl⟩, by decide, rfl, by decide, by decide, by decide⟩

/-- AwaitWaitsParksOrPasses: two parties, the other not yet arrived and arrived; alone with nothing pending, with a child to merge, with one
pending and room for the image or none; a frame that the Porter holds a translation of. -/
def held (w : Waiter) (s : State) : State :=
  s.putDie 0 { (s.die 0) with agents := [(w, { ctx := 0, va := 0x30000, leaf := plainLeaf 0x30000 })] }
def awaitTask (parties : List Party) (f : Task → Task) : Task := f { demoTask (full [(5, 3)]) with parties := parties, frame := 0x30000, parent := .task 1 }
def awaiting (parties : List Party) (f : Task → Task) : State := held (.image 0) ((demo (full [(5, 3)])).putTask 0 (awaitTask parties f))
def awaitExec (parties : List Party) (f : Task → Task) : Exec :=
  { tid := 0, pi := 0, task := awaitTask parties f, party := full [(5, 3)] }
def two : List Party := [full [(5, 3)], full [(5, 3)]]
def atAwait (id : Nat) (m : Word) (t : Task) : Task := { t with barriers := [{ id := id, mask := m, arrived := [1] }] }
theorem witness_await_waits : ∃ (s : State) (c : Exec), s.current = some c ∧ c.IssuesWide (full [(5, 3)]) ∧ c.party.hold ≠ .await ∧
    c.pi ∉ ([] : List Nat) ∧ c.task.phase = .running ∧ c.task.imageWait = false ∧ c.task.joinWait = false ∧ c.task.joining = none ∧
    c.task.failed = false ∧ c.task.held = false ∧ c.party.ended = false ∧ ((full [(5, 3)]).ureg 5).getLsbD c.pi = true ∧
    c.task.barrier? 16 = none ∧ (∃ i, i ≠ c.pi ∧ i < 32 ∧ c.task.live i = true ∧ ((full [(5, 3)]).ureg 5).getLsbD i = true) :=
  ⟨awaiting two id, awaitExec two id, rfl, by decide, by decide, by decide, rfl, rfl, rfl, rfl, rfl, rfl, rfl, by decide, rfl, 1, by decide⟩
theorem lives (i : Nat) (c : Exec) (h : c.task.parties = two) (hp : c.pi = 0) (hi : i ≠ c.pi) (hl : c.task.live i = true) : i = 1 := by
  match i with
  | 0 => exact absurd hp.symm hi
  | 1 => rfl
  | n + 2 => simp [Task.live, h, two] at hl
def lookIs (x : Look) (a : Nat) : Bool := match x with | .hit _ b => a == b | _ => false
theorem witness_await_passes : ∃ (s : State) (c : Exec), s.current = some c ∧ c.pi ∉ [1] ∧ [1].Nodup ∧
    c.task.barrier? 16 = some { id := 16, mask := 3, arrived := [1] } ∧
    (∀ i, i ≠ c.pi → c.task.live i = true → ((full [(5, 3)]).ureg 5).getLsbD i = true ∧ i ∈ [1]) ∧ c.task.pendingKids = 0 ∧
    (joinOf c.task.kids).empty = true ∧ (∀ k, c.task.parent ≠ .root k) ∧
    let u := ((s.putParty 0 0 (full [(5, 3)])).arrive 0 0 16 1 ((full [(5, 3)]).ureg 5) .await).source 0 c.task
    lookIs (u.lookAgent 0 (.image 0) 0 0x30000) 0x30000 = true ∧ u.mute 0x30000 = false ∧ c.task.frame.toNat = 0x30000 := by
  refine ⟨awaiting two (atAwait 16 3), awaitExec two (atAwait 16 3), rfl, by decide, by decide, by decide, fun i h hl => ?_, rfl, by decide,
    nofun, by decide +kernel⟩
  rw [lives i _ rfl rfl h hl]; decide
def child : KidResult :=
  { cidx := 6, failed := false, det := true, storeSet := [(0x30000, 7)], tags := [], pages := [(3, 3)], received := [], steps := [], summary := []
    seen := Seen.none }
theorem witness_await_merges : (joinOf [child]).empty = false ∧ (awaitExec two fun t => { t with kids := [child] }).task.det = false := by decide
theorem witness_await_parks : (awaitExec two fun t => { t with pendingKids := 1 }).task.pendingKids ≠ 0 ∧
    (awaiting two id).hiddenRoom 0 demoDesc.imageBytes = false ∧
    ((awaiting two id).putCtx 0 { ((awaiting two id).ctx 0) with hids := 0x40 }).hiddenRoom 0 demoDesc.imageBytes = true := by decide
def mergedJoin : Join := { lines := [], steps := [], pages := [], summary := [], seen := Seen.none, started := true, blocked := false }
def merging : Task := awaitTask two fun t => { atAwait 16 3 t with joinWait := true, joining := some mergedJoin }
theorem witness_merge : ∃ s : State, s.task? 0 = some merging ∧ mergedJoin.empty = true ∧
    (s.die (s.frameDie 0 0x30000 0)).failed = false ∧ (s.ctx 0).suspend = false ∧ (∀ m, merging.parent ≠ .root m) ∧
    lookIs (s.lookAgent 0 (.image 0) 0 0x30000) 0x30000 = true ∧ s.mute 0x30000 = false ∧ merging.frame.toNat = 0x30000 :=
  ⟨awaiting two fun t => { atAwait 16 3 t with joinWait := true, joining := some mergedJoin }, by decide +kernel, by decide +kernel, by decide +kernel, by decide +kernel,
    nofun, by decide +kernel⟩
def ordered (c : DWord) (t : Task) : Task := { t with ord := true, cidx := c }
theorem witness_awaitp : (awaitExec two (ordered 0x100000000)).task.cidx.toNat % 2 ^ 32 = 0 ∧
    (awaitExec two (ordered 0x100000001)).task.cidx.toNat % 2 ^ 32 ≠ 0 ∧
    (awaiting two id).predecessor (awaitExec two (ordered 0x100000001)).task = none ∧
    (awaitExec two id).task.ord = false ∧ (awaitExec two id).task.parent ≠ .task 0 ∧
    ((awaiting two id).putTask 1 { demoTask (full []) with kids := [{ child with cidx := 6 }] }).predecessor
      (awaitExec two (ordered 7)).task = some { child with cidx := 6 } := by decide
/-- A mask that leaves its own party out, one that differs from the others', and a live party that none names. -/
theorem witness_await_masks : ((full [(5, 2)]).ureg 5).getLsbD 0 = false ∧ ((full [(5, 3)]).ureg 5).getLsbD 0 = true ∧
    (awaitExec two (atAwait 16 1)).task.barrier? 16 = some { id := 16, mask := 1, arrived := [1] } ∧ (1#32) ≠ (full [(5, 3)]).ureg 5 ∧
    (awaitExec two (atAwait 17 1)).task.barrier? 17 = some { id := 17, mask := 1, arrived := [1] } ∧
    (∃ k, k ≠ 0 ∧ (awaitExec two id).task.live k = true ∧ ((full [(5, 1)]).ureg 5).getLsbD k = false) ∧
    (∀ k, k < 32 → k ≠ 0 → ((full [(5, 1)]).ureg 5).getLsbD k = false) := by
  refine ⟨by decide, by decide, by decide, by decide, by decide, ⟨1, by decide⟩, by decide⟩

/-- BarriersWaitAndRelease: one party of two at a barrier, the last one, one that comes back to a barrier, a named party that has ended, the
masks that fail; a PBAR of a group of one die, and releases of a group that this package holds whole and of one that it does not. -/
theorem witness_bar : ∃ (s : State) (c : Exec), s.current = some c ∧ c.IssuesWide (full [(5, 3)]) ∧ c.party.hold ≠ .bar 15 ∧
    c.task.barrier? 15 = none ∧ (∀ k, k < 32 → ((full [(5, 3)]).ureg 5).getLsbD k = true → k = c.pi ∨ c.task.live k = true) ∧
    (∃ k, k < 32 ∧ ((full [(5, 3)]).ureg 5).getLsbD k = true ∧ k ≠ c.pi) ∧ c.party.ended = false ∧ c.pi < 32 :=
  ⟨awaiting two id, awaitExec two id, rfl, by decide, by decide, rfl, by decide, ⟨1, by decide⟩, rfl, by decide⟩
theorem witness_bar_last : ∃ c : Exec, c.task.barrier? 15 = some { id := 15, mask := 3, arrived := [1] } ∧ 0 ∉ [1] ∧
    (∀ k, k < 32 → ((full [(5, 3)]).ureg 5).getLsbD k = true → k = c.pi ∨ k ∈ [1]) :=
  ⟨awaitExec two (atAwait 15 3), rfl, by decide, by decide⟩
theorem witness_bar_ended : ∃ c : Exec, ∃ k, k < 32 ∧ ((full [(5, 3)]).ureg 5).getLsbD k = true ∧ k ≠ c.pi ∧ k ∉ ([] : List Nat) ∧
    c.task.live k = false := ⟨awaitExec [full [(5, 3)], { full [] with ended := true }] id, 1, by decide⟩
def waitingAt (h : Hold) : Party := { full [(5, 3)] with hold := h }
theorem witness_bar_again : ∃ (s : State) (c : Exec) (b : Barrier), s.current = some c ∧ c.party.hold = .bar 15 ∧ c.task.barrier? 15 = some b ∧
    (∃ k, k < 32 ∧ b.mask.getLsbD k = true ∧ k ∉ b.arrived) ∧
    (∀ k, k < 32 → b.mask.getLsbD k = true → k ∈ b.arrived ∨ c.task.live k = true) :=
  let t := awaitTask [waitingAt (.bar 15), full []] fun t => { t with barriers := [{ id := 15, mask := 3, arrived := [0] }] }
  ⟨(demo (full [])).putTask 0 t, { tid := 0, pi := 0, task := t, party := waitingAt (.bar 15) }, _, rfl, rfl, rfl, ⟨1, by decide⟩, by decide⟩
/-- A group of two dies, 0 and 1, in slot 0; and of one. -/
def groupWords (n : Nat) : List Word := [0x100, 0, 1, BitVec.ofNat 32 n, 0, 0, 0, 0]
def slotted (s : State) (n : Nat) : State :=
  s.putDie 0 { Die.reset with slots := [(0, { words := groupWords n, lastErr := 0, counts := [], ended := [], dead := [] })] }
def slotAt (w : List Word) (s : State) : State :=
  s.putDie 0 { Die.reset with slots := [(0, { words := w, lastErr := 0, counts := [], ended := [], dead := [] })] }
theorem witness_pbar : ∃ (s : State) (w : List Word), s = slotted (demo (full [(5, 256)])) 1 ∧ ((full [(5, 256)]).ureg 5).toNat / 2 ^ 24 = 0 ∧
    ((full [(5, 256)]).ureg 5).toNat / 64 % 4 = 0 ∧ ((full [(5, 256)]).ureg 5).toNat / 256 % 65536 ≠ 0 ∧
    s.slotWords 0 0 0 = some w ∧ s.groupDead 0 0 0 w = false ∧
    (s.source 0 (demoTask (full [(5, 256)]))).undrained (demoExec (full [(5, 256)])) = false ∧
    (s.source 0 (demoTask (full [(5, 256)]))).groupBars = [] := ⟨_, _, rfl, by decide, by decide, by decide, rfl, by decide, by decide, rfl⟩
/-- What makes PBAR fail or wait: a word with a reserved bit, an EXPECT of 0, an undefined slot, a dead group, a store on its way, and
arrivals under another EXPECT. -/
theorem witness_pbar_fails : (0x1000100#32).toNat / 2 ^ 24 ≠ 0 ∧ (0x1#32).toNat / 256 % 65536 = 0 ∧
    (demo (full [])).slotWords 0 0 0 = none ∧
    ((slotted (demo (full [])) 1).putDie 0 { ((slotted (demo (full [])) 1).die 0) with detected := true }).groupDead 0 0 0 (groupWords 1) = true ∧
    (({ demo (full []) with flits := [(1, flitOf [(0, 0)] false false (2 ^ 55))] } : State).undrained (demoExec (full []))) = true ∧
    (waitingAt (.pbar 0)).hold = .pbar 0 := by decide
def arrivedBar : GroupBar := { ctx := 0, slot := 0, die := 0, expect := 1, waiting := [(0, 0)] }
theorem witness_pbar_release : ∃ s : State, s.groupArrived 0 0 arrivedBar.die = true ∧ s.groupBars = [arrivedBar] ∧
    s.groupBeyond 0 0 arrivedBar.die = false ∧ arrivedBar.expect ≠ 2 :=
  ⟨{ slotted (demo (full [])) 1 with groupBars := [arrivedBar] }, by decide⟩
theorem witness_pbar_far : ∃ s : State, s.groupArrived 0 0 arrivedBar.die = true ∧ s.groupBars = [arrivedBar] ∧
    s.groupBeyond 0 0 arrivedBar.die = true ∧ arrivedBar.die ∈ groupDies ((s.slotWords 0 0 0).getD []) s.pkg :=
  ⟨{ slotAt [0x100, 0, 8, 2, 0, 0, 0, 0] (demo (full [])) with groupBars := [arrivedBar] }, by decide⟩

/-- WaitingWordsComplete: a counter at its threshold and one below it, issued and waiting; sixteen batches and fewer. -/
def counterRun (n : Nat) (h : Hold) : State :=
  let s := demo { lane0 0x30000 with hold := h }
  { s with mem := s.mem.writeBytes 0x30000 (leBytes 8 n) }
theorem witness_counter : ∃ (s : State) (c : Exec), s.current = some c ∧ (∀ x y, c.party.hold ≠ .awaitc x y) ∧ c.UPairOk 20 ∧
    s.checkLane (c.env s) c.party .read 8 c.party.lowLane (c.party.upair 20).toNat = .ok (.ok (at_ 0x30000)) ∧
    s.Readable c .read [(0, at_ 0x30000)] ∧ 7 ≤ (s.settleLine c.task.die c.task.core 0x30000).mem.readNat 0x30000 8 ∧
    (s.settleLine c.task.die c.task.core 0x30000).mem.readNat 0x30000 8 < 8 :=
  ⟨counterRun 7 .free, demoExec (lane0 0x30000), rfl, nofun, by decide, reached (by decide +kernel), ⟨by decide, rfl⟩, by decide, by decide⟩
theorem witness_counter_waits : ∃ (s : State) (c : Exec), s.current = some c ∧ c.party.hold = .awaitc 0x30000 7 ∧ c.task.phase = .running ∧
    c.task.failed = false ∧ c.task.imageWait = false := ⟨counterRun 7 (.awaitc 0x30000 7), _, rfl, rfl, rfl, rfl, rfl⟩
def batches (n : Nat) : Party := { full [] with closed := (List.range n).map fun k => { no := BitVec.ofNat 32 k, ops := [9], used := true, err := false, seen := Seen.none } }
theorem witness_batches : (batches 15).closed.length < 16 ∧ 16 ≤ (batches 16).closed.length ∧ (batches 0).openBatch.ops = [] ∧
    (∃ b ∈ (batches 1).closed, ((0#32) - b.no).toNat < 2 ^ 31) ∧
    ((demo (batches 0)).drainTask 0 0 0).undrained (demoExec (batches 0)) = false ∧ (∀ x, (batches 0).hold ≠ .bwait x) := by
  refine ⟨by decide, by decide, by decide, by decide, by decide, nofun⟩

/-- SignalAndFlushComplete: a counter that needs no wait; a party none of whose lines waits for custody. -/
theorem witness_signal : ∃ (s : State) (c : Exec), s.current = some c ∧ s.MemOk ∧ c.UPairOk 20 ∧ c.UOk 22 ∧
    s.checkLane { (c.env s) with det := false } c.party .atomic 8 c.party.lowLane (c.party.upair 20).toNat = .ok (.ok (at_ 0x3FFF8)) ∧
    s.storeWaits [(0, at_ 0x3FFF8)] = false ∧ (s.source c.tid c.task).undelivered (c.tid, c.pi) = false ∧
    (s.source c.tid c.task).coreHolds c.task.die c.task.core c.tid = false ∧ 0x3FFF8 / 64 ∉ s.badCheck ∧
    isRemote 0x3FFF8 = false ∧ s.homeFailed 0x3FFF8 = false ∧ 0x3FFF8 % 8 = 0 ∧
    (s.drainParty c.task.die c.task.core (c.tid, c.pi)).uncustodied (c.tid, c.pi) = false ∧
    (s.drainParty c.task.die c.task.core (c.tid, c.pi)).satchelHolds c.task.die c.task.core (c.tid, c.pi) = false :=
  ⟨demo (lane0 0x3FFF8), demoExec (lane0 0x3FFF8), rfl, by decide, by decide, by decide, reached (by decide +kernel), by decide, by decide, by decide, by decide,
    by decide, by decide, by decide, by decide, by decide⟩
theorem witness_signal_far : ∃ (s : State) (c : Exec) (l : Leaf), s.current = some c ∧
    s.checkLane { (c.env s) with det := false } c.party .atomic 8 c.party.lowLane (c.party.upair 20).toNat
      = .ok (.ok (.mem 0x40000 (2 ^ 55 + 0x40000) l)) ∧ isRemote (2 ^ 55 + 0x40000) = true ∧ l.soft = true ∧
    s.reachable c.task.die (2 ^ 55 + 0x40000) = true ∧ s.storeWaits [(0, .mem 0x40000 (2 ^ 55 + 0x40000) l)] = false :=
  ⟨demo (lane0 0x40000), demoExec (lane0 0x40000), nodeLeaf, rfl, reached (by decide +kernel), by decide, by decide, by decide, by decide⟩
theorem witness_flush_waits : (({ demo (full []) with flits := [(1, flitOf [(0, 0)] false false (2 ^ 55 + 0x40000))] } : State).drainParty 0 0
    (0, 0)).uncustodied (0, 0) = true := by decide

/-- SupervisorWordsComplete: a context that is a supervisor's, and one that is not; the scopes of TLBI; an access of another context on its
way, and one of its own. -/
theorem witness_supervisor : ∃ s : State, (s.ctx 0).sup = true ∧ ((demo (full [])).ctx 0).sup = false ∧
    (0x0FFF0003#32).toNat / 4 % 2 ^ 14 = 0 ∧ (0x0FFF0003#32).toNat / 65536 ≤ 4095 ∧ (0x00060FFF#32).toNat / 2 ^ 19 = 0 ∧
    (0x00060FFF#32).toNat / 65536 % 4 ≠ 3 ∧ (0x00060FFF#32).toNat % 65536 ≤ 4095 :=
  ⟨(demo (full [])).putCtx 0 { Ctx.reset with sup := true }, by decide⟩
theorem witness_tlbi : (flitOf [] false false (2 ^ 55)).die ∈ [0] ∧ (flitOf [] false false (2 ^ 55)).ctx ≠ 4095 ∧
    (flitOf [] false false (2 ^ 55)).ctx = (0x00050000#32).toNat % 65536 ∧ (demoExec (full [])).task.core < 96 := by decide

/-! ### Engine words -/

/-- The party with these words in its uniform registers from s20. -/
def block20 (l : List Word) : Party := full ((List.range l.length).map fun i => (20 + i, l.getD i 0))

/-- CopyAndMessageWordsComplete: copies of 2^40 bytes with the last counter address, whose extents meet end to end; the largest
multicast and combining to node memory; the largest message, with its peer valid, with a peer that is not, and with 1,024
outstanding. -/
def acpParty : Party := block20 [0, 0, 0x80000000, 0, 0x80000000, 512, 0, 0, 0xFFFFFFF8, 0xFFFFFFFF, 1, 0]
theorem witness_acp : (demoExec acpParty).UBlockOk 20 12 ∧ acpParty.ureg 31 = 0#32 ∧ (acpParty.ureg 24).toNat ≤ 2 ^ 31 ∧
    (acpParty.ureg 24).toNat * (acpParty.ureg 25).toNat = 2 ^ 40 ∧
    (acpParty.upair 20).toNat + ((512 - 1) * (acpParty.ureg 26).toNat + (acpParty.ureg 24).toNat) ≤ (acpParty.upair 22).toNat ∧
    (acpParty.upair 28).toNat % 8 = 0 := by decide
def atNode (p : Party) : Prop := ∃ (s : State) (c : Exec) (l : Leaf), s.current = some c ∧ c.party = p ∧
  s.checkLane { (c.env s) with det := false } c.party .write 64 c.party.lowLane (c.party.upair 22).toNat
    = .ok (.ok (.mem 0x40000 (2 ^ 55 + 0x40000) l)) ∧ fpaClass (2 ^ 55 + 0x40000) = 2 ∧ l.contrib = false
def stmParty : Party := block20 [0x30000, 0, 0x40000, 0, 0x1000000, 8, 0xFFFFFFF8, 0xFFFFFFFF]
theorem witness_stm : (demoExec stmParty).UBlockOk 20 8 ∧ (stmParty.upair 20).toNat % 64 = 0 ∧ (stmParty.upair 22).toNat % 64 = 0 ∧
    (stmParty.ureg 24).toNat = 2 ^ 24 ∧ (stmParty.ureg 25).toNat % 8 = 0 ∧ (stmParty.upair 26).toNat % 8 = 0 := by decide
theorem witness_stm_node : atNode stmParty := ⟨demo stmParty, demoExec stmParty, nodeLeaf, rfl, rfl, reached (by decide +kernel), by decide, rfl⟩
def combParty : Party := block20 [0x30000, 0, 0x40000, 0, 61560, 0x03003F3F, 0xFFFF0400, 0]
theorem witness_comb : (demoExec combParty).UBlockOk 20 8 ∧ (combParty.ureg 25).toNat / 2 ^ 14 % 2 ^ 10 = 0 ∧
    (combParty.ureg 25).toNat / 64 % 4 = 0 ∧ (combParty.ureg 25).toNat / 2 ^ 24 = 3 ∧ (combParty.ureg 25).toNat / 256 % 64 = 63 ∧
    (combParty.ureg 25).toNat % 64 = 63 ∧ (combParty.ureg 26).toNat % 65536 = 1024 ∧ (combParty.ureg 24).toNat ≤ 65536 ∧
    (combParty.ureg 24).toNat % (4 * (1024 + 2)) = 0 := by decide
theorem witness_comb_node : atNode combParty := ⟨demo combParty, demoExec combParty, nodeLeaf, rfl, rfl, reached (by decide +kernel), by decide, rfl⟩
/-- A READ of 2^30 bytes from peer 4,095, whose record stands at 0x30000 + 32 × 4095. -/
def npostParty : Party :=
  block20 [0x200003, 0xFFFF, 0x30000, 0, 0, 0, 0, 0x40000000, 4095, 0xFFFFFF, 0xFFFFFFF8, 0xFFFFFFFF, 0xFFFFFFFF, 0xFFFFFFFF, 0, 0]
theorem witness_npost : (demoExec npostParty).UBlockOk 20 16 ∧ (npostParty.ureg 20).toNat / 2 ^ 22 = 0 ∧
    (npostParty.ureg 20).toNat / 2 ^ 19 % 2 = 0 ∧ (npostParty.ureg 20).toNat / 2 ^ 10 % 64 = 0 ∧ (npostParty.ureg 21).toNat / 65536 = 0 ∧
    (npostParty.ureg 28).toNat = 4095 ∧ (npostParty.ureg 29).toNat / 2 ^ 24 = 0 ∧ npostParty.ureg 35 = 0#32 ∧
    (npostParty.ureg 20).toNat % 256 = 3 ∧ (npostParty.ureg 20).toNat / 2 ^ 20 % 4 = 2 ∧ (npostParty.ureg 20).toNat / 256 % 4 = 0 ∧
    (npostParty.ureg 20).toNat / 2 ^ 16 % 8 = 0 ∧ (npostParty.ureg 27).toNat = 2 ^ 30 ∧ npostParty.ureg 34 = 0#32 ∧
    (npostParty.upair 32).toNat = 2 ^ 64 - 1 ∧ (npostParty.upair 30).toNat % 8 = 0 := by decide
def peered : State :=
  let s := demo npostParty
  { (s.putDie 0 { Die.reset with net := { NetEngine.reset with cfg := 2 ^ 63, peerBase := 0x30000 } }) with mem := tables.write 0x4FFF8 1 }
theorem witness_npost_peer : ∃ (s : State) (c : Exec), s.current = some c ∧ c.party = npostParty ∧
    (s.outstanding c.task.die).length < 1024 ∧ bit (s.die 0).net.cfg.toNat 63 = true ∧ s.peerValid (s.die 0).net 4095 = true ∧
    s.peerValid (s.die 0).net 4094 = false := ⟨peered, demoExec npostParty, rfl, rfl, by decide⟩
def netOp (die : Nat) (w : NetWork) : Op :=
  { kind := .net w, source := .party 0, ctx := 0, die := die, core := 0, frame := 0, progress := 0, own := [], seen := Seen.none, twins := []
    poisoned := false, waiting := [], walked := [], wset := [], noted := [], lines := [] }
def readWork : NetWork := { words := npostParty.ublock 20 16, peer := 0, reply := none, base := 0, count := 2, acked := [], got := [], held := [] }
theorem many_reads (l : List Nat) :
    (({ demo npostParty with ops := l.map fun k => (k, netOp 0 readWork) } : State).outstanding 0).length = l.length := by
  induction l with
  | nil => rfl
  | cons a r ih =>
    have h : (readWork.opc != 4) = true := by decide
    simpa only [State.outstanding, State.netOps, List.map_cons, List.filterMap_cons, netOp, if_true, List.filter_cons, h,
      List.length_cons, Nat.add_right_cancel_iff] using ih
theorem witness_npost_stall : ∃ s : State, 1024 ≤ (s.outstanding 0).length :=
  ⟨_, Nat.le_of_eq ((many_reads (List.range 1024)).trans List.length_range).symm⟩

/-- CourierWordsComplete: a group of two dies of this package in slot 0; the die is its logical rank 0. -/
def courierParty (x : Word) : Party := block20 [0x30000, 0, 0x38000, 0, 0x40000000, x, 0xFFFFFFF8, 0xFFFFFFFF]
theorem witness_courier : ∃ (s : State) (c : Exec) (g : List Word), s.current = some c ∧ c.UBlockOk 20 8 ∧
    (c.party.ureg 25).toNat / 2 ^ 20 = 0 ∧ (c.party.ureg 25).toNat / 2 ^ 14 % 4 = 0 ∧ (c.party.ureg 25).toNat / 2 ^ 11 % 8 = 0 ∧
    (c.party.ureg 25).toNat / 256 % 8 = 3 ∧ (c.party.ureg 25).toNat / 64 % 4 = 2 ∧ (c.party.ureg 24).toNat = 2 ^ 30 ∧
    (c.party.ureg 24).toNat % 4 = 0 ∧ (c.party.upair 26).toNat % 8 = 0 ∧ s.slotWords 0 0 0 = some g ∧ s.rankOf g 0 = some 0 ∧
    s.groupDead 0 0 0 g = false ∧ groupSpans g = false ∧ (∀ p ∈ groupPkgs g, groupDies g p = groupDies g s.pkg) ∧
    (c.party.ureg 25).toNat / 65536 % 16 = 0 :=
  ⟨slotted (demo (courierParty 0x380)) 2, demoExec (courierParty 0x380), groupWords 2, rfl, by decide⟩
theorem witness_chand : ((courierParty 0x10000).ureg 25).toNat / 65536 % 16 = demoDesc.stage + 1 ∧ demoDesc.stage ≠ 15 ∧
    0 + 1 ≠ groupSize (groupWords 2) := by decide

/-- GroupAndStatusWordsComplete: a definition, and one with no dimension; a slot that is busy; the last slot; the last peer. -/
def cgrpParty (h : Word) : Party := block20 [h, 0, if h = 63 then 0 else 1, if h = 63 then 0 else 8, 0, 0, 0, 0]
/-- What R196 asks of a definition. -/
def soundGroup (p : Party) : Prop :=
  let head := (p.ureg 20).toNat
  let stride := fun i => (p.ureg (22 + 2 * i)).toNat
  let count := fun i => (p.ureg (23 + 2 * i)).toNat
  let ndim := head / 256 % 4
  head / 2 ^ 10 = 0 ∧ head / 64 % 4 = 0 ∧
    (∀ i, i < 3 → (i < ndim → 1 ≤ stride i ∧ 1 ≤ count i ∧ count i ≤ 65536) ∧ (ndim ≤ i → 1 ≤ i → stride i = 0 ∧ count i = 0) ∧
      (i + 1 < ndim → stride i * count i ≤ stride (i + 1))) ∧
    (1 ≤ ndim → groupSize (p.ublock 20 8) ≤ 2 ^ 20 ∧ groupRank (p.ublock 20 8) (groupSize (p.ublock 20 8) - 1) < 2 ^ 32)
theorem witness_cgrp : (demoExec (cgrpParty 0x13F)).UBlockOk 20 8 ∧ soundGroup (cgrpParty 0x13F) := ⟨by decide, by unfold soundGroup; decide⟩
theorem witness_cgrp_clears : soundGroup (cgrpParty 63) := by unfold soundGroup; decide
theorem witness_cgrp_idle : (demo (cgrpParty 0x13F)).courierOps 0 0 63 = [] := rfl
def courierWork (kind k : Nat) : CourierWork :=
  { kind := kind, src := 0x30000, dst := 0x38000, chunk := 64, stage := 0, op := 0, format := 0, ring := 0, slot := k, actr := 0
    defn := groupWords 2, rank := 0, order := 0, step := 0, partials := [], poison := [], got := [], segs := [], formed := []
    cut := [], aborted := [], railed := false, error := 0, failAddr := 0 }
def anOp (die : Nat) (k : OpKind) : Op :=
  Op.start k (.party 0) 0 die 0 0x100 Seen.none
theorem witness_cgrp_busy : ({ demo (full []) with ops := [(1, anOp 0 (.courier (courierWork 0 63)))] } : State).courierOps 0 0 63 ≠ [] := by
  decide
theorem witness_status_heads : (demo (full [])).wrapNext = none ∧ (demoExec (full [(20, 63)])).UPairOk 126 ∧ (demoExec (full [(20, 63)])).UOk 20 ∧
    (63#32).toNat / 64 = 0 ∧ (0x3FFD#32).toNat / 2 ^ 18 = 0 ∧ (0x3FFD#32).toNat % 4 = 1 ∧ (0x3FFD#32).toNat / 4 % 65536 = 4095 := by decide

/-- GangAndPressWordsComplete: masks of two and of six lanes that name party 0, one that does not, and one of a single lane; a
queue with room and a full one; a view and pitches at their least. -/
def lanesIn (m : Word) : Nat := (List.range 32).countP fun i => m.getLsbD i
theorem witness_gang : lanesIn 0x80000001 = 2 ∧ lanesIn 0x3F = 6 ∧ lanesIn 1 = 1 ∧ lanesIn 0x7F = 7 ∧ (0x80000001#32).getLsbD 0 = true ∧
    (6#32).getLsbD 0 = false := by decide
def pressed (n : Nat) : State :=
  State.reset.putDie 0 { Die.reset with pressQueues := [{ task := 0, key := 0, cluster := 0, ops := List.range n }] }
theorem witness_press_room : (pressed 0).pressRoom 0 0 0 = true ∧ ∃ n, (pressed n).pressRoom 0 0 0 = false :=
  ⟨by decide, Config.pressQueueDepth, by decide⟩
def paccParty : Party := block20 [0x30000, 0, 256, 0, 0x38000, 0, 0, 0]
theorem witness_pacc : (demoExec paccParty).UBlockOk 20 4 ∧ paccParty.ureg 23 = 0#32 ∧ (paccParty.ureg 22).toNat % 16 = 0 ∧
    256 ≤ (paccParty.ureg 22).toNat ∧ (paccParty.upair 20).toNat % 16 = 0 := by decide
theorem witness_staq : (viewOf ((viewParty 0 0).ublock 4 8)).reserved = true ∧ (viewOf ((viewParty 0 0).ublock 4 8)).trans = false ∧
    (viewOf ((viewParty 0 0).ublock 4 8)).base.toNat % 16 = 0 ∧ (viewOf ((viewParty 0 0).ublock 4 8)).pitch % 16 = 0 ∧
    (viewOf ((viewParty 0 0).ublock 4 8)).sbase.toNat % 2 = 0 ∧ (demoExec (viewParty 0 0)).UBlockOk 4 8 := by decide

/-- PmmaMeetsAtRendezvous: member 0 of a gang of two, parties 0 and 31, with A in tile memory at 0x50000, straight and K = 32, and its
block of B at s28; arrivals under that mask. -/
def pmmaParty : Party :=
  { full [(20, 0x50000), (24, 0)] with gang := BitVec.ofNat 32 (2 ^ 31 + 2 ^ 28 * 2 + 2 ^ 21 * 5 + 2 ^ 14 * 28), gangMask := 0x80000001 }
def tileRow (y : Nat) : Bool :=
  match (demo pmmaParty).checkLane ((demoExec pmmaParty).env (demo pmmaParty)) pmmaParty .read 1 pmmaParty.lowLane y with
  | .ok (.ok (.mem _ fpa _)) => isTile fpa && fpaDie fpa == 0 && fpa / 2 ^ 32 % 32 == 0
  | _ => false
theorem tile_row {y : Nat} (h : tileRow y = true) : ∃ va fpa l,
    (demo pmmaParty).checkLane ((demoExec pmmaParty).env (demo pmmaParty)) pmmaParty .read 1 pmmaParty.lowLane y
      = .ok (.ok (.mem va fpa l)) ∧ isTile fpa = true ∧ fpaDie fpa = 0 ∧ fpa / 2 ^ 32 % 32 = 0 := by
  unfold tileRow at h
  split at h
  · rename_i va fpa l e
    exact ⟨va, fpa, l, e, by simpa [and_assoc] using h⟩
  · cases h
theorem witness_pmma : (demoExec pmmaParty).IssuesWide pmmaParty ∧ pmmaParty.hold ≠ .rendezvous ∧ pmmaParty.gang.getLsbD 31 = true ∧
    pmmaParty.gang.toNat / 2 ^ 28 % 8 = 2 ∧ pmmaParty.gang.toNat / 2 ^ 25 % 8 = 0 ∧ pmmaParty.gang.toNat / 2 ^ 14 % 128 = 28 ∧
    pmmaParty.swb.toNat + 28 + 2 < demoDesc.uregs ∧ (pmmaParty.ureg 30).toNat / 4 % 2 ^ 14 = 0 ∧
    pmmaParty.vwb.toNat + 112 + 8 * 2 - 1 < demoDesc.vregs ∧ pmmaParty.swb.toNat + 20 + 7 < demoDesc.uregs ∧
    (viewOf (pmmaParty.ublock 20 8)).reserved = true ∧ (viewOf (pmmaParty.ublock 20 8)).aligned 3 = true := by decide
theorem witness_pmma_rows : ∀ r ∈ (viewOf (pmmaParty.ublock 20 8)).rows 3 32, ∀ y ∈ [r.1, (r.1 + r.2 - 1) % 2 ^ 64], ∃ va fpa l,
    (demo pmmaParty).checkLane ((demoExec pmmaParty).env (demo pmmaParty)) pmmaParty .read 1 pmmaParty.lowLane y
      = .ok (.ok (.mem va fpa l)) ∧ isTile fpa = true ∧ fpaDie fpa = 0 ∧ fpa / 2 ^ 32 % 32 = 0 := by
  have h : (viewOf (pmmaParty.ublock 20 8)).rows 3 32 = List.replicate 64 (0x50000, 64) := by decide +kernel
  have lo : tileRow 0x50000 = true := by decide +kernel
  have hi : tileRow 0x5003F = true := by decide +kernel
  intro r hr y hy
  rw [h] at hr
  rw [List.eq_of_mem_replicate hr] at hy
  rcases List.mem_cons.mp hy with rfl | hy
  · exact tile_row lo
  · rcases List.mem_cons.mp hy with rfl | hy
    · exact tile_row hi
    · cases hy
def arrival (i tile : Nat) : Arrival := { party := i, tile := tile, pair := 0, mask := 0x80000001, view := [], bregs := [], fmt := 0, own := [], seen := Seen.none }
def latched (l : List (List Arrival)) : Task := { demoTask pmmaParty with parties := List.replicate 32 pmmaParty, latches := l }
theorem witness_first_arrival : latchFor (latched []).latches 31 0x80000001 = none ∧ (∃ i, i ≠ 31 ∧ i < 32 ∧ (0x80000001#32).getLsbD i = true) ∧
    (latched []).parties[31]? = some pmmaParty := ⟨by decide, ⟨0, by decide⟩, by decide⟩
theorem witness_last_arrival : latchFor (latched [[arrival 0 3]]).latches 31 0x80000001 = some [arrival 0 3] ∧
    (∀ i, i < 32 → (0x80000001#32).getLsbD i = true → i = 31 ∨ i = (arrival 0 3).party) ∧ 31 < (latched []).parties.length ∧
    (demo pmmaParty).pressRoom 0 0 (32 + (lanesOf 0x80000001).headD 0) = true := by decide
theorem witness_bad_arrival : (arrival 0 3).tile ≠ (arrival 31 4).tile ∧ (arrival 0 3).mask = (arrival 31 4).mask := by decide

/-- A member that waits, and its rendezvous whole and not. -/
def meeting (l : List Arrival) : Task := { latched [l] with parties := List.replicate 32 { pmmaParty with hold := .rendezvous } }
def meetExec (l : List Arrival) : Exec := { tid := 0, pi := 0, task := meeting l, party := { pmmaParty with hold := .rendezvous } }
theorem witness_rendezvous_again : ∃ (s : State) (c : Exec), s.current = some c ∧ c.party.hold = .rendezvous ∧
    (c.task.latches.find? fun l => l.any fun x => x.party == c.pi) = some [arrival 0 3, arrival 31 3] ∧
    (∀ i, i < 32 → (arrival 0 3).mask.getLsbD i = true → ∃ z ∈ [arrival 0 3, arrival 31 3], z.party = i) ∧
    s.pressRoom 0 0 (32 + (lanesOf (arrival 0 3).mask).headD 0) = true ∧ ([arrival 0 3, arrival 31 3].map fun (z : Arrival) => z.party).Nodup ∧
    (∀ z ∈ [arrival 0 3, arrival 31 3], z.party < c.task.parties.length) :=
  ⟨(demo pmmaParty).putTask 0 (meeting [arrival 0 3, arrival 31 3]), meetExec [arrival 0 3, arrival 31 3], rfl, rfl, by decide, by decide,
    by decide, by decide, by decide⟩
theorem witness_rendezvous_waits : ¬ ∀ i, i < 32 → (arrival 0 3).mask.getLsbD i = true → ∃ z ∈ [arrival 0 3], z.party = i := by decide
theorem witness_takes_gng : (latched []).parties[31]? = some pmmaParty ∧ pmmaParty.masked = false ∧ pmmaParty.stack ≠ [] ∧
    (latched []).desc.trap ≠ 0#64 := ⟨by decide, by decide, nofun, by decide⟩

/-! ### Events -/

def ops1 (o : Op) : State := { demo (full []) with ops := [(1, o)] }
def acpOp (n : Nat) : Op := anOp 0 (.acp 0x30001 0x38001 n 1 0 0 0#64 0)

/-- EngineEventsComplete: an absent member; a Press with nothing to serve, and one with a head; an operation that waits; a copy of
a line's last 63 bytes; a gathering Courier step at a chunk of four bytes. -/
theorem witness_gang_timeout : ∃ s : State, s.task? 0 = some (latched [[arrival 31 3]]) ∧ (latched [[arrival 31 3]]).phase = .running ∧
    (latched [[arrival 31 3]]).failed = false ∧
    ((latched [[arrival 31 3]]).latches.find? fun y => (lanesOf (latchMask y)).headD 0 == 0) = some [arrival 31 3] ∧
    (∃ i, i < 32 ∧ (latchMask [arrival 31 3]).getLsbD i = true ∧ ∀ y ∈ [arrival 31 3], y.party ≠ i) :=
  ⟨State.reset.putTask 0 (latched [[arrival 31 3]]), rfl, rfl, rfl, by decide, 0, by decide⟩
def serving (w : PressWork) : State :=
  { (demo (full [])).putDie 0 { Die.reset with pressQueues := [{ task := 0, key := 0, cluster := 0, ops := [1] }] } with
    ops := [(1, anOp 0 (.press 31 w))] }
def headIs (s : State) (tile : Nat) (w : PressWork) : Bool :=
  match s.pressNext 0 0 with
  | some q => (match s.pressHead 0 0 q with | some (1, _, t, x) => t == tile && x == w | _ => false)
  | none => false
theorem witness_serve : State.reset.pressNext 0 0 = none ∧ headIs (serving .zero) 31 .zero = true ∧
    headIs (serving (.scale 0x3F800000)) 31 (.scale 0x3F800000) = true := by decide
theorem witness_op_waits : AMap.get? State.reset.ops 1 = none ∧
    (demo (full [])).opFree { acpOp 63 with waiting := [0x30001] } = false := by decide
def seen (x : EngLook) (a : Nat) : Bool := match x with | .mem va fpa l => va == a && fpa == a && !l.shadow | _ => false
theorem witness_copy : AMap.get? (ops1 (acpOp 63)).ops 1 = some (acpOp 63) ∧ (ops1 (acpOp 63)).opFree (acpOp 63) = true ∧
    (ops1 (acpOp 63)).MemOk ∧ (0x30001#64).toNat % 64 + 63 ≤ 64 ∧ (0x38001#64).toNat % 64 + 63 ≤ 64 := by decide
theorem witness_copy_looks : seen ((mapped (ops1 (acpOp 63))).engineLook 1 (acpOp 63) .read 0x30001) 0x30001 = true ∧
    seen ((mapped (ops1 (acpOp 63))).engineLook 1 (acpOp 63) .write 0x38001) 0x38001 = true ∧
    (mapped (ops1 (acpOp 63))).homeFailed 0x38001 = false ∧ (mapped (ops1 (acpOp 63))).MemOk := by decide +kernel
/-- A collective at the head of its slot, one of two dies' definitions. -/
def agWork : CourierWork := { courierWork 0 0 with chunk := 4, src := 0x3FFFC }
def agOp : Op := anOp 0 (.courier agWork)
def agRun : State := slotted (mapped (ops1 agOp)) 2
theorem witness_gather : agRun.opFree agOp = true ∧ agRun.courierHead (1, agOp, agWork) = true ∧ agRun.slotDead 0 0 0 agWork.defn = false ∧
    agRun.courierEnded agOp agWork = none ∧ agRun.xfers = [] ∧ agRun.gatherAt 1 agOp 0x3FFFC 4 = ([0, 0, 0, 0], [], .go) := by decide +kernel
/-- Rows that a Press reads and writes, one upon another. -/
theorem rows_again (s : State) (id : Nat) (o : Op) (r : Nat × Nat) (h : (s.gatherAt id o r.1 r.2).2.2 = .go) :
    ∀ k, (s.gatherRows id o (List.replicate k r)).2 = .go
  | 0 => rfl
  | k + 1 => by
    rw [List.replicate_succ, State.gatherRows, h]
    exact rows_again s id o r h k
def rowOp (w : PressWork) : Op := anOp 0 (.press 31 w)
/-- Rows of STA in a scratch alias, which no walk maps. -/
def staWork : PressWork := .sta (BitVec.ofNat 64 scratchAliasBase) 0
theorem witness_lda_rows : ((serving (.lda 0x30000 0)).gatherRows 1 (rowOp (.lda 0x30000 0))
    ((List.range 64).map fun i => (((0x30000#64).toNat + i * 0) % 2 ^ 64, 256))).2 = .go :=
  rows_again _ 1 _ (0x30000, 256) (by decide +kernel) 64
theorem witness_scatter : ((serving staWork).scatterAt 1 (rowOp staWork) 0x3003F [7] (fun _ => false)).2.2 = .go ∧
    (0x3003F + [(7 : Byte)].length) % 64 = 0 ∧
    ((serving staWork).scatterAt 1 (rowOp staWork) 0x3003F ([7] ++ [8]) (fun _ => false)).2.2 = .go := by decide +kernel
theorem witness_sta_rows : ((serving staWork).scatterRows 1 (rowOp staWork) ((List.range 64).map fun i =>
    (((BitVec.ofNat 64 scratchAliasBase).toNat + i * 0) % 2 ^ 64, (List.range 64).flatMap fun n => leBytes 4 (tileAt [] i n)))).2.2 = .go := by
  decide +kernel
theorem witness_rda : ∃ (s : State) (p : Party) (y : Pending), s.party? 0 0 = some p ∧ p.pend = [y] ∧ y.id = 4 ∧
    headIs s 31 (.rda 63 1 0xFFFFFFFF 0 4) = true :=
  ⟨(serving (.rda 63 1 0xFFFFFFFF 0 4)).putTask 0 (demoTask { full [] with pend := [pendingOf (.press 1)] }), _, _, rfl, rfl, rfl, by decide⟩

/-- NodeAndFlitEventsComplete: an STM of one whole multicast frame with a branch left, and with one that has room; the largest
contribution at an empty node; flits of each kind, performed and not; a peer's store to a line's last byte. -/
def stmOp (delivered failed : List Nat) : Op := anOp 0 (.stm 0x30000 (2 ^ 55 + 0x40000) 65536 0 0 [0, 63] true delivered failed [] [] [])
def mcasts (o : Op) : State := { ops1 o with mem := tables ++ [(2 ^ 55 + 2 ^ 45 - 65536, 1), (2 ^ 55 + 2 ^ 45 - 65534, 4)] }
theorem witness_multicast : ∃ e, (mcasts (stmOp [] [])).mcastFor (2 ^ 55 + 0x40000) 65536 = some e :=
  ⟨{ first := 4, len := 1, members := 0, addr := 2 ^ 55 + 2 ^ 45 - 65536, ok := true }, by decide +kernel⟩
theorem witness_branches : (mcasts (stmOp [] [])).opFree (stmOp [] []) = true ∧
    (∃ p ∈ [0, 63], p ∉ ([] ++ [0, 63].filter fun p => (1#64).getLsbD p && !mem? p [] && !mem? p []) ∧ p ∉ []) ∧
    63 ∈ [0, 63] ∧ (∃ p ∈ [0, 63], p ∉ [] ∧ p ∉ [] ∧ p ≠ 63) := by
  refine ⟨by decide, ⟨63, by decide⟩, by decide, 0, by decide⟩
/-- A line of the STM at a member, where no other STM races, and the member's counter. -/
theorem witness_stm_line : (mcasts (stmOp [] [])).stmRaces 1 0 0x40000 = false ∧ (mcasts (stmOp [] [])).MemOk ∧
    (mcasts (stmOp [] [])).homeFailed 0x40000 = false ∧ (mcasts (stmOp [] [])).badCheck = [] ∧ [0, 63].Nodup ∧
    (mcasts (stmOp [] [])).stmCounter { first := 4, len := 1, members := 0, addr := 0, ok := true } (2 ^ 55 + 0x40000) 8 0 % 8 = 0 := by decide
theorem witness_stm_ends : (∀ p ∈ [0, 63], p ∈ [0] ∨ p ∈ [63]) ∧ (stmOp [0] [63]).twins = [] ∧
    (mcasts (stmOp [0] [63])).opFree (stmOp [0] [63]) = true := by decide
def part (bytes : Nat) : Contribution :=
  { dst := 2 ^ 55 + 0x40000, tag := 0xFFFF, bytes := bytes, op := 0, gsm1 := 63, olen := 0, rank := 63, data := [], poison := [], srcOp := none }
theorem witness_contribution : (part 65536).srcOp = none ∧ (∀ i ∈ State.reset.instances, i.keyed 0 (part 65536) = false) ∧
    (State.reset.instances.filter fun i => i.node == 0).length < 4096 ∧ 0 + combRoom (part 65536).bytes ≤ 67108864 := by decide
/-- A contribution of four bytes of the second of two ranks, an instance that holds the first's, one of the same rank and one that
differs; and an operation whose contribution is taken, held back and refused. -/
def piece (rank : Nat) : Contribution := { part 4 with op := 0, gsm1 := 1, rank := rank, data := [1, 0, 0, 0] }
def combing (l : List Contribution) : State := { demo (full []) with instances := [{ node := 0, parts := l }], mem := [] }
theorem witness_last_contribution : ((combing [piece 0]).instances.find? fun i => i.keyed 0 (piece 1)) = some { node := 0, parts := [piece 0] } ∧
    [piece 0].length = (piece 1).gsm1 ∧ (piece 1).dst % 64 = 0 ∧ (combing [piece 0]).MemOk ∧ (combResult [piece 0, piece 1]).length ≤ 8 ∧
    nodeFpa 0 0 ≤ (piece 1).dst ∧ (piece 1).dst + 16 ≤ nodeFpa 0 (2 ^ 45 - 65536) ∧ (combing [piece 0]).badCheck = [] := by decide
theorem no_mcast {a : Nat} (lo : 2 ^ 55 + 0x40000 ≤ a) (hi : a < 2 ^ 55 + 0x40010) : (combing [piece 0]).isMcast a = false := by
  have h : ∀ k, k < 16 → (combing [piece 0]).isMcast (2 ^ 55 + 0x40000 + k) = false := by decide +kernel
  have := h (a - (2 ^ 55 + 0x40000)) (by omega)
  rwa [Nat.add_sub_cancel' lo] at this
theorem witness_contributions : [piece 0].length < { piece 1 with gsm1 := 2 }.gsm1 ∧ (∃ x ∈ [piece 0], x.rank = (piece 0).rank) ∧
    (∃ x ∈ [piece 0], x.bytes ≠ { piece 1 with bytes := 8 }.bytes) ∧
    ((combing [piece 0]).combine 0 (piece 1)).1 = .taken ∧ ((combing [piece 0]).combine 0 (piece 0)).1 = .refused := by
  refine ⟨by decide, ⟨_, .head _, rfl⟩, ⟨_, .head _, by decide⟩, by decide, by decide⟩
theorem held_when_full (l : List Instance) (h : l.filter (fun i => i.node == 0) = l) (hk : l.find? (fun i => i.keyed 0 (piece 1)) = none)
    (hl : 4096 ≤ l.length) : (({ demo (full []) with instances := l } : State).combine 0 (piece 1)).1 = .held := by
  simp only [State.combine, hk, h, Config.combInstances, hl, decide_true, Bool.true_or, if_true]
def elsewhere : Instance := { node := 0, parts := [{ piece 0 with tag := 7 }] }
theorem witness_no_room : (({ demo (full []) with instances := List.replicate 4096 elsewhere } : State).combine 0 (piece 1)).1 = .held :=
  held_when_full _ (by rw [List.filter_replicate]; rfl)
    (by rw [List.find?_eq_none]; intro x hx; rw [List.eq_of_mem_replicate hx]; decide) (Nat.le_of_eq List.length_replicate.symm)
def flying (f : Flit) : State := { demo (full []) with flits := [(1, f)] }
theorem witness_flits : AMap.get? State.reset.flits 1 = none ∧ fpaClass (2 ^ 55 + 0x40000) = 2 ∧
    AMap.get? (flying (flitOf [(0, 0)] false false (2 ^ 55 + 0x40000))).flits 1 = some (flitOf [(0, 0)] false false (2 ^ 55 + 0x40000)) ∧
    (flitOf [] true true (2 ^ 55)).performed = true ∧ { flitOf [] true false (2 ^ 55) with failed := true }.failed = true ∧
    fpaNode (2 ^ 55 + 0x40000) = 0 ∧ (mcasts (stmOp [] [])).isMcast (2 ^ 55 + 0x4FFFF) = true ∧
    (flying (flitOf [] true false (2 ^ 55))).isMcast (2 ^ 55 + 0x40000) = false := by decide
/-- Satchel lines: one of this package and one off it, with a way out and without, a mute home; and a flit before which none of its line
stands. -/
def aged (line : Nat) : SatchelLine :=
  { line := line, va := 0x40000, ctx := 0, frame := 0, stores := [aStore (64 * line)], parties := [(0, 0)] }
def ageing (line : Nat) : State := let s := demo (full []); s.putCore 0 0 { (s.core 0 0) with satchel := [aged line] }
theorem witness_aged : (∀ ln ∈ [0xC00, 2 ^ 49 + 0x1000], (ageing ln).mute (ln * 64) = false ∧ (ageing ln).twinPending (ln * 64) = false ∧
      (((ageing ln).core 0 0).satchel.filter fun x => x.line == ln) = [aged ln] ∧ (ageing ln).MemOk ∧
      (ageing ln).homeFailed (ln * 64) = false ∧ ln ∉ (ageing ln).badCheck ∧ ((aStore (64 * ln)).bytes.map fun e => e.1).Nodup ∧
      (∀ e ∈ (aStore (64 * ln)).bytes, e.1 / 64 = ln)) ∧
    isRemote (0xC00 * 64) = false ∧ isRemote ((2 ^ 49 + 0x1000) * 64) = true ∧
    (ageing (2 ^ 49 + 0x1000)).reachable 0 ((2 ^ 49 + 0x1000) * 64) = true ∧
    ({ ageing (2 ^ 49 + 0x1000) with fabcfg := 0 } : State).reachable 0 ((2 ^ 49 + 0x1000) * 64) = false ∧
    (dead 1 false).mute (2 ^ 38) = true := by decide +kernel
theorem witness_peer_flit : ∃ f : Flit, f.work = .line [aStore f.fpa] ∧ fpaClass f.fpa = 1 ∧ f.performed = false ∧ f.failed = false ∧
    f.sure = false ∧ (∀ e ∈ (flying f).flits, e.1 < 1 → e.2.performed = true) :=
  ⟨flitOf [] true false (2 ^ 54 + 2 ^ 41), rfl, by decide, rfl, rfl, rfl, by decide⟩
def asked : Party := { full [] with pend := [pendingOf (.flits [1])] }
theorem witness_flit_answers : ∃ (s : State) (f : Flit) (p : Party) (x : Pending), AMap.get? s.flits 1 = some f ∧
    f.work = .atom 0 [(0, [1])] (some 4) ∧ fpaClass f.fpa ≠ 1 ∧ f.performed = true ∧ f.who = [(0, 0)] ∧ s.party? 0 0 = some p ∧
    p.pend = [x] ∧ x.id = 4 ∧ x.wait = .flits [1] :=
  ⟨{ demo asked with flits := [(1, { flitOf [(0, 0)] true true (2 ^ 55 + 0x40000) with work := .atom 0 [(0, [1])] (some 4) })] }, _, asked, _,
    rfl, rfl, by decide, rfl, rfl, rfl, rfl, rfl, rfl⟩
theorem witness_peer_store : ∃ s : State, s.MemOk ∧ (2 ^ 54 + 0x3003F) % 64 + [(7 : Byte)].length ≤ 64 ∧ fpaClass (2 ^ 54 + 0x3003F) = 1 ∧
    2 ^ 54 + 0x3003F < 2 ^ 56 ∧ fpaPkg (2 ^ 54 + 0x3003F) = s.pkg ∧ bit s.fabcfg.toNat 7 = true ∧
    s.homeFailed ((2 ^ 54 + 0x3003F) % 2 ^ 41) = false ∧ s.fpaValid (2 ^ 55 + 0x4003F) = true ∧ s.isMcast (2 ^ 55 + 0x4003F) = false :=
  ⟨demo (full []), by decide⟩

/-- TranslationEventsComplete: a walk that ends with a leaf, with a bad table, and with no entry, with a fault ring and without; an
open record; a frame that is there, and none; a DET task's party. -/
def walker (h : Hold) : Party := { full [] with hold := h }
def walking (pt : DWord) (ring : DWord) : State :=
  let w : Walk := { ctx := 0, page := 3, va := 0x30000, access := 0, level := 0, waiters := [.party 0 0] }
  let s := ((demo (walker (.walk [3]))).putCtx 0 { Ctx.reset with ctxpt := pt }).putDie 0 { Die.reset with walks := [w], fqBase := ring }
  { s with mem := tables }
def walkIs (s : State) (r : WalkResult) : Bool := s.walk 0 0x30000 == r
theorem witness_walk_leaf : walkIs (walking 0x100001 0) (.leaf (plainLeaf 0x30000)) = true := by decide +kernel
theorem witness_walk_bad : walkIs (walking (2 ^ 55 + 1) 0) .bad = true := by decide
theorem witness_walk_none : walkIs (walking 0x200001 0) (.notMapped 1) = true ∧ ((walking 0x200001 0).die 0).hasFaultRing = false ∧
    ((walking 0x200001 0x30000).die 0).hasFaultRing = true := by decide
theorem witness_walk_waiter : ∃ (s : State) (w : Walk) (p : Party), (((s.die 0).walks.take 64).find? fun y => y.ctx == 0 && y.page == 3) = some w ∧
    w.waiters = [.party 0 0] ∧ s.party? 0 0 = some p ∧ p.hold = .walk [3] := ⟨walking 0x100001 0, _, _, rfl, rfl, rfl, rfl⟩
theorem witness_fault : ∃ (s : State) (r : FaultRec) (p : Party), ((s.die 0).faults.find? fun y => y.id == 9) = some r ∧
    r.waiters = [.party 0 0] ∧ r.page = 3 ∧ s.party? 0 0 = some p ∧ (s.die 0).fqWaiting = [] ∧ p.hold = .fault [3] :=
  ⟨(demo (walker (.fault [3]))).putDie 0 { Die.reset with faults := [{ id := 9, ctx := 0, page := 3, waiters := [.party 0 0] }] }, _, _,
    rfl, rfl, rfl, rfl, rfl, rfl⟩
def anItem (ctx : Nat) (k : Kids) : Item :=
  { kids := k, desc := demoDesc, wrt := 0, fmt := 0, parent := .task 7, party := 0, seq := 0, ctx := ctx, prio := 3, det := false, nd := false
    ord := false, stage := 0, base := [], seen := Seen.none, told := false }
def queued (pool : DWord) : State :=
  (State.reset.putDie 0 { Die.reset with queue := [anItem 0 (.range 0 1 1 5)] }).putCtx 0 { Ctx.reset with fpn := pool, asl := 1 }
/-- Agents of each kind at a walk and at a record: an operation, a join, a frame's write. -/
def waits (page : Nat) : Op := { acpOp 63 with waiting := [page * 65536] }
def joiner : Task := awaitTask two fun t => { t with joinWait := true, joining := some { mergedJoin with blocked := true } }
def waiters : List Waiter := [.party 0 0, .range 0 0, .op 1, .join 7]
def crowd (pt : DWord) : State :=
  let s := walking pt 0x30000
  { (s.putTask 7 joiner).putDie 0 { (s.die 0) with
      walks := [{ ctx := 0, page := 3, va := 0x30000, access := 0, level := 0, waiters := waiters }]
      faults := [{ id := 9, ctx := 0, page := 3, waiters := waiters }] } with ops := [(1, waits 3)] }
theorem witness_agents : (∀ a ∈ waiters, (∃ k i, a = .party k i ∨ a = .range k i) ∨ (∃ n, a = .op n) ∨ ∃ k, a = .join k) ∧
    AMap.get? (crowd 0x100001).ops 1 = some (waits 3) ∧ (crowd 0x100001).task? 7 = some joiner ∧
    ((crowd 0x100001).die 0).failed = false ∧ (crowd 0x100001).walkWaits 0 0 0x30000 = false ∧ ((crowd 0x100001).die 0).faults.length < 4096 ∧
    ((crowd 0x200001).walkOn 0 0 0x30000 == .notMapped 1) = true ∧ ((crowd 0x200001).die 0).hasFaultRing = true := by
  refine ⟨fun a h => ?_, by decide, by decide, by decide, by decide, by decide, by decide, by decide⟩
  simp only [waiters, List.mem_cons, List.not_mem_nil, or_false] at h
  rcases h with rfl | rfl | rfl | rfl
  · exact .inl ⟨0, 0, .inl rfl⟩
  · exact .inl ⟨0, 0, .inr rfl⟩
  · exact .inr (.inl ⟨1, rfl⟩)
  · exact .inr (.inr ⟨7, rfl⟩)
theorem witness_walk_stopped : ((dead 0 true).die 0).failed = true ∧
    ((dead 0 false).putCtx 0 { Ctx.reset with ctxpt := 0x100001 }).walkWaits 1 0 0x30000 = true := by decide
theorem witness_cancels : (∃ a b c e g h i j, (waits 3).kind = .acp a b c e g h i j) ∧ 3 * 65536 ∈ (waits 3).waiting ∧
    (Hold.walk [3]).waitsFor 3 = true ∧ (Hold.yield).waitsFor 3 = false := ⟨⟨_, _, _, _, _, _, _, _, rfl⟩, by decide⟩
theorem witness_frame_wait : (∃ y, ((queued 0).items.find? fun z => z.1.die == 0 && z.2.ctx == 0) = some y) ∧ (queued 0).freeFrame 0 = none :=
  ⟨⟨_, rfl⟩, by decide⟩
theorem one_of_one (k : Nat) : pickFree 1 k [] = some 0 := by simp [pickFree, Nat.mod_one, mem?]
theorem witness_frame_free : ((queued 1).freeFrame 0).isSome = true := by
  show (Option.map _ (pickFree 1 (Config.freeNat 0) [])).isSome = true
  rw [one_of_one]; rfl
theorem witness_det_wait : ∃ x : Task, x.det = true ∧ x.live 0 = true := ⟨{ demoTask (full []) with det := true }, by decide⟩

/-- TaskEventsComplete: a core with work that has a frame and a slot; a task that has not ended; a child that has, beside a sibling;
a resumption. -/
theorem witness_start : (queued 1).pickResume 0 0 = none ∧ (queued 1).nextId = 0 ∧
    (anItem 0 (.range 0 1 1 5)).kids.next = some (0, 5, .range 1 1 0 5) := by decide
theorem witness_start_slot : (queued 1).freeSlot 0 = some 0 := one_of_one _
theorem witness_start_none : State.reset.pickWork 0 0 = none := by decide
theorem starts : (queued 1).canStart 0 0 (anItem 0 (.range 0 1 1 5)) = some (.queue 0 0, anItem 0 (.range 0 1 1 5)) := by
  show (if ((_ && ((queued 1).freeFrame 0).isSome && ((queued 1).freeSlot 0).isSome && _ : Bool)) = true then _ else _) = _
  rw [witness_frame_free, witness_start_slot]
  rfl
theorem witness_start_work : ∃ spot y, (queued 1).pickWork 0 0 = some (spot, y) ∧ y.kids.next = some (0, 5, .range 1 1 0 5) := by
  refine ⟨.queue 0 0, anItem 0 (.range 0 1 1 5), ?_, rfl⟩
  change List.findSome? (fun x => (queued 1).canStart 0 0 x) (anItem 0 (.range 0 1 1 5) :: _) = _
  rw [List.findSome?_cons, starts]
def endedParty : Party := { full [] with ended := true }
def childTask : Task := { demoTask endedParty with parent := .task 7, frame := 0x30000 }
def family : State :=
  held (.image 0) <| mapped ((demo endedParty).putTask 0 childTask |>.putTask 7 { demoTask (full []) with parent := .root 1, pendingKids := 2 })
theorem witness_not_ended : (demo (full [])).taskEnded 0 (demoTask (full [])) = false := by decide
theorem witness_ended : family.task? 0 = some childTask ∧ family.taskEnded 0 childTask = true ∧ childTask.kids = [] ∧
    childTask.parent = .task 7 ∧ (∃ x, family.task? 7 = some x ∧ x.parent ≠ .task 7 ∧ 2 ≤ x.pendingKids) :=
  ⟨by decide, by decide, rfl, rfl, _, rfl, by decide, by decide⟩
def looks (s : State) : Bool := lookIs (s.lookAgent 0 (.image 0) 0 0x30000) 0x30000 && !s.mute 0x30000
theorem witness_ended_die : (family.die 0).failed = false ∧ ((dead 0 true).die 0).failed = true := by decide
def resuming : State :=
  (State.reset.putTask 3 { demoTask (full []) with phase := .resuming }).putDie 0 { Die.reset with resumes := [.troupe 3] }
theorem witness_resume : resuming.pickResume 0 0 = some (.troupe 3) ∧ State.reset.pickResume 0 0 = none := by decide

/-- SwitchEventsComplete: work that waits above what a core runs, and none; a parked parent whose head waits unstarted behind a
running sibling on a die with no room; a core that may switch and one that may not; an image spilled, and restored; a handler
that defers. -/
theorem witness_priority_none : State.reset.waitingPrio 0 = none := by decide
def bigItem : Item := { anItem 0 (.range 5 1 1 5) with desc := { demoDesc with scratch := 262144 } }
def kid : Task := { demoTask (full []) with core := 95, parent := .task 7, prio := 1, cidx := 6 }
def noRoom : State :=
  { State.reset.putDie 0 { Die.reset with queue := [{ bigItem with desc := { demoDesc with scratch := 262145 } }] } with
    tasks := [(0, kid), (7, { demoTask (full []) with phase := .parked })] }
theorem witness_priority : noRoom.waitingPrio 0 = some 3 := by decide
theorem witness_priority_core : ((List.range 96).filter fun c => !(noRoom.residents 0 c).isEmpty && noRoom.topPrio 0 c < 3) = [95] ∧
    noRoom.sparesHead 0 [95] 95 = true := by decide
theorem witness_progress_none : State.reset.parentParked (.task 7) = false := by decide
theorem witness_progress : noRoom.parentParked (.task 7) = true ∧ noRoom.headOf (.task 7) = some 5 ∧
    (noRoom.tasks.filter fun e => e.2.parent == .task 7 && e.2.phase == .running && e.2.die == 0) = [(0, kid)] := by decide
theorem witness_progress_item : ∃ spot x, noRoom.lowestOf (.task 7) = some (spot, x) ∧ x.lowest = some 5 ∧ spot.die = 0 := ⟨_, _, rfl, rfl, rfl⟩
theorem witness_progress_full : ∀ c, c < 96 → noRoom.admitsOn 0 c 0 { demoDesc with scratch := 262145 } = false := by decide
def requested (p : Party) (mode : Nat) : State :=
  let s := (demo p).putCtx 0 { Ctx.reset with hids := 0x40, suspend := true }
  s.putCore 0 0 { (s.core 0 0) with requests := [.suspend], mode := mode }
theorem witness_swap : ((requested (full []) 0).withdraw 0).switchable 0 0 = true ∧
    ((requested { full [] with tmask := 0x100 } 0).withdraw 0).switchable 0 0 = false ∧
    ((requested (full []) 2).withdraw 0).switchable 0 0 = false := by decide
def spilled : Image := { ctx := 0, die := 0, core := 0, tasks := [3], mode := 0, ready := false, banks := [], lines := [] }
def spilling : State := { State.reset.putCore 0 0 { Core.empty with spill := some 9 } with images := [(9, spilled)] }
theorem witness_spill : (spilling.core 0 0).spill = some 9 ∧ AMap.get? spilling.images 9 = some spilled ∧ (spilling.ctx spilled.ctx).suspend = false ∧
    (State.reset.core 0 0).spill = none := by decide
def restoring : State :=
  { (State.reset.putTask 3 { demoTask (full []) with phase := .out 9 }).putDie 0 { Die.reset with resumes := [.image 9] } with
    images := [(9, { spilled with ready := true })] }
theorem witness_restore : restoring.pickResume 0 95 = some (.image 9) ∧ AMap.get? restoring.images 9 = some { spilled with ready := true } ∧
    { spilled with ready := true }.tasks = [3] ∧ (restoring.task? 3).isSome = true ∧ State.reset.pickResume 0 0 = none := by decide
theorem witness_deferral : let s := requested { full [] with tmask := 0x100 } 0
    (s.core 0 0).requests ≠ [] ∧ (s.core 0 0).expired = false ∧ (s.core 0 0).mode < 2 ∧
    ∃ e ∈ s.residents 0 0, e.2.failed = false ∧ ∃ p ∈ e.2.parties, p.ended = false ∧ p.masked = true :=
  ⟨by decide, rfl, by decide, (0, demoTask { full [] with tmask := 0x100 }), by decide, rfl, _, .head _, rfl, by decide⟩

/-- QueuePacketsComplete: a parsed packet at the head of a queue of 64 slots; a root range whose descriptor passes; fences met and
unmet; a QWRITE whose data lies beside its record; a counter that a party awaits. -/
def packet (h : Nat) (rest : List Byte) : List Byte := (leBytes 4 h ++ rest ++ List.replicate 60 0).take 64
def parsedQueue (bs : List Byte) : Queue :=
  { Queue.reset with
    enable := true, state := .running, head := 0xFFFFFFFF, tail := 0, ring := 0x9000, gb := 0x8000, logsz := 6
    fetched := some { bytes := bs, payload := none, checked := true } }
def parsedRun (bs : List Byte) : State := { demo (full []) with queues := [(1023, parsedQueue bs)] }
theorem witness_packets : ∀ h ∈ [1, 2, 3, 4, 5, 6, 7], ((parsedRun (packet h [])).parsed 1023 h).isSome = true ∧ (packet h []).length = 64 ∧
    (parsedRun (packet h [])).MemOk ∧ (parsedQueue []).gb % 64 = 0 ∧ (parsedRun (packet h [])).homeFailed (0x8000 + 32 * 63) = false ∧
    (parsedQueue []).waiting = [] := by decide
theorem witness_no_packet : ∀ h ∈ [1, 2, 3, 4, 5, 6, 7], (State.reset.parsed 1023 h).isNone = true := by decide
def launchPacket : List Byte := packet 1 (leBytes 4 16777216 ++ leBytes 8 0x30000 ++ leBytes 8 0x30040)
def launched : State := { mapped (parsedRun launchPacket) with mem := (tables.writeBytes 0x30000 childBytes) }
def launchKind : OpKind := .qlaunch 0x30000 0x30040 0 16777216 0 0 0 0
def launchOp : Op := Op.start launchKind (.queue 1023 0xFFFFFFFF) 0 0 0 0 (launched.accept 1023 launchPacket).allSeen
def accepted : State := launched.startOp 1023 launchPacket launchKind
theorem witness_launch_waits : (launched.parsed 1023 1).isSome = true ∧ launched.nextId = 5 ∧ AMap.get? accepted.ops 5 = some launchOp ∧
    accepted.frameLook launchOp 0x30040 = .miss 3 0 := by decide +kernel
/-- An operation to which a die's walk has brought page 3. -/
def brought (o : Op) : Op := { o with walked := [(o.die, { ctx := 0, va := 0x30000, leaf := plainLeaf 0x30000 })] }
def launching : State := { accepted with ops := [(5, brought launchOp)] }
def framed : State := launching.launchFrame (brought launchOp) 0x30000 0x30040 16777216 0 0 0 0x30040
theorem witness_launch : AMap.get? launching.roots 5 = none ∧ AMap.get? launching.ops 5 = some (brought launchOp) ∧ launching.frontDie = 0 ∧
    launching.opFree (brought launchOp) = true ∧ launching.mute 0x30040 = false ∧
    (match launching.frameLook (brought launchOp) 0x30040 with | .hit _ fpa => fpa == 0x30040 | _ => false) = true ∧
    framed.launchDies 0 = List.range 8 ∧ descriptorOk childBytes = true := by decide +kernel
theorem witness_launch_data : framed.gatherAt 5 { brought launchOp with progress := 1 } 0x30000 64 = (childBytes, [], .go) := by decide +kernel
/-- A fence of a queue whose front end holds page 3: met, below its threshold, on a page to be walked to, and at an address that faults. -/
def fencing : State :=
  (mapped (parsedRun [])).putDie 0 { Die.reset with agents := [(.queue 1023, { ctx := 0, va := 0x30000, leaf := plainLeaf 0x30000 })] }
theorem witness_fences : fencing.unmet 1023 [(0x30000, 0)] = { left := [], going := .go } ∧
    fencing.unmet 1023 [(0x30000, 0), (0x3FFF8, 0x3FFFFF)] = { left := [(0x3FFF8, 0x3FFFFF)], going := .go } ∧
    fencing.unmet 1023 [(0x30000, 0), (0x40000, 0)] = { left := [(0x40000, 0)], going := .miss 0x40000 0 } ∧
    fencing.unmet 1023 [(0x4000000000000000, 0)] = { left := [(0x4000000000000000, 0)], going := .err 2 0x4000000000000000 } := by decide +kernel
theorem witness_fence_poll : ∃ s : State, (s.queue 1023).fence = some (7, [(0x3FFF8, 0x3FFFFF)]) ∧ (s.queue 1023).waiting = [] ∧
    (s.queue 1023).state = .fence ∧ s.tasks = [] ∧ s.queues = [(1023, s.queue 1023)] :=
  ⟨{ State.reset with queues := [(1023, { Queue.reset with state := .fence, fence := some (7, [(0x3FFF8, 0x3FFFFF)]) })] }, rfl, rfl, rfl,
    rfl, rfl⟩
def aRoot : Root :=
  { ctx := 0, frame := 0, count := 1, pending := 0, nfail := 0, fcidx := 0, ctr := 0, add := 0, queue := 1023, seq := 7, wrt := 0, flags := 0
    ord := false, kids := [], joining := none, joined := true, written := false }
theorem witness_root_op : AMap.get? ({ State.reset with roots := [(4, aRoot)] } : State).roots 4 = some aRoot ∧
    AMap.get? State.reset.roots 4 = none ∧ AMap.get? State.reset.ops 4 = none := by decide
/-- Operations of the queue with data to write: QWRITE, QFILL, and QCOPY with a payload and from its source. -/
def queueOp (k : OpKind) : Op := brought { anOp 0 k with source := .queue 1023 7 }
def queueKinds : List OpKind :=
  [.qwrite 0x3FFF8 7, .qfill 0x3FFF8 8 7 0#64 0, .qcopy 0x30000 0x3FFF8 8 0#64 0 (some [1, 2]), .qcopy 0x30000 0x3FFF8 8 0#64 0 none]
def writing (k : OpKind) : State := { mapped (ops1 (queueOp k)) with queues := [(1023, parsedQueue [])] }
theorem witness_queue_ops : ∀ k ∈ queueKinds, AMap.get? (writing k).roots 1 = none ∧ AMap.get? (writing k).ops 1 = some (queueOp k) ∧
    (queueOp k).progress = 0 ∧ (queueOp k).twins = [] ∧ (queueOp k).poisoned = false ∧ (queueOp k).own = [] ∧ (writing k).MemOk ∧
    (writing k).frontDie = 0 ∧ (writing k).opFree (queueOp k) = true ∧
    seen ((writing k).engineLook 1 (queueOp k) .write 0x3FFF8) 0x3FFF8 = true ∧
    seen ((writing k).engineLook 1 (queueOp k) .read 0x30000) 0x30000 = true ∧ (writing k).homeFailed 0x3FFF8 = false ∧ (writing k).past = [] ∧
    ((writing k).queue 1023).record 7 / 64 ≠ 0x3FFF8 / 64 := by decide +kernel
theorem witness_counter_wake : (mapped (demo (full []))).awaitsAt 0 (full []) 0x30000 = false ∧
    (mapped (demo (full []))).awaitsAt 0 { full [] with hold := .awaitc 0x30000 7 } 0x30000 = true ∧
    (mapped (demo (full []))).queues = [] ∧ (demo { full [] with hold := .awaitc 0x30000 7 }).tasks
      = [(0, demoTask { full [] with hold := .awaitc 0x30000 7 })] := by decide +kernel

/-- QueueFetchAndControlComplete: a queue with a QNOP at its head whose check holds, one whose check fails, and one whose content
does not; the last failed fetch; doorbells at the ring's end and one past it; a descriptor at 0xA000. -/
def slotBytes (h : Nat) : List Byte := let b := (packet h []).take 60; b ++ leBytes 4 (crc32c b)
def fetching (bs : List Byte) (fails : Nat) : State :=
  { State.reset with
    mem := Memory.writeBytes [] 0x9000 bs
    queues := [(1023, { parsedQueue [] with head := 0, tail := 1, fetched := none, fails := fails, state := if fails = 0 then .running else .refetch })] }
theorem witness_fetch : let s := fetching (slotBytes 7) 0
    State.reset.nextQueue = none ∧ s.nextQueue = some 1023 ∧ s.lineFault s.frontDie 0x9000 0x9000 = none := by decide
theorem witness_sound : ∀ h ∈ [7, 8], let bs := (fetching (slotBytes h) 0).mem.readBytes 0x9000 64
    crc32c (bs.take 60) = natOfBytes ((List.range 4).map fun i => bs.getD (60 + i) 0) ∧
    State.reset.packetOk bs = (h == 7) := by decide
theorem witness_unsound : let bs := (fetching (packet 7 []) 63).mem.readBytes 0x9000 64
    crc32c (bs.take 60) ≠ natOfBytes ((List.range 4).map fun i => bs.getD (60 + i) 0) := by decide
theorem witness_refetch : let x := (fetching (slotBytes 7) 63).queue 1023
    x.state = .refetch ∧ x.waiting = [] ∧ x.fetched = none ∧ x.head % 65536 ≠ x.tail ∧ 64 ≤ x.fails + 1 ∧
    (fetching (slotBytes 7) 62 |>.queue 1023).fails + 1 < 64 := by decide
theorem witness_doorbell : let x := (fetching (slotBytes 7) 0).queue 1023
    x.state ≠ .stopped ∧ x.state ≠ .draining ∧ (0 + 65536 - 0) % 65536 < (x.tail + 65536 - 0) % 65536 ∧ 64 ≤ 2 ^ x.logsz ∧ 2 ^ x.logsz < 65 := by
  decide
def enabling (n : Nat) : State :=
  { State.reset with
    mem := Memory.writeBytes [] 0xA000 (leBytes 8 0x9000 ++ leBytes 8 0x8000 ++ leBytes 4 7 ++ leBytes 1 n ++ leBytes 1 3 ++ leBytes 2 4095)
    queues := [(1023, { Queue.reset with desca := 0xA000 })] }
theorem witness_enable : (enabling 15).fpaValid 0xA000 = true ∧ (enabling 15).lineFault (enabling 15).frontDie 0xA000 0xA000 = none ∧
    (enabling 15).descOk ((enabling 15).mem.readBytes 0xA000 64) = true ∧ (enabling 16).descOk ((enabling 16).mem.readBytes 0xA000 64) = false ∧
    (Queue.reset.enable = false ∧ Queue.reset.state = .stopped) := by decide
theorem witness_queue_states : ∃ x y : Queue, x.state = .error ∧ x.fence = none ∧ y.fence = some (7, [(0x30000, 1)]) ∧ y.state = .fence ∧
    y.gb % 64 = 0 ∧ State.reset.homeFailed (y.record 7) = false :=
  ⟨{ Queue.reset with state := .error }, { Queue.reset with state := .fence, fence := some (7, [(0x30000, 1)]), gb := 0x8000 }, by decide⟩

/-- HostAccessesComplete: an address that the host reaches and one that it does not; a line's last byte; the last registers. -/
theorem witness_host : State.reset.hostReaches 0x3003F = true ∧ State.reset.hostReaches (2 ^ 41) = false ∧ State.reset.hostBad 0x3003F 1 = [] ∧
    State.reset.isMcast 0x3003F = false ∧ State.reset.homeFailed 0x3003F = false ∧ State.reset.MemOk ∧
    0x3003F % 64 + [(7 : Byte)].length ≤ 64 ∧ fpaClass 0x3003F = 0 ∧ fpaClass (2 ^ 54) ≠ 0 ∧
    (mcasts (stmOp [] [])).isMcast (2 ^ 55 + 0x40000) = true ∧ 4095 < 4096 ∧ 1023 < 1024 := by decide

/-- PackageEventsComplete: die 7 at the floor; a request in order and one that is not; a held task; digests that differ. -/
theorem witness_throttle : ((State.reset.putDie 7 { Die.reset with mhz := 550 }).die 7).failed = false ∧ 550 ≤ 1050 ∧ 7 < 8 ∧ 2 < 3 := by decide
theorem witness_attest : ({ State.reset with attStatus := 1, attHeld := List.replicate 168 0 } : State).requestOk = true ∧
    ({ State.reset with attStatus := 1, attHeld := List.replicate 168 1 } : State).requestOk = false ∧ (List.replicate 168 (0 : Byte)).length = 168 := by
  decide
theorem witness_boot : ({ State.reset with stage := 1 } : State).stage = 1 ∧ State.reset.stage ≠ 1 := by decide
theorem witness_release : ∃ (s : State) (t : Task), (0, t) ∈ s.tasks ∧ t.ctx = 0 ∧ t.held = true :=
  ⟨State.reset.putTask 0 { demoTask (full []) with held := true, phase := .resuming }, _, .head _, rfl, rfl⟩
theorem witness_digests : ∃ s : State, (s.ctx 4095).enable = true ∧ AMap.get? (s.ctx 4095).localDigests 3 = some 5#64 ∧
    AMap.get? (s.ctx 4095).localDigests 4 = none ∧ (s.ctx 0).enable = false :=
  ⟨State.reset.putCtx 4095 { Ctx.reset with enable := true, localDigests := [(3, 5)] }, by decide⟩

/-- FailureEventsComplete: the last bridge and the last die; a failed die with nothing on it; wraps of both kinds; a transfer whose
way is open, with its operation and without. -/
theorem witness_failures : 7 < 8 ∧ State.reset.wrapped = false ∧ State.reset.wrapNext = none ∧ ((dead 7 false).die 7).failed = true ∧
    ((dead 7 false).die 7).detected = false ∧ (dead 7 false).tasks = [] ∧ (dead 7 false).cores = [] ∧ (dead 7 false).ops = [] ∧
    (dead 7 false).groupBars = [] ∧ ∀ e ∈ (dead 7 false).dies, e.2.queue = [] := by decide
theorem witness_wraps : ({ dead 7 false with wrapNext := some ([(1, 7)], List.range 7) } : State).wrapNext = some ([(1, 7)], List.range 7) ∧
    ((dead 7 true).die 7).detected = true ∧ ((dead 7 false).die 7).failed = true ∧ ((dead 7 false).die 7).detected = false := by decide
def aXfer (phase : Nat) : Xfer :=
  { op := 1, src := 0, dst := 1, ctx := 0, slot := 63, order := 0, ring := 0, phase := phase, chunk := 0, data := [7], poison := [], rail := false
    seg := 0, check := (courierWork 2 63).check }
def aShare (die : Nat) : Op := anOp die (.courier (courierWork 2 63))
def moving (phase : Nat) (ops : AMap Op) : State := { State.reset with xfers := [(3, aXfer phase)], ops := ops }
theorem witness_transfer : ∀ ph ∈ [1, 2], AMap.get? (moving ph []).xfers 3 = some (aXfer ph) ∧ (moving ph []).xferOpen (aXfer ph) = true ∧
    (moving ph []).courierAt (aXfer ph) = none ∧
    (moving ph [(1, aShare 0), (2, aShare 1)]).courierAt (aXfer ph) = some (2, aShare 1, courierWork 2 63) ∧
    AMap.get? (moving ph [(1, aShare 0), (2, aShare 1)]).ops (aXfer ph).op = some (aShare 0) ∧
    ({ dead 1 false with xfers := [(3, aXfer ph)] } : State).xferOpen (aXfer ph) = false := by decide

/-- NetworkEventsComplete: an engine that is on; a READ with a packet to send; packets outstanding; a packet that its region admits,
one that it does not, one seen before, and a rail's. -/
def netOn : NetEngine := { NetEngine.reset with cfg := 2 ^ 63, up := true, regnBase := 0x30000 }
def readOp : NetWork := { readWork with words := readWork.words.set 8 0 }
def netRun (n : NetEngine) (ops : AMap Op) : State :=
  { State.reset.putDie 7 { Die.reset with net := n } with
    ops := ops, mem := Memory.writeBytes [] 0x30000 (leBytes 4 0xFFFFF000 ++ leBytes 3 0xFFFFFF ++ leBytes 1 2 ++ leBytes 8 0x20000 ++ leBytes 4 64) }
theorem witness_net_on : bit netOn.cfg.toNat 63 = true ∧ netOn.up = true ∧ ((netRun netOn []).die 7).failed = false ∧
    (netRun netOn []).netOps 7 = [] ∧ (netRun netOn [(1, netOp 7 readOp)]).netOps 7 = [(1, netOp 7 readOp, readOp)] ∧ readOp.opc = 3 ∧
    bit NetEngine.reset.cfg.toNat 63 = false := by decide
theorem witness_net_send : ((netRun netOn [(1, netOp 7 readOp)]).peerRound 7).findSome? (fun i => (netRun netOn [(1, netOp 7 readOp)]).peerReady 7 i)
    = some (1, netOp 7 readOp, readOp, 0, false) := by decide
def outOne : OutPacket := { psn := 9, op := 1, index := 1, sends := 7, higher := [], due := false }
theorem witness_net_acks : (({ netOn with peers := [(0, { nextPsn := 10, out := [outOne], reported := [], retrans := 0, lastErr := 0 })] } : NetEngine).peerRec 0).out
      = [outOne] ∧ mem? outOne.psn [9] = true ∧ readOp.acked = [] ∧ readOp.count = 2 ∧ outOne.sends ≤ 7 ∧ outOne.due = false ∧
    (∀ y ∈ (netOn.peerRec 0).out, y.psn ≠ 9) := by decide
def netPacket (opc roff : Nat) : NetPacket :=
  { srcIp := 5, psn := 9, msg := 9, opc := opc, dmode := 0, job := 0xFFFFFF, rkey := 0xFFFFF000, roff := roff, moff := 0, len := 64
    rcoff := 0xFFFFFFFFFFFFFFFF, tag := 0, mtu := 0, data := [], poison := [], intact := true }
theorem witness_net_packets : ((netRun netOn []).region netOn 0xFFFFF000).admits (netPacket 3 0) = true ∧
    ((netRun netOn []).region netOn 0xFFFFF000).admits (netPacket 3 1) = false ∧ netOn.hasPsn (netPacket 3 0) = false ∧
    ({ netOn with seen := [(5, 9)] } : NetEngine).hasPsn (netPacket 3 0) = true ∧ netOn.held = [] ∧
    (netPacket 3 0).dmode ≤ 2 ∧ (netPacket 3 0).mtu ≤ 2 ∧
    ((netRun netOn [(1, aShare 7)]).courierOps 7 0 63).length = 1 ∧ isDeadNews (netPacket 5 0) = false ∧
    isDeadNews { netPacket 5 0 with tag := 7, data := [5] } = true := by decide
/-- A region at 0x38000 of a mapped page, which takes any packet; a READ of it, the first packet of a WRITE of one packet and of two, and its last one. -/
def placing (ops : AMap Op) : State :=
  let s := { netRun netOn ops with nextId := 9 }
  { s.putCtx 0 { s.ctx 0 with ctxpt := 0x100001 } with
    mem := tables.writeBytes 0x30000
      (leBytes 4 0xFFFFF000 ++ leBytes 3 0xFFFFFF ++ leBytes 1 7 ++ leBytes 8 0x38000 ++ leBytes 4 4096 ++ leBytes 2 0 ++ leBytes 1 11) }
def bytesOf (opc len moff : Nat) : NetPacket := { netPacket opc 0 with len := len, moff := moff, data := [7, 8] }
theorem witness_net_read : ((placing []).region netOn 0xFFFFF000).admits (netPacket 3 0) = true ∧ ((placing []).region netOn 0xFFFFF000).ctx = 0 ∧
    (placing []).hasPacket 7 (netPacket 3 0) = false ∧ netOn.held = [] ∧ (netPacket 3 0).len < 2 ^ 32 := by decide +kernel
def arrived (p : NetPacket) : State := ((placing []).markSeen 7 p).sack 7 p.srcIp
theorem witness_net_write_waits : let p := bytesOf 1 64 0
    let o := (arrived p).recvStart 7 p
    let s2 := ({ arrived p with nextId := (arrived p).nextId + 1 }).putOp (arrived p).nextId o
    ((placing []).region netOn 0xFFFFF000).admits p = true ∧ (placing []).rudiDone 7 p = false ∧ (placing []).recvOp 7 p = none ∧
    s2.opFree o = true ∧ s2.engineLook (arrived p).nextId o .write 0x38000 = .stop (.miss 0x38000 1) := by decide +kernel
def message (placed : List Nat) (held : List NetPacket) : Op :=
  brought { anOp 7 (.recv 5 9 placed none held) with source := .network }
def lands (p : NetPacket) (placed : List Nat) (va : Nat) : Bool :=
  let s := placing [(1, message placed [])]
  let s1 := (s.markSeen 7 p).sack 7 p.srcIp
  s.recvOp 7 p == some (1, message placed []) && (s1.putOp 1 (message placed [p])).opFree (message placed [p]) &&
    seen ((s1.putOp 1 (message placed [p])).engineLook 1 (message placed [p]) .write va) va && s1.homeFailed va == false && s1.past.isEmpty
theorem witness_net_write : lands (bytesOf 1 64 0) [] 0x38000 = true ∧ lands (bytesOf 1 2048 0) [] 0x38000 = true ∧
    lands (bytesOf 1 2048 1024) [0] 0x38400 = true ∧ (placing []).MemOk ∧ (placing []).badCheck = [] := by decide +kernel
/-- A READ with one packet back of two, and the response that brings the other. -/
def reading (got : List Nat) : NetWork :=
  { readWork with words := (readWork.words.set 0 3).set 7 2048, base := 9, count := 1, acked := [0], got := got }
def readOn (got : List Nat) : Op := brought { netOp 7 (reading got) with source := .network }
theorem witness_net_response : let p := { bytesOf 4 2048 1024 with srcIp := (placing []).peerIp netOn 0 }
    (placing [(1, readOn [0])]).netOps 7 = [(1, readOn [0], reading [0])] ∧ (reading [0]).opc = 3 ∧ (reading [0]).base = p.msg ∧
    p.moff ∉ (reading [0]).got ∧ packetsOf (reading [0]).len (reading [0]).payload = 2 ∧ (reading [0]).lctr = 2 ^ 64 - 8 ∧
    seen ((placing [(1, readOn [0])]).engineLook 1 (readOn [0]) .write 0x30400) 0x30400 = true ∧
    (∀ e ∈ (placing [(1, readOn [0])]).netOps 7, ¬(e.2.2.opc = 3 ∧ e.2.2.base = 8)) := by decide +kernel
/-- A SEND at a region of one slot, which is free and is not; a WRITE placed whole; the turns of slots, of ROD and of counters. -/
def sending (placed : List Nat) (slot : Option Nat) : Op :=
  brought { anOp 7 (.recv 5 9 placed slot [bytesOf 2 64 0]) with source := .network }
theorem witness_net_slots : let s := placing [(1, sending [] none)]
    s.slotWaits 1 (sending [] none) (bytesOf 2 64 0) = false ∧ s.slotWaits 2 (sending [] none) (bytesOf 2 64 0) = true ∧
    s.gatherNat 1 (sending [] none) 0x38000 8 = (0, .go) ∧ s.gatherNat 1 (sending [] none) 0x38008 8 = (0, .go) ∧
    4096 / 2 ^ 11 - 1 = 1 ∧ (s.scatterAt 1 (sending [] none) 0x38008 (leBytes 8 1) (fun _ => false)).2.2 = .go ∧
    (s.scatterAt 1 (sending [] (some 0)) 0x38800 (leBytes 4 0 ++ leBytes 4 64 ++ leBytes 2 0) (fun _ => false)).2.2 = .go ∧
    (s.scatterAt 1 (sending [] (some 0)) 0x3880C (leBytes 4 1) (fun _ => false)).2.2 = .go := by decide +kernel
theorem witness_net_turns : let p := { bytesOf 1 64 0 with dmode := 1 }
    let s := placing [(1, brought { anOp 7 (.recv 5 8 [] none [p]) with source := .network })]
    s.rodWaits 2 (message [] [p]) p = true ∧ s.rodWaits 1 (message [] [p]) p = false ∧ s.bumpWaits 1 (message [] [p]) p = false ∧
    s.bumpWaits 1 (message [] []) (bytesOf 1 64 0) = true ∧ s.opFree (message [] [p]) = true ∧
    s.opFree { message [] [p] with waiting := [0x38000] } = false := by decide +kernel
/-- A message that the last acknowledgement ends, whose LCTR lies on a mapped page; and a WRITE's and a rail's packet to send, and one
to send again. -/
def endingWork (lctr : Word) : NetWork := { readWork with words := ((readWork.words.set 0 1).set 10 lctr).set 11 0, count := 1, acked := [] }
def endingOp (lctr : Word) : Op := brought { netOp 7 (endingWork lctr) with source := .network }
theorem witness_net_ends : let w := endingWork 0x3FFF8
    (addNew w.acked 0).length = w.count ∧ w.opc = 1 ∧ w.lctr = 0x3FFF8 ∧ (endingWork 0).lctr = 0 ∧
    seen ((placing [(1, endingOp 0x3FFF8)]).engineLook 1 (endingOp 0x3FFF8) .atomic 0x3FFF8) 0x3FFF8 = true := by decide +kernel
def sendNext (w : NetWork) (n : NetEngine) : Option (Nat × Nat × Bool) :=
  let s := { placing [(1, brought { netOp 7 w with source := .network })] with dies := [(7, { Die.reset with net := n })] }
  ((s.peerRound 7).findSome? fun i => s.peerReady 7 i).map fun x => (x.1, x.2.2.2)
def resending : NetEngine :=
  { netOn with peers := [(0, { nextPsn := 10, out := [{ outOne with psn := 0, index := 0, due := true }], reported := [], retrans := 0, lastErr := 0 })] }
theorem witness_net_sends : sendNext (endingWork 0) netOn = some (1, 0, false) ∧ sendNext (endingWork 0) resending = some (1, 0, true) ∧
    sendNext { endingWork 0 with words := (endingWork 0).words.set 0 5 } netOn = some (1, 0, false) ∧
    sendNext { endingWork 0 with words := (endingWork 0).words.set 0 4, reply := some (5, 9) } netOn = some (1, 0, false) ∧
    ((placing []).gatherAt 1 (endingOp 0) 0x30000 64).2 = ([], .go) ∧
    (({ placing [] with poison := [0xC00] } : State).gatherAt 1 (endingOp 0) 0x30000 64).2 = ([0x30000], .go) := by decide +kernel

/-! ### Clauses at the boundaries of the new forms -/

/-- TranslationEventsComplete: a walk on through an empty walk cache that finds the leaf, a bad table and no entry; an item that a core
would take but for a frame; a store that stalls for want of spill room. -/
theorem witness_walk_on :
    (((walking 0x100001 0).putDie 0 Die.reset).walkOn 0 0 0x30000 == .leaf (plainLeaf 0x30000)) = true ∧
    (((walking (2 ^ 55 + 1) 0).putDie 0 Die.reset).walkOn 0 0 0x30000 == .bad) = true ∧
    (((walking 0x200001 0).putDie 0 Die.reset).walkOn 0 0 0x30000 == .notMapped 1) = true := by decide +kernel
theorem witness_wants_frame : ((queued 0).items.find? ((queued 0).wantsFrame 0 0)).isSome = true := by decide
def stalled : Party :=
  { full [] with stack := [{ (full []).top with tried := true, clause := some { header := 0x10000, seta := 0, setb := 0, words := encode (.st 6 4 0x40 4) } }] }
theorem witness_spill_stall : stalled.ended = false ∧ stalled.top.tried = true ∧ stalled.top.told = false ∧ stalled.atStore = true ∧
    ((demo stalled).putTask 0 { demoTask stalled with det := true }).spillFull 0 = true ∧ (full []).atStore = false := by decide +kernel

/-- TaskEventsComplete: the ended child leaves nothing in its core and lost no image. -/
theorem witness_ended_core : (family.source 0 childTask).coreHolds 0 0 0 = false ∧ childTask.imageLost = false ∧
    (family.source 0 childTask).taskFlits 0 = [] ∧ looks (family.source 0 childTask) = true := by decide +kernel

/-- CacheWordsComplete: a line of the range on its way. -/
def oneSpan : List Span := [{ lo := 2 ^ 55 + 0x40000, hi := 2 ^ 55 + 0x40040, leaf := nodeLeaf }]
theorem witness_range_flying :
    (flying (flitOf [(0, 0)] false false (2 ^ 55 + 0x40000))).spansHome (demoExec (full [])) oneSpan = false := by decide

/-- NodeAndFlitEventsComplete: a frame with no pending twin, at the frame itself and behind a pair whose frames are swapped. -/
theorem witness_twins : (demo (full [])).twinPending 0x3003F = false ∧ (demo (full [])).visible 0x3003F = 0x3003F ∧
    (State.reset.putDie 0 { Die.reset with sel := [(0x30000, 0x10000)] }).visible 0x3003F = 0x4003F := by decide

/-- HostAccessesComplete: the last byte of the CXL window, and the first past it. -/
theorem witness_cxl : ({ State.reset with cxlSteps := 1 } : State).inCxl (2 ^ 28 - 1) = true ∧
    ({ State.reset with cxlSteps := 1 } : State).inCxl (2 ^ 28) = false ∧ State.reset.fpaValid (2 ^ 41) = false := by decide

/-- QueuePacketsComplete: a QMARK where every die has an event ring of its own; QueueFetchAndControlComplete: a slot that carries a payload,
whose check holds and does not, and a ring on a die that does not answer. -/
def marking : State :=
  { parsedRun (packet 6 []) with dies := (List.range 8).map fun d => (d, { Die.reset with eqBase := BitVec.ofNat 64 (0x200000 + 0x40000 * d) }) }
theorem witness_mark : (marking.parsed 1023 6).isSome = true ∧ ∀ d, d < 8 →
    let slot := fun (d : Nat) => (marking.die d).eqBase.toNat / 4096 % 2 ^ 44 * 4096 + 64 * ((marking.die d).eqTail.toNat % 4096)
    (marking.die d).eqBase.toNat / 4096 % 2 ^ 44 * 4096 ≠ 0 ∧ (marking.die d).eqTail - (marking.die d).eqHead ≠ 4096#32 ∧
    marking.homeFailed (slot d) = false ∧ isRemote (slot d) = false ∧ slot d / 64 ≠ (0x8000 + 32 * 63) / 64 ∧
    ∀ e, e < 8 → e ≠ d → slot e / 64 ≠ slot d / 64 := by decide
def payloadSlot (check : Nat) : List Byte :=
  let b := leBytes 8 0x102 ++ leBytes 8 0x30000 ++ leBytes 8 0x38000 ++ leBytes 8 8 ++ List.replicate 20 0 ++ leBytes 8 check
  b ++ leBytes 4 (crc32c b)
def carrying (check : Nat) : State :=
  let s := fencing.putQueue 1023 { parsedQueue [] with head := 0, tail := 1, fetched := none, waiting := [] }
  { s with mem := tables.writeBytes 0x9000 (payloadSlot check) }
theorem witness_payload : ∀ c ∈ [crc32c (List.replicate 8 0), 1], (carrying c).packetOk (payloadSlot c) = true ∧ (carrying c).mute 0x9000 = false ∧
    (carrying c).mem.readBytes 0x9000 64 = payloadSlot c ∧ (carrying c).nextQueue = some 1023 ∧
    (carrying c).gatherAt (carrying c).nextId ((carrying c).frontOp 1023) 0x30000 8 = (List.replicate 8 0, [], .go) := by decide +kernel
theorem witness_mute : (dead 1 false).mute (2 ^ 38) = true ∧ (dead 1 true).mute (2 ^ 38) = false ∧ (dead 1 false).mute 0x9000 = false ∧
    (dead 1 false).hostReaches (2 ^ 38) = true ∧ inControlPage (2 ^ 55 + 2 ^ 45 - 65536) = true := by decide

/-- FailureEventsComplete: a wrapped path that a bridge and a die split into pieces of two lengths and of one, and what stands on a die that
has failed; a collective of a group with it. -/
def wrappedRun : State := { State.reset with wrapped := true, path := [2, 3, 4, 5, 6, 7, 0, 1] }
theorem witness_splits : wrappedRun.wrapNext = none ∧ bridgeAt wrappedRun.path 3 = some 1 ∧ wrappedRun.path.take 2 = [2, 3] ∧
    bridgeAt wrappedRun.path 5 = some 3 ∧ (wrappedRun.path.take 4).length = (wrappedRun.path.drop 4).length ∧ 0 ∉ wrappedRun.path.take 4 ∧
    0 ∈ wrappedRun.path.drop 4 ∧ bridgeAt wrappedRun.path 1 = none ∧ wrappedRun.path = [2, 3, 4] ++ 5 :: [6, 7, 0, 1] ∧
    wrappedRun.groupBars = [] ∧ wrappedRun.tasks = [] ∧ wrappedRun.dies = [] ∧ wrappedRun.ops = [] ∧ wrappedRun.queues = [] := by decide
def onDie (d : Nat) (parent : Parent) : Task := { demoTask (full []) with die := d, parent := parent, frame := 0x30000 }
def silent : State :=
  { dead 1 false with
    tasks := [(0, onDie 0 (.root 9)), (1, onDie 1 (.task 0))], ops := [(1, anOp 0 (.acp 0 0 1 1 0 0 0#64 0)), (2, anOp 1 (.acp 0 0 1 1 0 0 0#64 0))] }
theorem witness_silence : ((silent.die 1).failed = true ∧ (silent.die 1).detected = false) ∧ AMap.sortedFrom 0 silent.tasks = true ∧
    (∀ e ∈ silent.tasks, e.2.phase = .running ∧ e.2.imageWait = false) ∧ (∀ e ∈ silent.dies, e.2.queue = [] ∧ e.2.slots = []) ∧
    (silent.putDie 1 { (silent.die 1) with detected := true }).frameOn 1 (onDie 0 (.root 9)) = false ∧
    (∃ o, AMap.get? silent.ops 2 = some o ∧ o.die = 1) := ⟨by decide, by decide, by decide, by decide, by decide, _, rfl, rfl⟩
theorem witness_dead_rank : ((dead 1 false).courierRing (courierWork 0 63)).contains 1 = true ∧
    ((dead 1 false).courierRing (courierWork 0 63)).contains 0 = true ∧ groupSpans (courierWork 0 63).defn = false ∧
    ((dead 1 false).die 0).failed = false ∧ (aShare 0).twins = [] := by decide

/-- PackageEventsComplete: a boundary whose partner has not answered, and one that has been reported. -/
theorem witness_silent : ∃ x : Ctx, (AMap.get? x.localDigests 3).isSome = true ∧ AMap.get? x.partnerDigests 3 = none ∧ 3 ∉ x.silent ∧
    3 ∈ { x with silent := [3] }.silent := ⟨{ Ctx.reset with localDigests := [(3, 5)] }, by decide⟩

/-- PackageEventsComplete: an image that passes, ones that fail each check, and scratch bytes at an allotment's edge. -/
def imageRun (f : Firmware → Firmware) : State :=
  { State.reset with stage := 1, firmware := f { readable := true, signed := true, version := 7, digests := [5, 5] }, fuses := [(0, 0), (7, 7)] }
theorem witness_boot_checks : (imageRun id).bootFails = [] ∧ (imageRun fun x => { x with signed := false }).bootFails = [1] ∧
    (imageRun fun x => { x with version := 6 }).bootFails = [2] ∧ (imageRun fun x => { x with digests := [5, 6] }).bootFails = [3] ∧
    (imageRun fun x => { x with readable := false }).bootFails = [4] := by decide
theorem witness_scratch_error : ∃ t : Task, (demo (full [])).task? 0 = some t ∧ t.desc.scratch - 1 < t.desc.scratch ∧ t.desc.scratch ≤ 4096 :=
  ⟨_, rfl, by decide⟩
theorem witness_queue_range : 1023 < 1024 ∧ 1024 ≤ 1024 ∧ 31 < 32 ∧ 32 ≤ 32 ∧ 4095 < 4096 := by decide

/-- NetworkEventsComplete: a rail packet of the collective that the die runs, and one of a collective still to come. -/
theorem witness_rail_orders : (netRun netOn []).railLate 7 (netPacket 5 0) = false ∧ (netPacket 5 0).opc = 5 ∧
    ((netRun netOn []).putDie 7 { Die.reset with slots := [(63, { words := groupWords 2, lastErr := 0, counts := [(groupWords 2, 1)], ended := [], dead := [] })] }).railLate
      7 { netPacket 5 0 with rkey := 63, rcoff := BitVec.ofNat 64 (groupCheck (groupWords 2)) } = true := by decide

/-- RegisterWordsChangeOnePartyAlone. -/
theorem witness_passed : ∃ (s t : State) (c : Exec) (p : Party), s.current = some c ∧ s.passed c 1 p = .next t :=
  ⟨demo (full []), _, demoExec (full []), full [], rfl, rfl⟩
end Sys2Proof.Tests
end

section
/-! PROOFS. The integer words of spec/06: their encodings, and the next state of each. Four parts: the fields of a word and the
decoder of each family; the arithmetic of the model as operations on bit vectors; one rule for each operand form; the obligations. -/

namespace Sys2Proof.Proofs

open Sys2Proof Sys2Proof.Machine Sys2Proof.Laws

/-! ## Words of the fields MAJ, D, A, B and M -/

/-- The word of the fields MAJ, D, A, B and M, the last with its broadcast bit apart (R114). -/
def laneWord (maj d a b : BitVec 7) (u : BitVec 1) (m : BitVec 3) : Word := maj ++ d ++ a ++ b ++ u ++ m

section
variable {maj d a b : BitVec 7} {u : BitVec 1} {m : BitVec 3}

theorem toNat_laneWord : (laneWord maj d a b u m).toNat =
    maj.toNat * 2 ^ 25 + d.toNat * 2 ^ 18 + a.toNat * 2 ^ 11 + b.toNat * 2 ^ 4 + u.toNat * 2 ^ 3 + m.toNat := by
  unfold laneWord
  simp only [BitVec.toNat_append]
  rw [← Nat.shiftLeft_add_eq_or_of_lt d.isLt, ← Nat.shiftLeft_add_eq_or_of_lt a.isLt, ← Nat.shiftLeft_add_eq_or_of_lt b.isLt,
    ← Nat.shiftLeft_add_eq_or_of_lt u.isLt, ← Nat.shiftLeft_add_eq_or_of_lt m.isLt]
  simp only [Nat.shiftLeft_eq]
  omega

theorem laneWord_maj : (laneWord maj d a b u m).toNat / 2 ^ 25 = maj.toNat := by
  rw [toNat_laneWord]
  omega

@[simp] theorem laneWord_sub : (laneWord maj d a b u m).toNat % 8 = m.toNat := by
  rw [toNat_laneWord]
  omega

@[simp] theorem field_laneWord_d : field (laneWord maj d a b u m) 18 7 = d := by
  apply BitVec.eq_of_toNat_eq
  rw [field, toNat_laneWord, BitVec.toNat_ofNat]
  omega

@[simp] theorem field_laneWord_dLow : field (laneWord maj d a b u m) 18 3 = d.setWidth 3 := by
  apply BitVec.eq_of_toNat_eq
  rw [field, toNat_laneWord, BitVec.toNat_ofNat, BitVec.toNat_setWidth]
  omega

@[simp] theorem field_laneWord_a : field (laneWord maj d a b u m) 11 7 = a := by
  apply BitVec.eq_of_toNat_eq
  rw [field, toNat_laneWord, BitVec.toNat_ofNat]
  omega

@[simp] theorem field_laneWord_b : field (laneWord maj d a b u m) 4 7 = b := by
  apply BitVec.eq_of_toNat_eq
  rw [field, toNat_laneWord, BitVec.toNat_ofNat]
  omega

@[simp] theorem field_laneWord_u : field (laneWord maj d a b u m) 3 1 = u := by
  apply BitVec.eq_of_toNat_eq
  rw [field, toNat_laneWord, BitVec.toNat_ofNat]
  omega

@[simp] theorem field_laneWord_m : field (laneWord maj d a b u m) 0 3 = m := by
  apply BitVec.eq_of_toNat_eq
  rw [field, toNat_laneWord, BitVec.toNat_ofNat]
  omega

theorem zeroBits_eq_decide (w : Word) (lo len : Nat) : zeroBits w lo len = decide (w.toNat / 2 ^ lo % 2 ^ len = 0) := rfl

@[simp] theorem zeroBits_laneWord_b : zeroBits (laneWord maj d a b u m) 4 7 = decide (b = 0#7) := by
  rw [zeroBits_eq_decide, toNat_laneWord, decide_eq_decide, ← BitVec.toNat_inj, BitVec.toNat_ofNat]
  omega

@[simp] theorem zeroBits_laneWord_u : zeroBits (laneWord maj d a b u m) 3 1 = decide (u = 0#1) := by
  rw [zeroBits_eq_decide, toNat_laneWord, decide_eq_decide, ← BitVec.toNat_inj, BitVec.toNat_ofNat]
  omega

@[simp] theorem zeroBits_laneWord_bu : zeroBits (laneWord maj d a b u m) 3 8 = decide (u = 0#1 ∧ b = 0#7) := by
  rw [zeroBits_eq_decide, toNat_laneWord, decide_eq_decide, ← BitVec.toNat_inj, ← BitVec.toNat_inj, BitVec.toNat_ofNat,
    BitVec.toNat_ofNat]
  omega

@[simp] theorem zeroBits_laneWord_dHigh : zeroBits (laneWord maj d a b u m) 21 4 = decide (d.toNat < 8) := by
  rw [zeroBits_eq_decide, toNat_laneWord, decide_eq_decide]
  omega

end

/-- A major opcode without trailers, and the decoder of its words (R75, R79). -/
structure MajorOf (maj : BitVec 7) (D : Word → Except DecodeError Instr) : Prop where
  nonzero : maj ≠ 0#7
  alone : trailersOf maj.toNat = 0
  decodes : ∀ w, w.toNat / 2 ^ 25 = maj.toNat → decodeMaj w 0#32 0#32 0#32 = D w

section
variable {maj d a b : BitVec 7} {u : BitVec 1} {m : BitVec 3} {D : Word → Except DecodeError Instr}

theorem MajorOf.decode_eq (h : MajorOf maj D) : decode [laneWord maj d a b u m] =
    (D (laneWord maj d a b u m)).bind fun i => (checkDefect i).bind fun i => .ok (i, []) := by
  have nonzero : laneWord maj d a b u m ≠ 0#32 := fun e => h.nonzero <| BitVec.eq_of_toNat_eq <| by
    rw [← laneWord_maj (d := d) (a := a) (b := b) (u := u) (m := m), e]
    rfl
  rw [decode, if_neg nonzero, laneWord_maj, h.alone]
  simp only [List.length_nil, Nat.lt_irrefl, if_false, List.getD_nil, h.decodes _ laneWord_maj]
  cases D (laneWord maj d a b u m) with
  | error e => rfl
  | ok i => cases hc : checkDefect i <;> simp [Except.bind, hc]

theorem MajorOf.reads (h : MajorOf maj D) {i : Instr} (hD : D (laneWord maj d a b u m) = .ok i) (hi : i.defect = none) :
    decode [laneWord maj d a b u m] = .ok (i, []) := by
  simp [h.decode_eq, hD, checkDefect, hi, Except.bind]

theorem MajorOf.refuses (h : MajorOf maj D) {e : DecodeError} (hD : D (laneWord maj d a b u m) = .error e) :
    decode [laneWord maj d a b u m] = .error e := by
  rw [h.decode_eq, hD]
  rfl

end

/-! ### The majors of spec/06 (R77) -/

theorem major18 : MajorOf 0x18 decodeMaj18 := ⟨by decide, rfl, fun w h => by rw [decodeMaj, h]; rfl⟩
theorem major19 : MajorOf 0x19 decodeMaj19 := ⟨by decide, rfl, fun w h => by rw [decodeMaj, h]; rfl⟩
theorem major1A : MajorOf 0x1A decodeMaj1A := ⟨by decide, rfl, fun w h => by rw [decodeMaj, h]; rfl⟩
theorem major1B : MajorOf 0x1B decodeMaj1B := ⟨by decide, rfl, fun w h => by rw [decodeMaj, h]; rfl⟩
theorem major1C : MajorOf 0x1C decodeMaj1C := ⟨by decide, rfl, fun w h => by rw [decodeMaj, h]; rfl⟩
theorem major1D : MajorOf 0x1D decodeMaj1D := ⟨by decide, rfl, fun w h => by rw [decodeMaj, h]; rfl⟩
theorem major1E : MajorOf 0x1E decodeMaj1E := ⟨by decide, rfl, fun w h => by rw [decodeMaj, h]; rfl⟩
theorem major1F : MajorOf 0x1F decodeMaj1F := ⟨by decide, rfl, fun w h => by rw [decodeMaj, h]; rfl⟩
theorem major20 : MajorOf 0x20 decodeMaj20 := ⟨by decide, rfl, fun w h => by rw [decodeMaj, h]; rfl⟩
theorem major30 : MajorOf 0x30 decodeMaj30 := ⟨by decide, rfl, fun w h => by rw [decodeMaj, h]; rfl⟩
theorem major31 : MajorOf 0x31 decodeMaj31 := ⟨by decide, rfl, fun w h => by rw [decodeMaj, h]; rfl⟩
theorem major32 : MajorOf 0x32 decodeMaj32 := ⟨by decide, rfl, fun w h => by rw [decodeMaj, h]; rfl⟩

/-! ### The words of each family -/

/-- The words of MAJ 0x18, 0x1A, 0x1B and 0x1C (R115 to R118). -/
theorem vectorIntegerEncodings : Claim.VectorIntegerEncodings := by
  intro d a b u word reads
  refine ⟨major18.reads ?_ rfl, major18.reads ?_ rfl, major18.reads ?_ rfl, major18.reads ?_ rfl, major18.reads ?_ rfl,
    major18.reads ?_ rfl, major18.reads ?_ rfl, major18.reads ?_ rfl, major1A.reads ?_ rfl, major1A.reads ?_ rfl,
    major1A.reads ?_ rfl, major1A.reads ?_ rfl, major1A.reads ?_ rfl, major1A.reads ?_ rfl, major1A.reads ?_ rfl,
    major1B.reads ?_ rfl, major1B.reads ?_ rfl, major1B.reads ?_ rfl, major1B.reads ?_ rfl, major1C.reads ?_ rfl,
    major1C.reads ?_ rfl, major1C.reads ?_ rfl, major1C.reads ?_ rfl, major1C.reads ?_ rfl, major1C.reads ?_ rfl,
    fun hb => ⟨major1B.reads ?_ rfl, major1B.reads ?_ rfl, major1B.reads ?_ rfl⟩,
    fun hb => ⟨major1B.refuses ?_, major1B.refuses ?_, major1B.refuses ?_⟩, fun hb => major1C.reads ?_ rfl,
    fun hb => major1C.refuses ?_, List.forall_mem_cons.mpr ⟨major1A.refuses ?_, List.forall_mem_cons.mpr ⟨major1B.refuses ?_,
      List.forall_mem_singleton.mpr (major1C.refuses ?_)⟩⟩⟩
  all_goals simp [decodeMaj18, decodeMaj1A, decodeMaj1B, decodeMaj1C, whenZero, *]

/-- The words of MAJ 0x1D, 0x1E and 0x19 (R119 to R121). -/
theorem vectorShiftEncodings : Claim.VectorShiftEncodings := by
  intro d a b u word reads
  refine ⟨major1D.reads ?_ rfl, major1D.reads ?_ rfl, major1D.reads ?_ rfl, major1D.reads ?_ rfl, major1D.reads ?_ rfl,
    major1D.reads ?_ rfl, major1D.reads ?_ rfl, major1E.reads ?_ rfl, major1E.reads ?_ rfl, major1E.reads ?_ rfl,
    major1E.reads ?_ rfl, major19.reads ?_ rfl, major19.reads ?_ rfl, major19.reads ?_ rfl, major19.reads ?_ rfl,
    major19.reads ?_ rfl, major19.reads ?_ rfl, major19.reads ?_ rfl,
    fun hb => ⟨major1E.reads ?_ rfl, major1E.reads ?_ rfl, major1E.reads ?_ rfl, major1E.reads ?_ rfl⟩,
    fun hb => ⟨major1E.refuses ?_, major1E.refuses ?_, major1E.refuses ?_, major1E.refuses ?_⟩,
    List.forall_mem_cons.mpr ⟨major19.refuses ?_, List.forall_mem_singleton.mpr (major1D.refuses ?_)⟩⟩
  all_goals simp [decodeMaj1D, decodeMaj1E, decodeMaj19, whenZero, *]

theorem setWidth_three_append (q : BitVec 3) : ((0#4 ++ q : BitVec 7)).setWidth 3 = q := BitVec.setWidth_append_eq_right

theorem toNat_zero_append_lt (q : BitVec 3) : (0#4 ++ q : BitVec 7).toNat < 8 := by
  rw [BitVec.toNat_append]
  simpa using q.isLt

/-- The words of ISETP, SSETQ and SEL (R122, R123). -/
theorem comparisonEncodings : Claim.ComparisonEncodings := by
  intro d a b u word reads
  refine ⟨fun k => major20.reads ?_ rfl, fun q k hd => ⟨major1F.reads ?_ rfl, fun hu => major32.reads ?_ rfl⟩,
    fun k hd => ⟨major1F.refuses ?_, major32.refuses ?_⟩, fun k hu => major32.refuses ?_⟩
  all_goals simp [decodeMaj20, decodeMaj1F, decodeMaj32, whenZero, setWidth_three_append, toNat_zero_append_lt, *]

section
variable {maj d a b : BitVec 7} {u : BitVec 1} {m : BitVec 3}

theorem sub_cases (m : BitVec 3) : m = 0 ∨ m = 1 ∨ m = 2 ∨ m = 3 ∨ m = 4 ∨ m = 5 ∨ m = 6 ∨ m = 7 := by
  revert m
  decide

/-- Every sub-code of the uniform families needs M[3] zero. -/
theorem decodeMaj30_broadcast (hu : u = 1#1) : decodeMaj30 (laneWord maj d a b u m) = .error .reserved := by
  rcases sub_cases m with rfl | rfl | rfl | rfl | rfl | rfl | rfl | rfl <;> simp [decodeMaj30, whenZero, hu]

theorem decodeMaj31_broadcast (hu : u = 1#1) : decodeMaj31 (laneWord maj d a b u m) = .error .reserved := by
  rcases sub_cases m with rfl | rfl | rfl | rfl | rfl | rfl | rfl | rfl <;> simp [decodeMaj31, whenZero, hu]

end

/-- The words of MAJ 0x30 and 0x31 (R129). -/
theorem uniformEncodings : Claim.UniformEncodings := by
  intro d a b u word reads
  refine ⟨fun hu => ⟨major30.reads ?_ rfl, major30.reads ?_ rfl, major30.reads ?_ rfl, major30.reads ?_ rfl, major30.reads ?_ rfl,
    major30.reads ?_ rfl, major30.reads ?_ rfl, major30.reads ?_ rfl, major31.reads ?_ rfl, major31.reads ?_ rfl,
    major31.reads ?_ rfl, major31.reads ?_ rfl, major31.reads ?_ rfl, major31.reads ?_ rfl, major31.reads ?_ rfl,
    fun hb => major31.reads ?_ rfl, fun hb => major31.refuses ?_⟩, fun hu m => ⟨major30.refuses ?_, major31.refuses ?_⟩⟩
  case refine_18 => exact decodeMaj30_broadcast hu
  case refine_19 => exact decodeMaj31_broadcast hu
  all_goals simp [decodeMaj30, decodeMaj31, whenZero, *]

/-! ## The arithmetic of the words

Each function of the model, which computes on numbers, as an operation on bit vectors. -/

/-! ### Numbers as words (R8, R114) -/

theorem w32_natCast (n : Nat) : w32 n = BitVec.ofNat 32 n := BitVec.ofInt_natCast 32 n

theorem w32_sx (x : Word) : w32 (sx x) = x := BitVec.ofInt_toInt

theorem w32_sub (i j : Int) : w32 (i - j) = w32 i - w32 j := by
  unfold w32
  rw [Int.sub_eq_add_neg, BitVec.ofInt_add, BitVec.ofInt_neg, BitVec.sub_eq_add_neg]

theorem w32_add (i j : Int) : w32 (i + j) = w32 i + w32 j := BitVec.ofInt_add i j
theorem w32_mul (i j : Int) : w32 (i * j) = w32 i * w32 j := BitVec.ofInt_mul i j

/-- Narrowing a word keeps the integer it stands for, modulo its new width. -/
theorem setWidth_eq_ofInt {v w : Nat} (x : BitVec v) (h : w ≤ v) : x.setWidth w = BitVec.ofInt w x.toInt := by
  apply BitVec.eq_of_toInt_eq
  rw [BitVec.toInt_setWidth, BitVec.toInt_ofInt, BitVec.toInt_eq_toNat_bmod,
    Int.bmod_bmod_of_dvd (Nat.pow_dvd_pow 2 h)]

theorem sxNat_eq {n : Nat} (x : Nat) (h : 0 < n) : sxNat n x = (BitVec.ofNat n x).toInt := by
  obtain ⟨m, rfl⟩ := Nat.exists_eq_add_of_lt h
  unfold sxNat
  rw [BitVec.toInt_eq_toNat_cond, BitVec.toNat_ofNat]
  simp only [Nat.zero_add, Nat.add_sub_cancel, Nat.pow_succ, Nat.mul_comm (2 ^ m) 2]
  simp

theorem w32_sxNat {n : Nat} (x : Nat) (h : 0 < n) : w32 (sxNat n x) = (BitVec.ofNat n x).signExtend 32 := by
  rw [sxNat_eq x h]; rfl

/-! ### Add and subtract (R115) -/

theorem satS_eq (v : Int) : satS v = BitVec.ofInt 32 (max (-2147483648) (min 2147483647 v)) := by
  unfold satS w32
  congr 1
  omega

theorem satZ_add (x y : Word) :
    satZ (zx x + zx y) = if x.toNat + y.toNat < 4294967296 then x + y else 0xFFFFFFFF#32 := by
  unfold satZ zx
  split
  · have e : min (max ((x.toNat : Int) + y.toNat) 0) (2 ^ 32 - 1) = ((x.toNat + y.toNat : Nat) : Int) := by omega
    rw [e, w32_natCast, BitVec.ofNat_add, BitVec.ofNat_toNat, BitVec.ofNat_toNat]
    simp
  · have e : min (max ((x.toNat : Int) + y.toNat) 0) (2 ^ 32 - 1) = (0xFFFFFFFF : Nat) := by omega
    rw [e, w32_natCast]

theorem satZ_sub (x y : Word) : satZ (zx x - zx y) = if y.toNat ≤ x.toNat then x - y else 0#32 := by
  unfold satZ zx
  split
  · have e : min (max ((x.toNat : Int) - y.toNat) 0) (2 ^ 32 - 1) = (x.toNat : Int) - (y.toNat : Int) := by omega
    rw [e, w32_sub, w32_natCast, w32_natCast]
    simp
  · have e : min (max ((x.toNat : Int) - y.toNat) 0) (2 ^ 32 - 1) = (0 : Nat) := by omega
    rw [e, w32_natCast]

theorem iabsdW_eq (x y : Word) : iabsdW x y = if y.toInt ≤ x.toInt then x - y else y - x := by
  unfold iabsdW
  split
  · have e : ((sx x - sx y).natAbs : Int) = sx x - sx y := by unfold sx; omega
    rw [e, w32_sub, w32_sx, w32_sx]
  · have e : ((sx x - sx y).natAbs : Int) = sx y - sx x := by unfold sx; omega
    rw [e, w32_sub, w32_sx, w32_sx]

theorem iabsW_eq (x : Word) : iabsW x = if x.toInt < 0 then -x else x := by
  unfold iabsW
  split
  · have e : ((sx x).natAbs : Int) = -sx x := by unfold sx; omega
    rw [e]
    exact BitVec.ofInt_neg.trans (congrArg _ BitVec.ofInt_toInt)
  · have e : ((sx x).natAbs : Int) = sx x := by unfold sx; omega
    rw [e, w32_sx]

theorem iavgW_eq (x y : Word) :
    iavgW x y = ((x.signExtend 33 + y.signExtend 33 + 1#33).sshiftRight 1).setWidth 32 := by
  have hx := x.toInt_lt
  have hx' := x.le_toInt
  have hy := y.toInt_lt
  have hy' := y.le_toInt
  have sum : (x.signExtend 33 + y.signExtend 33 + 1#33).toInt = sx x + sx y + 1 := by
    show (BitVec.ofInt 33 x.toInt + BitVec.ofInt 33 y.toInt + BitVec.ofInt 33 1).toInt = _
    rw [← BitVec.ofInt_add, ← BitVec.ofInt_add, BitVec.toInt_ofInt]
    exact Int.bmod_eq_of_le (by omega) (by omega)
  rw [setWidth_eq_ofInt _ (by decide), BitVec.toInt_sshiftRight, sum, Int.shiftRight_eq_div_pow]
  rfl

/-! ### Multiplication (R116) -/

theorem imulhSW_eq (x y : Word) :
    imulhSW x y = ((x.signExtend 64 * y.signExtend 64) >>> 32).setWidth 32 := by
  have e : x.signExtend 64 * y.signExtend 64 = BitVec.ofInt 64 (sx x * sx y) := (BitVec.ofInt_mul _ _).symm
  rw [e]
  unfold imulhSW w32
  generalize sx x * sx y = p
  apply BitVec.eq_of_toNat_eq
  simp only [BitVec.toNat_ofInt, BitVec.toNat_setWidth, BitVec.toNat_ushiftRight, Nat.shiftRight_eq_div_pow]
  omega

theorem imulhZW_eq (x y : Word) :
    imulhZW x y = ((x.setWidth 64 * y.setWidth 64) >>> 32).setWidth 32 := by
  have e : x.setWidth 64 * y.setWidth 64 = BitVec.ofNat 64 (x.toNat * y.toNat) := by
    rw [BitVec.ofNat_mul, BitVec.ofNat_toNat, BitVec.ofNat_toNat]
  rw [e]
  unfold imulhZW zx w32
  rw [← Int.natCast_mul]
  generalize x.toNat * y.toNat = p
  apply BitVec.eq_of_toNat_eq
  simp only [BitVec.toNat_ofInt, BitVec.toNat_setWidth, BitVec.toNat_ushiftRight, Nat.shiftRight_eq_div_pow, BitVec.toNat_ofNat]
  omega

theorem ofNat_bits {x : Word} (lo len : Nat) : BitVec.ofNat len (bits x.toNat lo len) = x.extractLsb' lo len := by
  apply BitVec.eq_of_toNat_eq
  rw [BitVec.toNat_ofNat, BitVec.extractLsb'_toNat, Nat.shiftRight_eq_div_pow]
  exact Nat.mod_mod _ _

/-- Byte or half `i` of a word, extended to a word. -/
def byteS (x : Word) (i : Nat) : Word := (x.extractLsb' (8 * i) 8).signExtend 32
def byteZ (x : Word) (i : Nat) : Word := (x.extractLsb' (8 * i) 8).setWidth 32
def halfS (x : Word) (i : Nat) : Word := (x.extractLsb' (16 * i) 16).signExtend 32

theorem w32_byteS (x : Word) (i : Nat) : w32 (sxNat 8 (byteOf x i)) = byteS x i := by
  rw [w32_sxNat _ (by decide), byteOf, ofNat_bits, byteS]

theorem w32_halfS (x : Word) (i : Nat) : w32 (sxNat 16 (halfOf x i)) = halfS x i := by
  rw [w32_sxNat _ (by decide), halfOf, ofNat_bits, halfS]

theorem ofNat_byteZ (x : Word) (i : Nat) : BitVec.ofNat 32 (byteOf x i) = byteZ x i := by
  rw [byteZ, ← ofNat_bits]
  exact (BitVec.setWidth_ofNat_of_le_of_lt (by decide) (Nat.mod_lt _ (by decide))).symm

theorem w32_zx (x : Word) : w32 (zx x) = x := by simp [zx, w32_natCast]

/-- A sum of products, as words: the dot products of R116 wrap term by term. -/
theorem w32_sum (z : Word) (f : Nat → Int) (n : Nat) :
    w32 (zx z + ((List.range n).map f).sum) = (List.range n).foldl (fun w i => w + w32 (f i)) z := by
  induction n with
  | zero => simp [w32_zx]
  | succ n ih => simp [List.range_succ, ← Int.add_assoc, w32_add _ (f n), ih]

theorem idot4SW_eq (x y z : Word) :
    idot4SW x y z = z + byteS x 0 * byteS y 0 + byteS x 1 * byteS y 1 + byteS x 2 * byteS y 2 + byteS x 3 * byteS y 3 := by
  simp only [idot4SW, w32_sum, w32_mul, w32_byteS]
  rfl

theorem idot4ZW_eq (x y z : Word) :
    idot4ZW x y z = z + byteZ x 0 * byteZ y 0 + byteZ x 1 * byteZ y 1 + byteZ x 2 * byteZ y 2 + byteZ x 3 * byteZ y 3 := by
  simp only [idot4ZW, w32_sum, w32_natCast, BitVec.ofNat_mul, ofNat_byteZ]
  rfl

theorem idot2W_eq (x y z : Word) : idot2W x y z = z + halfS x 0 * halfS y 0 + halfS x 1 * halfS y 1 := by
  simp only [idot2W, w32_sum, w32_mul, w32_halfS]
  rfl

/-! ### Minimum, maximum, sign and comparison (R117, R122) -/

theorem ite_of_iff {p q : Prop} [Decidable p] [Decidable q] (h : p ↔ q) {x y : Word} :
    (if p then x else y) = if q then x else y :=
  ite_congr (propext h) (fun _ => rfl) fun _ => rfl

theorem iminSW_eq (x y : Word) : iminSW x y = if x.sle y then x else y := ite_of_iff BitVec.sle_iff_toInt_le.symm
theorem imaxSW_eq (x y : Word) : imaxSW x y = if y.sle x then x else y := ite_of_iff BitVec.sle_iff_toInt_le.symm
theorem iminZW_eq (x y : Word) : iminZW x y = if x ≤ y then x else y := ite_of_iff Int.ofNat_le
theorem imaxZW_eq (x y : Word) : imaxZW x y = if y ≤ x then x else y := ite_of_iff Int.ofNat_le

theorem isgnW_eq (x : Word) : isgnW x = if x.msb then 0xFFFFFFFF#32 else if x = 0#32 then 0#32 else 1#32 := by
  have negative : sx x < 0 ↔ x.msb = true := by rw [BitVec.msb_eq_toInt, decide_eq_true_eq, sx]
  have zero : sx x = 0 ↔ x = 0#32 := by rw [sx, ← BitVec.toInt_inj, BitVec.toInt_zero]
  exact ite_congr (propext negative) (fun _ => rfl) fun _ => ite_of_iff zero

/-- The eight integer conditions as comparisons of words (R122). -/
def condHolds (i : Nat) (x y : Word) : Bool :=
  match i with
  | 0 => decide (x = y)
  | 1 => decide (x ≠ y)
  | 2 => x.slt y
  | 3 => x.sle y
  | 4 => y.slt x
  | 5 => y.sle x
  | 6 => x.ult y
  | _ => y.ule x

theorem intCond_eq (c : BitVec 3) (x y : Word) : intCond c x y = condHolds c.toNat x y := by
  unfold intCond condHolds
  generalize c.toNat = i
  match i with
  | 0 | 2 | 3 | 4 | 5 | 6 | _ + 7 => rfl
  | 1 => exact decide_not.symm

/-! ### Shifts (R119, R121) -/

section
variable {w : Nat} (x : BitVec w) (n : Nat)

theorem ofNat_mul_two_pow : BitVec.ofNat w (x.toNat * 2 ^ n) = x <<< n := by
  apply BitVec.eq_of_toNat_eq
  rw [BitVec.toNat_ofNat, BitVec.toNat_shiftLeft, Nat.shiftLeft_eq]

theorem ofNat_div_two_pow : BitVec.ofNat w (x.toNat / 2 ^ n) = x >>> n := by
  apply BitVec.eq_of_toNat_eq
  rw [BitVec.toNat_ofNat, BitVec.toNat_ushiftRight, Nat.shiftRight_eq_div_pow,
    Nat.mod_eq_of_lt (Nat.lt_of_le_of_lt (Nat.div_le_self _ _) x.isLt)]

theorem ite_eq_shiftLeft : (if w ≤ n then 0#w else BitVec.ofNat w (x.toNat * 2 ^ n)) = x <<< n := by
  split
  · next h => rw [BitVec.shiftLeft_eq_zero h]
  · exact ofNat_mul_two_pow x n

theorem ite_eq_ushiftRight : (if w ≤ n then 0#w else BitVec.ofNat w (x.toNat / 2 ^ n)) = x >>> n := by
  split
  · next h => rw [BitVec.ushiftRight_eq_zero h]
  · exact ofNat_div_two_pow x n

theorem natCast_two_pow (k : Nat) : ((2 ^ k : Nat) : Int) = 2 ^ k := Int.natCast_pow 2 k

/-- What counts of the width and more leave of a signed word: its sign. -/
theorem div_two_pow_of_width_le {n : Nat} (h : w ≤ n) : x.toInt / 2 ^ n = if x.toInt < 0 then -1 else 0 := by
  have hn : (2 : Int) ^ w ≤ 2 ^ n := by
    rw [← natCast_two_pow, ← natCast_two_pow]
    exact Int.ofNat_le.mpr (Nat.pow_le_pow_right (by decide) h)
  have lt := x.two_mul_toInt_lt
  have ge := x.le_two_mul_toInt
  split
  · exact Int.ediv_eq_neg_one_of_neg_of_le (by omega) (by omega)
  · exact Int.ediv_eq_zero_of_lt (by omega) (by omega)

theorem sshiftRight_eq_ofInt : BitVec.ofInt w (x.toInt / 2 ^ min n w) = x.sshiftRight n := by
  rw [BitVec.sshiftRight_eq, Int.shiftRight_eq_div_pow, natCast_two_pow]
  rcases Nat.le_total n w with h | h
  · rw [Nat.min_eq_left h]
  · rw [Nat.min_eq_right h, div_two_pow_of_width_le x h, div_two_pow_of_width_le x (Nat.le_refl w)]

end

theorem shlW_eq (x y : Word) : shlW x y = x <<< y.toNat := ite_eq_shiftLeft x _
theorem shrW_eq (x y : Word) : shrW x y = x >>> y.toNat := ite_eq_ushiftRight x _
theorem sarW_eq (x y : Word) : sarW x y = x.sshiftRight y.toNat := sshiftRight_eq_ofInt x _
theorem shl64W_eq (x : DWord) (y : Word) : shl64W x y = x <<< y.toNat := ite_eq_shiftLeft x _
theorem shr64W_eq (x : DWord) (y : Word) : shr64W x y = x >>> y.toNat := ite_eq_ushiftRight x _
theorem sar64W_eq (x : DWord) (y : Word) : sar64W x y = x.sshiftRight y.toNat := sshiftRight_eq_ofInt x _

/-- A rotation as the sum of its two parts, which share no bit. -/
theorem ofNat_rotate_parts (x : Word) {n : Nat} (h : n ≤ 32) :
    BitVec.ofNat 32 (x.toNat * 2 ^ n + x.toNat / 2 ^ (32 - n)) = x <<< n ||| x >>> (32 - n) := by
  have disjoint : x <<< n &&& x >>> (32 - n) = 0#32 := by
    apply BitVec.eq_of_getLsbD_eq
    intro i hi
    rw [BitVec.getLsbD_and, BitVec.getLsbD_shiftLeft, BitVec.getLsbD_ushiftRight]
    by_cases low : i < n
    · simp [low]
    · rw [BitVec.getLsbD_of_ge x (32 - n + i) (by omega), Bool.and_false, BitVec.getLsbD_zero]
  rw [BitVec.ofNat_add, ofNat_mul_two_pow, ofNat_div_two_pow, BitVec.add_eq_or_of_and_eq_zero _ _ disjoint]

theorem rolW_eq (x y : Word) : rolW x y = x.rotateLeft (y.toNat % 32) := by
  rw [BitVec.rotateLeft_def, Nat.mod_mod]
  exact ofNat_rotate_parts x (by omega)

theorem rorW_eq (x y : Word) : rorW x y = x.rotateRight (y.toNat % 32) := by
  have e : 32 - (32 - y.toNat % 32) = y.toNat % 32 := by omega
  rw [BitVec.rotateRight_def, Nat.mod_mod, BitVec.or_comm, rorW]
  simpa only [e, Nat.add_comm] using ofNat_rotate_parts x (Nat.sub_le 32 (y.toNat % 32))

theorem toNat_append_words (x y : Word) : (x ++ y).toNat = x.toNat * 2 ^ 32 + y.toNat := by
  rw [BitVec.toNat_append, ← Nat.shiftLeft_add_eq_or_of_lt y.isLt, Nat.shiftLeft_eq]

theorem fshlW_eq (x y z : Word) : fshlW x y z = ((x ++ y) <<< (z.toNat % 32)).extractLsb' 32 32 := by
  apply BitVec.eq_of_toNat_eq
  rw [BitVec.extractLsb'_toNat, BitVec.toNat_shiftLeft, toNat_append_words, Nat.shiftLeft_eq, Nat.shiftRight_eq_div_pow, fshlW,
    BitVec.toNat_ofNat]
  generalize (x.toNat * 2 ^ 32 + y.toNat) * 2 ^ (z.toNat % 32) = n
  omega

theorem fshrW_eq (x y z : Word) : fshrW x y z = ((x ++ y) >>> (z.toNat % 32)).extractLsb' 0 32 := by
  apply BitVec.eq_of_toNat_eq
  rw [BitVec.extractLsb'_toNat, BitVec.toNat_ushiftRight, toNat_append_words, Nat.shiftRight_zero,
    Nat.shiftRight_eq_div_pow, fshrW, BitVec.toNat_ofNat]

/-! ### Counts and reversal (R120) -/

theorem popcountN_eq (n x : Nat) : popcountN n x = (List.range n).countP fun i => x.testBit i := by
  induction n generalizing x with
  | zero => rfl
  | succ n ih =>
    have step : ((fun i => x.testBit i) ∘ Nat.succ) = fun i => (x / 2).testBit i := funext fun i => Nat.testBit_succ x i
    rw [popcountN, ih, List.range_succ_eq_map, List.countP_cons, List.countP_map, step, Nat.testBit_zero, Nat.add_comm]
    rcases Nat.mod_two_eq_zero_or_one x with h | h <;> simp [h]

theorem clzN_eq (n x : Nat) : clzN n x = ((List.range n).takeWhile fun i => !x.testBit (n - 1 - i)).length := by
  induction n with
  | zero => rfl
  | succ n ih =>
    have step : ((fun i => !x.testBit (n + 1 - 1 - i)) ∘ Nat.succ) = fun i => !x.testBit (n - 1 - i) :=
      funext fun i => by simp [Nat.sub_sub, Nat.add_comm]
    rw [clzN, ih, List.range_succ_eq_map, List.takeWhile_cons, List.takeWhile_map, step, Nat.testBit_eq_decide_div_mod_eq]
    rcases Nat.mod_two_eq_zero_or_one (x / 2 ^ n) with h | h <;> simp [h, Nat.add_comm]

theorem ctzN_eq (n x : Nat) : ctzN n x = ((List.range n).takeWhile fun i => !x.testBit i).length := by
  induction n generalizing x with
  | zero => rfl
  | succ n ih =>
    have step : ((fun i => !x.testBit i) ∘ Nat.succ) = fun i => !(x / 2).testBit i :=
      funext fun i => congrArg _ (Nat.testBit_succ x i)
    rw [ctzN, ih, List.range_succ_eq_map, List.takeWhile_cons, List.takeWhile_map, step, Nat.testBit_zero]
    rcases Nat.mod_two_eq_zero_or_one x with h | h <;> simp [h, Nat.add_comm]

theorem brevN_lt (n x : Nat) : brevN n x < 2 ^ n := by
  induction n generalizing x with
  | zero => simp [brevN]
  | succ n ih =>
    have rest := ih (x / 2)
    rw [brevN, Nat.pow_succ]
    rcases Nat.mod_two_eq_zero_or_one x with h | h <;> rw [h] <;> omega

theorem testBit_brevN (n x i : Nat) : (brevN n x).testBit i = (decide (i < n) && x.testBit (n - 1 - i)) := by
  induction n generalizing x with
  | zero => simp [brevN]
  | succ n ih =>
    rw [brevN, Nat.mul_comm, Nat.testBit_two_pow_mul_add _ (brevN_lt n _), ih]
    rcases Nat.lt_trichotomy i n with h | h | h
    · rw [if_pos h, ← Nat.testBit_succ, show (n - 1 - i).succ = n + 1 - 1 - i by omega]
      simp [h, Nat.lt_succ_of_lt h]
    · subst h
      simp [Nat.testBit_zero]
    · have small : x % 2 < 2 ^ (i - n) :=
        calc x % 2 < 2 ^ 1 := Nat.mod_lt _ (by decide)
          _ ≤ 2 ^ (i - n) := Nat.pow_le_pow_right (by decide) (by omega)
      rw [if_neg (by omega), Nat.testBit_lt_two_pow small, decide_eq_false (by omega), Bool.false_and]

theorem popcW_eq (x : Word) : popcW x = BitVec.ofNat 32 ((List.range 32).countP fun i => x.getLsbD i) := by
  rw [popcW, popcount, popcountN_eq]
  rfl

theorem clzW_eq (x : Word) :
    clzW x = BitVec.ofNat 32 (((List.range 32).takeWhile fun i => !x.getLsbD (31 - i)).length) := by
  rw [clzW, clzN_eq]
  rfl

theorem ctzW_eq (x : Word) : ctzW x = BitVec.ofNat 32 (((List.range 32).takeWhile fun i => !x.getLsbD i).length) := by
  rw [ctzW, ctzN_eq]
  rfl

theorem brevW_eq (x : Word) : brevW x = x.reverse := by
  apply BitVec.eq_of_getLsbD_eq
  intro i hi
  rw [brevW, BitVec.getLsbD_ofNat, testBit_brevN, BitVec.getLsbD_reverse, BitVec.getMsbD, BitVec.testBit_toNat,
    ← Bool.and_assoc, Bool.and_self]

/-! ### Bit fields (R120) -/

/-- The bits of a word that a control word names (R120). -/
def fieldMask (y : Word) : Word := BitVec.ofNat 32 ((2 ^ fieldLen y - 1) * 2 ^ fieldPos y)

theorem fieldPos_eq (y : Word) : fieldPos y = y.toNat % 32 := by simp [fieldPos, bits]

theorem fieldLen_eq (y : Word) : fieldLen y = min (y.toNat / 256 % 64) (32 - y.toNat % 32) := by
  rw [fieldLen, fieldPos_eq]
  show min (min (y.toNat / 256 % 64) 32) (32 - y.toNat % 32) = _
  omega

theorem fieldLen_add_fieldPos (y : Word) : fieldLen y + fieldPos y ≤ 32 := by
  rw [fieldLen_eq, fieldPos_eq]
  omega

theorem getLsbD_fieldMask (y : Word) (i : Nat) :
    (fieldMask y).getLsbD i = decide (fieldPos y ≤ i ∧ i < fieldPos y + fieldLen y) := by
  have h := fieldLen_add_fieldPos y
  rw [fieldMask, BitVec.getLsbD_ofNat, Nat.testBit_mul_two_pow, Nat.testBit_two_pow_sub_one, ← Bool.decide_and,
    ← Bool.decide_and, decide_eq_decide]
  omega

theorem testBit_bits (x lo len i : Nat) : (bits x lo len).testBit i = (decide (i < len) && x.testBit (lo + i)) := by
  rw [bits, Nat.testBit_mod_two_pow, Nat.testBit_div_two_pow, Nat.add_comm]

/-- A number's low bits moved to the field, where they are the field of `x`. -/
theorem ofNat_mul_eq_and_fieldMask {n : Nat} {x y : Word} (h : ∀ i, i < fieldLen y → n.testBit i = x.getLsbD (fieldPos y + i)) :
    BitVec.ofNat 32 (n % 2 ^ fieldLen y * 2 ^ fieldPos y) = x &&& fieldMask y := by
  apply BitVec.eq_of_getLsbD_eq
  intro i hi
  rw [BitVec.getLsbD_ofNat, Nat.testBit_mul_two_pow, Nat.testBit_mod_two_pow, BitVec.getLsbD_and, getLsbD_fieldMask]
  by_cases inside : fieldPos y ≤ i ∧ i < fieldPos y + fieldLen y
  · have short : i - fieldPos y < fieldLen y := by omega
    rw [h _ short, Nat.add_sub_cancel' inside.1]
    simp [hi, inside, short]
  · rw [decide_eq_false inside, Bool.and_false]
    by_cases above : fieldPos y ≤ i
    · rw [decide_eq_false (show ¬ i - fieldPos y < fieldLen y by omega), Bool.false_and, Bool.and_false, Bool.and_false]
    · rw [decide_eq_false above, Bool.false_and, Bool.and_false]

theorem ofNat_bits_mul (x y : Word) :
    BitVec.ofNat 32 (bits x.toNat (fieldPos y) (fieldLen y) * 2 ^ fieldPos y) = x &&& fieldMask y :=
  ofNat_mul_eq_and_fieldMask fun i _ => by rw [Nat.testBit_div_two_pow, BitVec.testBit_toNat, Nat.add_comm]

theorem ofNat_low_bits_mul (x y : Word) :
    BitVec.ofNat 32 (bits x.toNat 0 (fieldLen y) * 2 ^ fieldPos y) = x <<< fieldPos y &&& fieldMask y :=
  ofNat_mul_eq_and_fieldMask fun i hi => by
    have h := fieldLen_add_fieldPos y
    rw [Nat.testBit_div_two_pow, BitVec.testBit_toNat, BitVec.getLsbD_shiftLeft, Nat.add_sub_cancel_left]
    simp [show fieldPos y + i < 32 by omega]

theorem bfeZW_eq (x y : Word) : bfeZW x y = (x &&& fieldMask y) >>> fieldPos y := by
  apply BitVec.eq_of_getLsbD_eq
  intro i hi
  rw [bfeZW, BitVec.getLsbD_ofNat, testBit_bits, BitVec.getLsbD_ushiftRight, BitVec.getLsbD_and, getLsbD_fieldMask,
    BitVec.testBit_toNat]
  simp [hi, Bool.and_comm]

theorem msb_extractLsb' (x : Word) {pos len : Nat} (h : 0 < len) : (x.extractLsb' pos len).msb = x.getLsbD (pos + (len - 1)) := by
  rw [BitVec.msb_eq_getLsbD_last, BitVec.getLsbD_extractLsb', decide_eq_true (by omega), Bool.true_and]

/-- A field moved to the top of the word and back down keeps its sign. -/
theorem signExtend_extractLsb' (x : Word) {pos len : Nat} (h : pos + len ≤ 32) (hl : 0 < len) :
    (x.extractLsb' pos len).signExtend 32 = (x <<< (32 - pos - len)).sshiftRight (32 - len) := by
  have msb : (x <<< (32 - pos - len)).msb = x.getLsbD (pos + (len - 1)) := by
    rw [BitVec.msb_eq_getLsbD_last, BitVec.getLsbD_shiftLeft, show 32 - 1 - (32 - pos - len) = pos + (len - 1) by omega]
    simp [show ¬ 32 - 1 < 32 - pos - len by omega]
  apply BitVec.eq_of_getLsbD_eq
  intro i hi
  rw [BitVec.getLsbD_signExtend, BitVec.getLsbD_sshiftRight, msb, msb_extractLsb' x hl]
  by_cases hil : i < len
  · rw [if_pos hil, if_pos (by omega), BitVec.getLsbD_shiftLeft, BitVec.getLsbD_extractLsb',
      show 32 - len + i - (32 - pos - len) = pos + i by omega]
    simp [hi, hil, show 32 - len + i < 32 by omega, show ¬ 32 - len + i < 32 - pos - len by omega]
  · rw [if_neg hil, if_neg (by omega)]
    simp [hi]

theorem bfeSW_eq (x y : Word) : bfeSW x y =
    if fieldLen y = 0 then 0#32 else (x <<< (32 - fieldPos y - fieldLen y)).sshiftRight (32 - fieldLen y) := by
  have h := fieldLen_add_fieldPos y
  unfold bfeSW
  split
  · rfl
  · rw [w32_sxNat _ (by omega), ofNat_bits, signExtend_extractLsb' x (by omega) (by omega)]

/-- Bits outside a mask and bits inside it share none. -/
theorem and_not_and_and (x y m : Word) : (x &&& ~~~m) &&& (y &&& m) = 0#32 := by
  ext i hi
  cases h : m[i] <;> simp [h]

theorem and_not_eq_sub (x m : Word) : x &&& ~~~m = x - (x &&& m) := by
  have sum : (x &&& ~~~m) + (x &&& m) = x := by
    rw [BitVec.add_eq_or_of_and_eq_zero _ _ (and_not_and_and x x m)]
    ext i hi
    cases h : m[i] <;> simp [h]
  exact BitVec.eq_sub_iff_add_eq.mpr sum

theorem bfiW_eq (x y z : Word) : bfiW x y z = (z &&& ~~~(fieldMask y)) ||| ((x <<< fieldPos y) &&& fieldMask y) := by
  have field : bits z.toNat (fieldPos y) (fieldLen y) * 2 ^ fieldPos y ≤ z.toNat :=
    calc _ ≤ z.toNat / 2 ^ fieldPos y * 2 ^ fieldPos y := Nat.mul_le_mul_right _ (Nat.mod_le _ _)
      _ ≤ z.toNat := Nat.div_mul_le_self _ _
  rw [bfiW, BitVec.ofNat_add, ← BitVec.ofNat_sub_ofNat_of_le _ _ (Nat.lt_of_le_of_lt field z.isLt) field, BitVec.ofNat_toNat,
    BitVec.setWidth_eq, ofNat_bits_mul, ofNat_low_bits_mul, ← and_not_eq_sub,
    BitVec.add_eq_or_of_and_eq_zero _ _ (and_not_and_and _ _ _)]

/-- The byte that selector `i` of a control word takes: one of the eight bytes of `z` above `x`, or 0 (R120). -/
def selected (y x z : Word) (i : Nat) : Byte :=
  let k := y.toNat / 16 ^ i % 16
  if 8 ≤ k then 0#8 else ((z ++ x) >>> (8 * k)).setWidth 8

theorem toNat_selected (y x z : Word) (i : Nat) : (selected y x z i).toNat =
    if 8 ≤ bits y.toNat (4 * i) 4 then 0 else bits (z.toNat * 2 ^ 32 + x.toNat) (8 * bits y.toNat (4 * i) 4) 8 := by
  have e : bits y.toNat (4 * i) 4 = y.toNat / 16 ^ i % 16 := 
    congrArg (fun k => y.toNat / k % 16) (Nat.pow_mul 2 4 i)
  rw [e, selected]
  split
  · rfl
  · rw [BitVec.toNat_setWidth, BitVec.toNat_ushiftRight, toNat_append_words, Nat.shiftRight_eq_div_pow, bits]

theorem toNat_append_bytes (a b c d : Byte) :
    (a ++ b ++ c ++ d).toNat = a.toNat * 2 ^ 24 + b.toNat * 2 ^ 16 + c.toNat * 2 ^ 8 + d.toNat := by
  simp only [BitVec.toNat_append]
  rw [← Nat.shiftLeft_add_eq_or_of_lt b.isLt, ← Nat.shiftLeft_add_eq_or_of_lt c.isLt, ← Nat.shiftLeft_add_eq_or_of_lt d.isLt]
  simp only [Nat.shiftLeft_eq]
  omega

theorem sum_map_range_four (g : Nat → Nat) : ((List.range 4).map g).sum = g 0 + (g 1 + (g 2 + g 3)) := by
  simp [List.range_succ]

/-- A word summed from its bytes, each at its place. -/
theorem ofNat_sum_bytes (f : Nat → Byte) :
    BitVec.ofNat 32 ((List.range 4).map fun i => (f i).toNat * 2 ^ (8 * i)).sum = f 3 ++ f 2 ++ f 1 ++ f 0 := by
  apply BitVec.eq_of_toNat_eq
  rw [sum_map_range_four, toNat_append_bytes, BitVec.toNat_ofNat]
  omega

theorem prmtW_eq (x y z : Word) :
    prmtW x y z = selected y x z 3 ++ selected y x z 2 ++ selected y x z 1 ++ selected y x z 0 := by
  rw [← ofNat_sum_bytes]
  simp only [prmtW, toNat_selected]

/-! ### Full products (R121) -/

theorem imulwW_eq (x y : Word) : imulwW x y = x.signExtend 64 * y.signExtend 64 := BitVec.ofInt_mul _ _

theorem imulwZW_eq (x y : Word) : imulwZW x y = x.setWidth 64 * y.setWidth 64 := by
  rw [imulwZW, zx, zx, w64, BitVec.ofInt_mul, BitVec.ofInt_natCast, BitVec.ofInt_natCast, BitVec.ofNat_toNat, BitVec.ofNat_toNat]

/-! ## Running a word whose registers are usable -/

/-- A use of a register pair. -/
theorem outside_vp {env : Env} {p : Party} {n : Nat} :
    (RegUse.vp n).outside env p = [] ↔ ∀ i < 2, p.vwb.toNat + n + i < env.desc.vregs := by
  simp [RegUse.outside, RegUse.span, List.filter_eq_nil_iff]
theorem outside_up {env : Env} {p : Party} {n : Nat} :
    (RegUse.up n).outside env p = [] ↔ ∀ i < 2, p.swb.toNat + n + i < env.desc.uregs := by
  simp [RegUse.outside, RegUse.span, List.filter_eq_nil_iff]

/-- The register checks of a word pass at one use: its name is aligned and its registers lie inside the allotment (R56, R58). -/
def Usable (s : State) (c : Exec) (r : RegUse) : Prop := r.misaligned = false ∧ r.outside (c.env s) c.party = []

section
variable {s : State} {c : Exec}

theorem usable_v {n : Nat} (h : c.VOk n) : Usable s c (.v n) := ⟨rfl, outside_v.mpr h⟩
theorem usable_u {n : Nat} (h : c.UOk n) : Usable s c (.u n) := ⟨rfl, outside_u.mpr h⟩

theorem usable_vp {n : Nat} (h : c.VPairOk n) : Usable s c (.vp n) := by
  obtain ⟨even, inside⟩ := h
  exact ⟨by simp [RegUse.misaligned, even], outside_vp.mpr fun i hi => Nat.lt_of_le_of_lt (by omega) inside⟩

theorem usable_up {n : Nat} (h : c.UPairOk n) : Usable s c (.up n) := by
  obtain ⟨even, inside⟩ := h
  exact ⟨by simp [RegUse.misaligned, even], outside_up.mpr fun i hi => Nat.lt_of_le_of_lt (by omega) inside⟩

theorem usable_a {a : BitVec 7} {u : BitVec 1} (h : c.AOk a u) : Usable s c (useA a u) := by
  unfold Exec.AOk at h
  unfold useA
  split at h
  · next hu => rw [if_pos hu]; exact usable_u h
  · next hu => rw [if_neg hu]; exact usable_v h

theorem usable_aPair {a : BitVec 7} {u : BitVec 1} (h : c.APairOk a u) : Usable s c (useAPair a u) := by
  unfold Exec.APairOk at h
  unfold useAPair
  split at h
  · next hu => rw [if_pos hu]; exact usable_up h
  · next hu => rw [if_neg hu]; exact usable_vp h

/-- A word whose registers are all usable passes with the party it computes. -/
theorem runParty_useRegs {n : Nat} {l : List RegUse} {g : Env → Party → Party} (hc : s.current = some c) (hl : ∀ r ∈ l, Usable s c r) :
    s.runParty n (fun env p => do useRegs env p l; pure (g env p)) = s.passed c n (g (c.env s) c.party) := by
  have checks : useRegs (c.env s) c.party l = .ok () := useRegs_ok.mpr hl
  simp only [State.runParty, hc, checks]
  rfl

end

/-! ## The operand forms: one rule for each (R114, R121, R129) -/

section
variable {s : State} {c : Exec} {d a b : BitVec 7} {u : BitVec 1} (hc : s.current = some c)
include hc

theorem alu1_passes {f : Word → Word} {g : Nat → Word} (hd : c.VOk d.toNat) (ha : c.AOk a u) (e : ∀ l, f (c.party.opA a u l) = g l) :
    s.runParty 1 (alu1 d a u f) = s.passed c 1 (c.party.setV d.toNat g) := by
  rw [← funext e]
  exact runParty_useRegs hc (by simp [usable_v hd, usable_a ha])

theorem alu2_passes {f : Word → Word → Word} {g : Nat → Word} (hd : c.VOk d.toNat) (ha : c.AOk a u) (hb : c.VOk b.toNat)
    (e : ∀ l, f (c.party.opA a u l) (c.party.vreg b.toNat l) = g l) :
    s.runParty 1 (alu2 d a b u f) = s.passed c 1 (c.party.setV d.toNat g) := by
  rw [← funext e]
  exact runParty_useRegs hc (by simp [usable_v hd, usable_a ha, usable_v hb])

theorem alu3_passes {f : Word → Word → Word → Word} {g : Nat → Word} (hd : c.VOk d.toNat) (ha : c.AOk a u) (hb : c.VOk b.toNat)
    (e : ∀ l, f (c.party.opA a u l) (c.party.vreg b.toNat l) (c.party.vreg d.toNat l) = g l) :
    s.runParty 1 (alu3 d a b u f) = s.passed c 1 (c.party.setV d.toNat g) := by
  rw [← funext e]
  exact runParty_useRegs hc (by simp [usable_v hd, usable_a ha, usable_v hb])

theorem alu64_passes {f : DWord → DWord → DWord} {g : Nat → DWord} (hd : c.VPairOk d.toNat) (ha : c.APairOk a u)
    (hb : c.VPairOk b.toNat) (e : ∀ l, f (c.party.opAPair a u l) (c.party.vpair b.toNat l) = g l) :
    s.runParty 1 (alu64 d a b u f) = s.passed c 1 (c.party.setVPair d.toNat g) := by
  rw [← funext e]
  exact runParty_useRegs hc (by simp [usable_vp hd, usable_aPair ha, usable_vp hb])

theorem aluShift64_passes {f : DWord → Word → DWord} {g : Nat → DWord} (hd : c.VPairOk d.toNat) (ha : c.APairOk a u)
    (hb : c.VOk b.toNat) (e : ∀ l, f (c.party.opAPair a u l) (c.party.vreg b.toNat l) = g l) :
    s.runParty 1 (aluShift64 d a b u f) = s.passed c 1 (c.party.setVPair d.toNat g) := by
  rw [← funext e]
  exact runParty_useRegs hc (by simp [usable_vp hd, usable_aPair ha, usable_v hb])

theorem aluWide_passes {f : Word → Word → DWord} {g : Nat → DWord} (hd : c.VPairOk d.toNat) (ha : c.AOk a u) (hb : c.VOk b.toNat)
    (e : ∀ l, f (c.party.opA a u l) (c.party.vreg b.toNat l) = g l) :
    s.runParty 1 (aluWide d a b u f) = s.passed c 1 (c.party.setVPair d.toNat g) := by
  rw [← funext e]
  exact runParty_useRegs hc (by simp [usable_vp hd, usable_a ha, usable_v hb])

theorem uni1_passes {f : Word → Word} {w : Word} (hd : c.UOk d.toNat) (ha : c.UOk a.toNat) (e : f (c.party.ureg a.toNat) = w) :
    s.runParty 1 (uni1 d a f) = s.passed c 1 (c.party.setU d.toNat w) := by
  rw [← e]
  exact runParty_useRegs hc (by simp [usable_u hd, usable_u ha])

theorem uni2_passes {f : Word → Word → Word} {w : Word} (hd : c.UOk d.toNat) (ha : c.UOk a.toNat) (hb : c.UOk b.toNat)
    (e : f (c.party.ureg a.toNat) (c.party.ureg b.toNat) = w) :
    s.runParty 1 (uni2 d a b f) = s.passed c 1 (c.party.setU d.toNat w) := by
  rw [← e]
  exact runParty_useRegs hc (by simp [usable_u hd, usable_u ha, usable_u hb])

theorem uni64_passes {f : DWord → DWord → DWord} (hd : c.UPairOk d.toNat) (ha : c.UPairOk a.toNat) (hb : c.UPairOk b.toNat) :
    s.runParty 1 (uni64 d a b f) = s.passed c 1 (c.party.setUPair d.toNat (f (c.party.upair a.toNat) (c.party.upair b.toNat))) :=
  runParty_useRegs hc (by simp [usable_up hd, usable_up ha, usable_up hb])

/-! Comparison and selection (R122, R123). -/

theorem execIsetp_passes {q k : BitVec 3} {f : Nat → Bool} (ha : c.AOk a u) (hb : c.VOk b.toNat)
    (e : ∀ l, intCond k (c.party.opA a u l) (c.party.vreg b.toNat l) = f l) :
    execIsetp q a b u k s = s.passed c 1 (c.party.setPred q.toNat f) := by
  rw [← funext e]
  exact runParty_useRegs hc (l := [useA a u, .v b.toNat]) (by simp [usable_a ha, usable_v hb])

theorem execSsetq_passes {q k : BitVec 3} {x : Bool} (ha : c.UOk a.toNat) (hb : c.UOk b.toNat)
    (e : intCond k (c.party.ureg a.toNat) (c.party.ureg b.toNat) = x) :
    execSsetq q a b k s = s.passed c 1 (c.party.setQ q.toNat x) := by
  rw [← e]
  exact runParty_useRegs hc (l := [.u a.toNat, .u b.toNat]) (by simp [usable_u ha, usable_u hb])

theorem execSel_passes {k : BitVec 3} (hd : c.VOk d.toNat) (ha : c.AOk a u) (hb : c.VOk b.toNat) :
    execSel d a b u k s = s.passed c 1 (c.party.setV d.toNat fun l =>
      if (c.party.pred k.toNat).getLsbD l then c.party.opA a u l else c.party.vreg b.toNat l) :=
  runParty_useRegs hc (l := [.v d.toNat, useA a u, .v b.toNat]) (by simp [usable_v hd, usable_a ha, usable_v hb])

end

/-! ## The obligations of spec/06 -/

theorem addSubtractCompletes : Claim.AddSubtractCompletes := by
  intro s c d a b u hc hd ha hb x y wrote
  exact ⟨alu2_passes hc hd ha hb fun l => rfl, alu2_passes hc hd ha hb fun l => rfl,
    alu2_passes hc hd ha hb fun l => satS_eq _, alu2_passes hc hd ha hb fun l => satZ_add _ _,
    alu2_passes hc hd ha hb fun l => satS_eq _, alu2_passes hc hd ha hb fun l => satZ_sub _ _,
    alu2_passes hc hd ha hb fun l => iabsdW_eq _ _, alu2_passes hc hd ha hb fun l => iavgW_eq _ _⟩

theorem multiplyCompletes : Claim.MultiplyCompletes := by
  intro s c d a b u hc hd ha hb x y z wrote sb zb sh
  exact ⟨alu2_passes hc hd ha hb fun l => rfl, alu2_passes hc hd ha hb fun l => imulhSW_eq _ _,
    alu2_passes hc hd ha hb fun l => imulhZW_eq _ _, alu3_passes hc hd ha hb fun l => rfl,
    alu3_passes hc hd ha hb fun l => idot4SW_eq _ _ _, alu3_passes hc hd ha hb fun l => idot4ZW_eq _ _ _,
    alu3_passes hc hd ha hb fun l => idot2W_eq _ _ _⟩

theorem minMaxSignLogicComplete : Claim.MinMaxSignLogicComplete := by
  intro s c d a b u hc hd ha x y wrote
  refine ⟨alu1_passes hc hd ha fun l => iabsW_eq _, alu1_passes hc hd ha fun l => (BitVec.zero_sub _).symm,
    alu1_passes hc hd ha fun l => isgnW_eq _, alu1_passes hc hd ha fun l => rfl, fun hb => ?_⟩
  exact ⟨alu2_passes hc hd ha hb fun l => iminSW_eq _ _, alu2_passes hc hd ha hb fun l => iminZW_eq _ _,
    alu2_passes hc hd ha hb fun l => imaxSW_eq _ _, alu2_passes hc hd ha hb fun l => imaxZW_eq _ _,
    alu2_passes hc hd ha hb fun l => rfl, alu2_passes hc hd ha hb fun l => rfl, alu2_passes hc hd ha hb fun l => rfl,
    alu2_passes hc hd ha hb fun l => rfl, alu2_passes hc hd ha hb fun l => rfl, alu2_passes hc hd ha hb fun l => rfl⟩

/-- Settles O10: the operand forms of R114 with the arithmetic of R115 to R118. -/
theorem vectorIntegerWordsComplete : Obligations.VectorIntegerWordsComplete :=
  ⟨vectorIntegerEncodings, addSubtractCompletes, multiplyCompletes, minMaxSignLogicComplete⟩

theorem shiftsComplete : Claim.ShiftsComplete := by
  intro s c d a b u hc hd ha hb x y z wrote
  exact ⟨alu2_passes hc hd ha hb fun l => shlW_eq _ _, alu2_passes hc hd ha hb fun l => shrW_eq _ _,
    alu2_passes hc hd ha hb fun l => sarW_eq _ _, alu2_passes hc hd ha hb fun l => rolW_eq _ _,
    alu2_passes hc hd ha hb fun l => rorW_eq _ _, alu3_passes hc hd ha hb fun l => fshlW_eq _ _ _,
    alu3_passes hc hd ha hb fun l => fshrW_eq _ _ _⟩

theorem countsAndFieldsComplete : Claim.CountsAndFieldsComplete := by
  intro s c d a b u hc hd ha x y z wrote pos len mask sel
  refine ⟨alu1_passes hc hd ha fun l => popcW_eq _, alu1_passes hc hd ha fun l => clzW_eq _,
    alu1_passes hc hd ha fun l => ctzW_eq _, alu1_passes hc hd ha fun l => brevW_eq _, fun hb => ?_⟩
  have hpos : pos = fieldPos := funext fun w => (fieldPos_eq w).symm
  have hlen : len = fieldLen := funext fun w => (fieldLen_eq w).symm
  have hmask : mask = fieldMask := by
    show (fun w => BitVec.ofNat 32 ((2 ^ len w - 1) * 2 ^ pos w)) = _
    rw [hpos, hlen]
    rfl
  rw [hpos, hlen, hmask]
  exact ⟨alu2_passes hc hd ha hb fun l => bfeZW_eq _ _, alu2_passes hc hd ha hb fun l => bfeSW_eq _ _,
    alu3_passes hc hd ha hb fun l => bfiW_eq _ _ _, alu3_passes hc hd ha hb fun l => prmtW_eq _ _ _⟩

theorem pairArithmeticCompletes : Claim.PairArithmeticCompletes := by
  intro s c d a b u hc hd x wrote
  refine ⟨fun ha hb => ⟨alu64_passes hc hd ha hb fun l => rfl, alu64_passes hc hd ha hb fun l => rfl⟩, fun ha hb => ?_, fun ha hb => ?_⟩
  · exact ⟨aluShift64_passes hc hd ha hb fun l => shl64W_eq _ _, aluShift64_passes hc hd ha hb fun l => shr64W_eq _ _,
      aluShift64_passes hc hd ha hb fun l => sar64W_eq _ _⟩
  · exact ⟨aluWide_passes hc hd ha hb fun l => imulwW_eq _ _, aluWide_passes hc hd ha hb fun l => imulwZW_eq _ _⟩

/-- Settles O11: the operand forms of R114 and R121 with the shifts, fields and products of R119 to R121. -/
theorem vectorShiftsAndPairsComplete : Obligations.VectorShiftsAndPairsComplete :=
  ⟨vectorShiftEncodings, shiftsComplete, countsAndFieldsComplete, pairArithmeticCompletes⟩

theorem comparisonsWrite : Claim.ComparisonsWrite := by
  intro s c d k e a b u hc meaning x y
  exact ⟨fun ha hb => execIsetp_passes hc ha hb fun l => intCond_eq _ _ _,
    fun ha hb => execSsetq_passes hc ha hb (intCond_eq _ _ _), fun he ha hb => execSel_passes hc he ha hb⟩

/-- Settles O12: the conditions of R122 read as comparisons of bit vectors. -/
theorem comparisonsComplete : Obligations.ComparisonsComplete := ⟨comparisonEncodings, comparisonsWrite⟩

theorem uniformWordsWrite : Claim.UniformWordsWrite := by
  intro s c d a b hc x y wrote
  refine ⟨fun hd ha hb => ?_, fun hd ha => uni1_passes hc hd ha (popcW_eq _), fun hd ha hb => ?_⟩
  · exact ⟨uni2_passes hc hd ha hb rfl, uni2_passes hc hd ha hb rfl, uni2_passes hc hd ha hb rfl, uni2_passes hc hd ha hb rfl,
      uni2_passes hc hd ha hb rfl, uni2_passes hc hd ha hb rfl, uni2_passes hc hd ha hb (shlW_eq _ _),
      uni2_passes hc hd ha hb (shrW_eq _ _), uni2_passes hc hd ha hb (sarW_eq _ _), uni2_passes hc hd ha hb (iminSW_eq _ _),
      uni2_passes hc hd ha hb (imaxSW_eq _ _), uni2_passes hc hd ha hb (iminZW_eq _ _), uni2_passes hc hd ha hb (imaxZW_eq _ _)⟩
  · exact ⟨uni64_passes hc hd ha hb, uni64_passes hc hd ha hb⟩

/-- Settles O15: the uniform forms of R129 with the arithmetic of the vector words. -/
theorem uniformWordsComplete : Obligations.UniformWordsComplete := ⟨uniformEncodings, uniformWordsWrite⟩

end Sys2Proof.Proofs
end
